-- ==== Sys2Proof/Word.lean ====
section
/-!
DEFINITION. The plain data types of the machine's words: what a register, an address and a flag set are.
-/
namespace Sys2Proof

/-- A 64-bit word: an x register, a lane of a token (R65, R81). -/
abbrev Word := BitVec 64

/-- An 80-bit virtual address: an a register, the program counter (R81, R127). -/
abbrev Addr := BitVec 80

/-- A byte (R2). -/
abbrev Byte := BitVec 8

/-- The seven sticky flags NV, DZ, OF, UF, NX, SA, NI in bits 0 to 6 (R35). -/
abbrev FlagSet := BitVec 7

end Sys2Proof
end

