-- ==== Sys2Proof/Syntax.lean ====
section
/-!
DEFINITION. The syntax of the machine's steps: the operand types of the two instruction sets and the ONE inductive
Instr, a constructor for every row of spec/opcode_table.json (events, Pelyen-A words, Pelyen-E words).
-/
namespace Sys2Proof

/-- Element types, in ETYPE code order (R23). -/
inductive EType where
  | i8 | u8 | i16 | u16 | i32 | u32 | i64 | i4 | fp64 | fp32 | fp16 | bf16 | e4m3 | e5m2 | e2m1 | e3m2
  deriving DecidableEq, Repr

/-- Rounding modes, codes 000 to 101 (R32). -/
inductive Rm where
  | rne | rtz | rup | rdn | rna | rsh
  deriving DecidableEq, Repr

/-- The access-side rounding field: a fixed mode, or dynamic from sr.frm (R32). -/
inductive FpRm where
  | rne | rtz | rup | rdn | rna | dyn
  deriving DecidableEq, Repr

/-- FMT of the FP group (R56). -/
inductive FpFmt where
  | f32 | f64
  deriving DecidableEq, Repr

/-- SUB of FCMP (R56). -/
inductive FpCond where
  | eq | lt | le | un
  deriving DecidableEq, Repr

/-- Size codes (R52); a is the 16-byte pointer form. -/
inductive Sz where
  | b | h | w | d | bu | hu | wu | a
  deriving DecidableEq, Repr

/-- L1 hints of format M (R53). -/
inductive Mo where
  | normal | na | ef
  deriving DecidableEq, Repr

/-- AMO operations (R53). -/
inductive Afn where
  | add | and | or | xor | min | max | minu | maxu | swap | fadd
  deriving DecidableEq, Repr

/-- Scopes of AMO, CAS and FENCE (R344). -/
inductive Scope where
  | thr | rgn | die | mod | sys
  deriving DecidableEq, Repr

/-- Ordering of AMO and CAS (R53). -/
inductive AMo where
  | relaxed | acq | rel | ar
  deriving DecidableEq, Repr

/-- PREF hints (R155). -/
inductive Hint where
  | fillL1 | fillTile
  deriving DecidableEq, Repr

/-- Levels of QPUSHS: six stop levels and the invocation marker (R169). -/
inductive Level where
  | s1 | s2 | s3 | s4 | s5 | s6 | marker
  deriving DecidableEq, Repr

/-- Ends of a remote queue (R183). -/
inductive RqEnd where
  | send | recv
  deriving DecidableEq, Repr

/-- FENCE kinds (R343). -/
inductive FenceKind where
  | full | rel | acq
  deriving DecidableEq, Repr

/-- Status registers that have a number (R57). -/
inductive SrNum where
  | mode | epc | cause | tval | fflags | frm | gen | lt | gtime | rwait | qwatch | prio
  deriving DecidableEq, Repr

/-- REACH of TLBINV (R156). -/
inductive Reach where
  | die | module
  deriving DecidableEq, Repr

/-- P of a Pelyen-E word (R59). -/
inductive EPred where
  | none | pos | neg
  deriving DecidableEq, Repr

/-- Operand slots of an element instruction (R60). -/
inductive Slot where
  | l | r | p | t
  deriving DecidableEq, Repr

/-- Privilege modes (R83, R84). -/
inductive Mode where
  | worker | supervisor | firmware
  deriving DecidableEq, Repr

/-- A target of an element instruction: an instruction index and a slot, or no target (R60). -/
inductive Target where
  | none
  | to (index : Fin 128) (slot : Slot)
  deriving DecidableEq, Repr

/-- The fields of a Pelyen-E word below its opcode (R59): K, P, W and the two targets. -/
structure EWord where
  k : Bool
  p : EPred
  w : Fin 8
  t1 : Target
  t2 : Target
  deriving DecidableEq, Repr

/-- A token: its sideband fields (R65) and its sixteen lanes. -/
structure Token where
  flags : FlagSet
  round : BitVec 15
  ctx : Fin 4
  gen : BitVec 8
  etype : EType
  stop : Fin 8
  valid : BitVec 16
  lanes : Vector Word 16
  deriving DecidableEq, Repr

/-- A fault record as R372 lays it out, without its SEQ, which the server's ring gives it. -/
structure FaultRecord where
  kind : Fin 10
  part : Fin 8
  module : BitVec 16
  region : BitVec 16
  ctx : Fin 4
  unit : Fin 4
  x : BitVec 8
  y : BitVec 8
  slot : BitVec 8
  round : BitVec 15
  lidx : BitVec 16
  gtime : Word
  addr : BitVec 128
  info : Word
  deriving DecidableEq, Repr

/-- What a control beat carries (R383). The spec gives no bit layout for control beats, so they stay abstract. -/
inductive Control where
  | stop (key : BitVec 16)
  | go (key : BitVec 16)
  | tokensAcked (key : BitVec 16) (n : Nat)
  | join (gang seq : BitVec 16)
  | cancel (gang seq : BitVec 16)
  | record (server : Fin 8) (lidx : BitVec 16) (r : FaultRecord)
  | time (ns : Nat)
  deriving DecidableEq, Repr

/-- One beat of a flit with its kind and the low 16 bits of its pairing key (R383). -/
inductive Beat where
  | empty
  | queue (key : BitVec 16) (tok : Token)
  | reduce (key : BitVec 16) (tok : Token)
  | route (key : BitVec 16) (tok : Token)
  | control (c : Control)
  deriving DecidableEq, Repr

/-- A flit: its sequence and acknowledgement numbers and its two beats (R383). -/
structure Flit where
  seq : BitVec 16
  ack : BitVec 16
  beat0 : Beat
  beat1 : Beat
  deriving DecidableEq, Repr

/-- A firmware image slot as the boot ROM finds it (R425): the image's bytes and its XMSS signature. -/
structure ImageSlot where
  bytes : List Byte
  signature : List Byte
  deriving DecidableEq, Repr

/-- What the parts answer at a module start (R422): the two image slots, the (step, unit) pairs that fail on the normal and on
the alternative path (bogies numbered die × 144 + 12 × by + bx), the enumerated sizes of the CXL windows in granules, the module beyond each link
port, and how many attempts the units took that took more than one, as (step, unit, attempts). -/
structure BootOutcome where
  slotA : ImageSlot
  slotB : ImageSlot
  failNormal : List (Nat × Nat)
  failAlt : List (Nat × Nat)
  cxl0 : Nat
  cxl1 : Nat
  peers : List (BitVec 16)
  tries : List (Nat × Nat × BitVec 8)
  deriving DecidableEq, Repr

/-- What the management port can do, and nothing else (R432). -/
inductive MgmtAccess where
  | readPwrNow
  | readBootStat
  | readBootRec (i : Fin 256)
  | readTimeStat
  | writePwrCap (v : Word)
  | attest (nonce : BitVec 256)
  deriving DecidableEq, Repr

/-- The hardware's own steps and the outside world's (the rows of the table without an encoding), as the machine's agenda lists them.
Each is also a constructor of Instr. -/
inductive Event where
  | moduleStart (o : BootOutcome)  -- MODULE_START R422
  | bootClr (step unit : Nat)  -- BOOT_CLR R423
  | attestationRequest (nonce : BitVec 256)  -- ATTESTATION_REQUEST R426
  | managementPortAccess (a : MgmtAccess)  -- MANAGEMENT_PORT_ACCESS R432
  | heartbeatMiss (die : Fin 4)  -- HEARTBEAT_MISS R424
  | homeLossBroadcast (die : Fin 4)  -- HOME_LOSS_BROADCAST R381
  | retrain (port : Fin 16)  -- RETRAIN R428
  | retrainComplete (port : Fin 16) (passed : Bool) (peer : BitVec 16)  -- RETRAIN_COMPLETE R428
  | powerMeasurement (watts temp : Nat) (clamps : Vector Nat 4)  -- POWER_MEASUREMENT R430
  | thermalClamp  -- THERMAL_CLAMP R431
  | thermalPowerOff (die : Fin 4)  -- THERMAL_POWER_OFF R431
  | bucketSettingWrite (die : Fin 4) (bogie : Fin 144) (v : BitVec 64)  -- BUCKET_SETTING_WRITE R430
  | bucketCredit (die : Fin 4)  -- BUCKET_CREDIT R213
  | registerWrite (pa : Nat) (size : Nat) (v : Nat) (mode : Mode)  -- REGISTER_WRITE R80
  | partitionStart (p : Fin 8)  -- PARTITION_START R352
  | partitionStop (p : Fin 8)  -- PARTITION_STOP R353
  | sliceArm (p : Fin 8)  -- SLICE_ARM R363
  | sliceJoin (p : Fin 8)  -- SLICE_JOIN R363
  | sliceBegin (p : Fin 8)  -- SLICE_BEGIN R363
  | joinReceived (p : Fin 8) (gang seq peer : BitVec 16)  -- JOIN_RECEIVED R363
  | graceExpiry (p : Fin 8)  -- GRACE_EXPIRY R363
  | cancelReceived (p : Fin 8) (gang seq : BitVec 16)  -- CANCEL_RECEIVED R363
  | timeDiscipline (die : Fin 4) (drift : Int) (sync : Bool)  -- TIME_DISCIPLINE R361
  | driftBeyondGuard (die : Fin 4) (drift : Nat)  -- DRIFT_BEYOND_GUARD R327
  | ltTick (core : Nat)  -- LT_TICK R321
  | selectThread (core : Nat)  -- SELECT_THREAD R89
  | takeTrap (t : Nat)  -- TAKE_TRAP R85
  | likelyPathResolution (t : Nat)  -- LIKELY_PATH_RESOLUTION R98
  | wfeLimit (t : Nat)  -- WFE_LIMIT R104
  | queueStall (t : Nat)  -- QUEUE_STALL R177
  | lossOfDecoupling (t : Nat)  -- LOSS_OF_DECOUPLING R175
  | queuePortDelivery (t q : Nat)  -- QUEUE_PORT_DELIVERY R161
  | queueAccept (t q : Nat)  -- QUEUE_ACCEPT R161
  | remoteTokenArrival (t q : Nat) (tok : Token)  -- REMOTE_TOKEN_ARRIVAL R185
  | ringReentry (t q : Nat)  -- RING_REENTRY R185
  | stopGo (t q : Nat)  -- STOP_GO R185
  | remoteAck (t q n : Nat)  -- REMOTE_ACK R186
  | remotePairing (t q : Nat)  -- REMOTE_PAIRING R184
  | flitReceived (port : Fin 16) (f : Flit) (intact : Bool)  -- FLIT_RECEIVED R384
  | flitResend (port : Fin 16)  -- FLIT_RESEND R384
  | portDown (port : Fin 16)  -- PORT_DOWN R384
  | loadAtHome (id : Nat)  -- LOAD_AT_HOME R320
  | loadReply (id : Nat)  -- LOAD_REPLY R320
  | storeAtHome (id : Nat)  -- STORE_AT_HOME R320
  | atomicAtHome (id : Nat)  -- ATOMIC_AT_HOME R154
  | invalidationAck (id : Nat) (die : Fin 4)  -- INVALIDATION_ACK R325
  | hostRead (pa size : Nat) (cache : Bool)  -- HOST_READ R326
  | hostWrite (pa size v : Nat)  -- HOST_WRITE R326
  | hostSnoop (line : Nat)  -- HOST_SNOOP R326
  | backInvalidateResponse (id : Nat)  -- BACK_INVALIDATE_RESPONSE R326
  | cxlLeaseWaitEnd (id : Nat)  -- CXL_LEASE_WAIT_END R327
  | pageWalk (die : Fin 4)  -- PAGE_WALK R141
  | domainReadAtHome (id : Nat)  -- DOMAIN_READ_AT_HOME R333
  | staleWait (id : Nat)  -- STALE_WAIT R334
  | roundControllerIncrement (t : Nat)  -- ROUND_CONTROLLER_INCREMENT R339
  | viewUpdate (p : Fin 8) (dom : Nat) (die : Fin 4) (n : Nat)  -- VIEW_UPDATE R339
  | contextCounter (rgn : Nat)  -- CONTEXT_COUNTER R205
  | roundStart (rgn ce : Nat)  -- ROUND_START R200
  | vectorUnitStart (rgn ce : Nat)  -- VECTOR_UNIT_START R221
  | roundCommit (rgn ce : Nat)  -- ROUND_COMMIT R201
  | channelHeadArrival (rgn chan : Nat)  -- CHANNEL_HEAD_ARRIVAL R403
  | kStepRound (rgn ce : Nat)  -- K_STEP_ROUND R249
  | brakeEngage (rgn : Nat) (freeze : Bool)  -- BRAKE_ENGAGE R258
  | brakeRelease (rgn : Nat)  -- BRAKE_RELEASE R258
  | sequencerTimeout (rgn : Nat) (mt : Bool) (unit : Nat)  -- SEQUENCER_TIMEOUT R367
  | faultRecordLeave (rgn : Nat)  -- FAULT_RECORD_LEAVE R370
  | autoDiscard (rgn : Nat)  -- AUTO_DISCARD R371
  | faultRecordWrite (p : Fin 8)  -- FAULT_RECORD_WRITE R372
  | triggerFire (rgn : Nat)  -- TRIGGER_FIRE R211
  | quietReport (rgn : Nat)  -- QUIET_REPORT R206
  | swapActivate (rgn : Nat)  -- SWAP_ACTIVATE R208
  | mtRequestArrival (rgn mt : Nat)  -- MT_REQUEST_ARRIVAL R272
  | mtBankAccess (rgn mt : Nat)  -- MT_BANK_ACCESS R272
  | mtResponse (rgn mt : Nat)  -- MT_RESPONSE R271
  | streamLineRequest (t slot : Nat)  -- STREAM_LINE_REQUEST R287
  | streamTokenDelivery (t slot : Nat)  -- STREAM_TOKEN_DELIVERY R291
  | storeStreamTake (t slot : Nat)  -- STORE_STREAM_TAKE R293
  | poolBag (t slot : Nat)  -- POOL_BAG R308
  | completionToken (t slot : Nat) (copyEngine : Bool)  -- COMPLETION_TOKEN R317
  | copyLine (die : Fin 4)  -- COPY_LINE R315
  | deadlineTest (die : Fin 4) (p : Fin 8)  -- DEADLINE_TEST R315
  | chainHop (t slot : Nat)  -- CHAIN_HOP R389
  | ingressSelector (t slot : Nat)  -- INGRESS_SELECTOR R391
  | storeAcknowledgement (id : Nat)  -- STORE_ACKNOWLEDGEMENT R320
  | l1Invalidation (die : Fin 4) (line : Nat)  -- L1_INVALIDATION R325
  | flitSend (port : Fin 16)  -- FLIT_SEND R383
  | thermalClampRelease  -- THERMAL_CLAMP_RELEASE R431
  deriving DecidableEq, Repr

/-- Every step of the part: one constructor per row of the opcode table, with the row's mnemonic and rule beside it. -/
inductive Instr where
  -- Pelyen-A words that the decoder names
  | add (d : Fin 32) (s : Fin 32) (t : Fin 32)  -- ADD R109
  | sub (d : Fin 32) (s : Fin 32) (t : Fin 32)  -- SUB R109
  | and (d : Fin 32) (s : Fin 32) (t : Fin 32)  -- AND R109
  | or (d : Fin 32) (s : Fin 32) (t : Fin 32)  -- OR R109
  | xor (d : Fin 32) (s : Fin 32) (t : Fin 32)  -- XOR R109
  | sll (d : Fin 32) (s : Fin 32) (t : Fin 32)  -- SLL R109
  | srl (d : Fin 32) (s : Fin 32) (t : Fin 32)  -- SRL R109
  | sra (d : Fin 32) (s : Fin 32) (t : Fin 32)  -- SRA R109
  | slt (d : Fin 32) (s : Fin 32) (t : Fin 32)  -- SLT R109
  | sltu (d : Fin 32) (s : Fin 32) (t : Fin 32)  -- SLTU R109
  | min (d : Fin 32) (s : Fin 32) (t : Fin 32)  -- MIN R109
  | max (d : Fin 32) (s : Fin 32) (t : Fin 32)  -- MAX R109
  | minu (d : Fin 32) (s : Fin 32) (t : Fin 32)  -- MINU R109
  | maxu (d : Fin 32) (s : Fin 32) (t : Fin 32)  -- MAXU R109
  | mul (d : Fin 32) (s : Fin 32) (t : Fin 32)  -- MUL R110
  | mulh (d : Fin 32) (s : Fin 32) (t : Fin 32)  -- MULH R110
  | mulhu (d : Fin 32) (s : Fin 32) (t : Fin 32)  -- MULHU R110
  | div (d : Fin 32) (s : Fin 32) (t : Fin 32)  -- DIV R110
  | divu (d : Fin 32) (s : Fin 32) (t : Fin 32)  -- DIVU R110
  | rem (d : Fin 32) (s : Fin 32) (t : Fin 32)  -- REM R110
  | remu (d : Fin 32) (s : Fin 32) (t : Fin 32)  -- REMU R110
  | clz (d : Fin 32) (s : Fin 32)  -- CLZ R111
  | ctz (d : Fin 32) (s : Fin 32)  -- CTZ R111
  | popc (d : Fin 32) (s : Fin 32)  -- POPC R111
  | bswap (d : Fin 32) (s : Fin 32)  -- BSWAP R111
  | addi (d : Fin 32) (s : Fin 32) (i : BitVec 16)  -- ADDI R112
  | andi (d : Fin 32) (s : Fin 32) (i : BitVec 16)  -- ANDI R112
  | ori (d : Fin 32) (s : Fin 32) (i : BitVec 16)  -- ORI R112
  | xori (d : Fin 32) (s : Fin 32) (i : BitVec 16)  -- XORI R112
  | slti (d : Fin 32) (s : Fin 32) (i : BitVec 16)  -- SLTI R112
  | sltiu (d : Fin 32) (s : Fin 32) (i : BitVec 16)  -- SLTIU R112
  | slli (d : Fin 32) (s : Fin 32) (h : BitVec 6)  -- SLLI R113
  | srli (d : Fin 32) (s : Fin 32) (h : BitVec 6)  -- SRLI R113
  | srai (d : Fin 32) (s : Fin 32) (h : BitVec 6)  -- SRAI R113
  | lui (d : Fin 32) (i : BitVec 16)  -- LUI R114
  | aadd (d : Fin 16) (s : Fin 16) (t : Fin 32)  -- AADD R115
  | asub (d : Fin 32) (s : Fin 16) (t : Fin 16)  -- ASUB R115
  | afromx (d : Fin 16) (s : Fin 32)  -- AFROMX R115
  | atox (d : Fin 32) (s : Fin 16)  -- ATOX R115
  | ahi (d : Fin 32) (s : Fin 16)  -- AHI R115
  | asethi (d : Fin 16) (s : Fin 16) (t : Fin 32)  -- ASETHI R115
  | aaddi (d : Fin 16) (s : Fin 16) (i : BitVec 16)  -- AADDI R116
  | addpc (d : Fin 16) (i : BitVec 22)  -- ADDPC R117
  | fadd (d : Fin 32) (s : Fin 32) (t : Fin 32) (rm : FpRm) (f : FpFmt)  -- FADD R119
  | fsub (d : Fin 32) (s : Fin 32) (t : Fin 32) (rm : FpRm) (f : FpFmt)  -- FSUB R119
  | fmul (d : Fin 32) (s : Fin 32) (t : Fin 32) (rm : FpRm) (f : FpFmt)  -- FMUL R119
  | fdiv (d : Fin 32) (s : Fin 32) (t : Fin 32) (rm : FpRm) (f : FpFmt)  -- FDIV R119
  | fsqrt (d : Fin 32) (s : Fin 32) (rm : FpRm) (f : FpFmt)  -- FSQRT R119
  | fma (d : Fin 32) (s : Fin 32) (t : Fin 32) (rm : FpRm) (f : FpFmt)  -- FMA R119
  | fmin (d : Fin 32) (s : Fin 32) (t : Fin 32) (f : FpFmt)  -- FMIN R120
  | fmax (d : Fin 32) (s : Fin 32) (t : Fin 32) (f : FpFmt)  -- FMAX R120
  | fcmp (d : Fin 32) (s : Fin 32) (t : Fin 32) (c : FpCond) (f : FpFmt)  -- FCMP R121
  | fcvt (d : Fin 32) (s : Fin 32) (e : EType) (v : Bool) (rm : FpRm) (f : FpFmt)  -- FCVT R123
  | fclass (d : Fin 32) (s : Fin 32) (f : FpFmt)  -- FCLASS R122
  | vidx (d : Fin 16) (s : Fin 32) (t : Fin 32)  -- VIDX R125
  | vld (d : Fin 16) (s : Fin 16) (t : Fin 16)  -- VLD R126
  | vadd (d : Fin 16) (s : Fin 16) (t : Fin 16)  -- VADD R125
  | vbcast (d : Fin 16) (s : Fin 32)  -- VBCAST R125
  | vcmp (d : Fin 8) (s : Fin 16) (t : Fin 16)  -- VCMP R125
  | vext (d : Fin 32) (s : Fin 16) (t : Fin 32)  -- VEXT R125
  | ld (d : Fin 32) (a : Fin 16) (z : Sz) (mo : Mo) (o : BitVec 12)  -- LD R148
  | st (d : Fin 32) (a : Fin 16) (z : Sz) (mo : Mo) (o : BitVec 12)  -- ST R149
  | ldacq (d : Fin 32) (a : Fin 16) (z : Sz) (mo : Mo) (o : BitVec 12)  -- LDACQ R150
  | strel (d : Fin 32) (a : Fin 16) (z : Sz) (mo : Mo) (o : BitVec 12)  -- STREL R150
  | ldb (d : Fin 32) (a : Fin 16) (z : Sz) (b : Fin 16) (o : BitVec 10)  -- LDB R337
  | amo (d : Fin 32) (a : Fin 16) (s : Fin 32) (f : Afn) (c : Scope) (mo : AMo) (z : Sz)  -- AMO R152
  | cas (d : Fin 32) (a : Fin 16) (s : Fin 32) (c : Scope) (mo : AMo) (z : Sz)  -- CAS R153
  | pref (h : Hint) (a : Fin 16) (o : BitVec 12)  -- PREF R155
  | beq (s : Fin 32) (t : Fin 32) (o : BitVec 16)  -- BEQ R92
  | bne (s : Fin 32) (t : Fin 32) (o : BitVec 16)  -- BNE R92
  | blt (s : Fin 32) (t : Fin 32) (o : BitVec 16)  -- BLT R92
  | bge (s : Fin 32) (t : Fin 32) (o : BitVec 16)  -- BGE R92
  | bltu (s : Fin 32) (t : Fin 32) (o : BitVec 16)  -- BLTU R92
  | bgeu (s : Fin 32) (t : Fin 32) (o : BitVec 16)  -- BGEU R92
  | j (o : BitVec 26)  -- J R93
  | jal (o : BitVec 26)  -- JAL R93
  | jalr (d : Fin 16) (s : Fin 16) (i : BitVec 16)  -- JALR R94
  | bqb (d : Fin 32) (o : BitVec 16)  -- BQB R95
  | bqbLk (d : Fin 32) (o : BitVec 16)  -- BQB_LK R96
  | qpush (r : Fin 32) (q : Fin 32) (c : Bool)  -- QPUSH R168
  | qpushv (r : Fin 16) (q : Fin 32) (c : Bool) (m : Fin 8)  -- QPUSHV R168
  | qpushs (q : Fin 32) (l : Level)  -- QPUSHS R169
  | qpop (d : Fin 32) (q : Fin 32) (rm : Bool) (l : Fin 16)  -- QPOP R172
  | qpopSb (d : Fin 32) (q : Fin 32) (rm : Bool)  -- QPOP_SB R172
  | qstat (d : Fin 32) (q : Fin 32) (c : Bool) (b : Bool) (sel : Fin 4)  -- QSTAT R176
  | qbind (s : Fin 32) (q : Fin 32) (l : Bool) (b : Bool) (p : Fin 4)  -- QBIND R164
  | qunbind (q : Fin 32) (b : Bool)  -- QUNBIND R165
  | qdisc (d : Fin 32) (q : Fin 32) (b : Bool)  -- QDISC R178
  | bqpop (d : Fin 32)  -- BQPOP R174
  | rqbind (a : Fin 16) (q : Fin 32) (e : RqEnd)  -- RQBIND R183
  | sspec (s : Fin 32) (a : Fin 16)  -- SSPEC R298
  | sstopPause (s : Fin 32) (mode : Fin 32)  -- SSTOP_PAUSE R299
  | sresume (s : Fin 32)  -- SRESUME R300
  | swait (d : Fin 32) (s : Fin 32)  -- SWAIT R301
  | sstat (d : Fin 32) (s : Fin 32)  -- SSTAT R302
  | binitWindow (n : Fin 32) (v : Fin 32)  -- BINIT_WINDOW R281
  | arrive (d : Fin 32) (n : Fin 32) (p : Fin 32)  -- ARRIVE R282
  | arriveR (d : Fin 32) (n : Fin 32) (p : Fin 32)  -- ARRIVE_R R285
  | bwait (d : Fin 32) (n : Fin 32) (p : Fin 32)  -- BWAIT R283
  | rgnalloc (d : Fin 32) (s : Fin 32)  -- RGNALLOC R192
  | rgnfree (h : Fin 32)  -- RGNFREE R193
  | cfgld (h : Fin 32) (s : Fin 32) (a : Fin 16)  -- CFGLD R195
  | cfgswap (h : Fin 32) (s : Fin 32)  -- CFGSWAP R208
  | cfgswapForce (h : Fin 32) (s : Fin 32) (a : Fin 16)  -- CFGSWAP_FORCE R209
  | cfgtrig (h : Fin 32) (s : Fin 32) (c : Fin 32)  -- CFGTRIG R211
  | drainQuiet (d : Fin 32) (h : Fin 32) (o : Fin 32)  -- DRAIN_QUIET R207
  | argw (h : Fin 32) (s : Fin 32) (c : Fin 32)  -- ARGW R212
  | pool (s : Fin 32) (a : Fin 16)  -- POOL R308
  | pwait (d : Fin 32) (s : Fin 32)  -- PWAIT R312
  | copy (s : Fin 32) (a : Fin 16)  -- COPY R314
  | copydl (s : Fin 32) (a : Fin 16) (c : Fin 32)  -- COPYDL R314
  | copycan (s : Fin 32)  -- COPYCAN R316
  | cwait (d : Fin 32) (s : Fin 32)  -- CWAIT R316
  | fence (c : Scope) (q : Bool) (k : FenceKind)  -- FENCE R343
  | rnddom (d : Fin 32) (a : Fin 16)  -- RNDDOM R338
  | rndadv (d : Fin 32) (s : Fin 32)  -- RNDADV R339
  | rndset (s : Fin 32) (v : Fin 32)  -- RNDSET R341
  | rndget (d : Fin 32) (s : Fin 32)  -- RNDGET R342
  | wpull (d : Fin 32) (a : Fin 16) (c : Fin 16)  -- WPULL R359
  | wdone (s : Fin 32) (a : Fin 16) (c : Fin 32)  -- WDONE R360
  | wfail (s : Fin 32) (a : Fin 16) (c : Fin 32)  -- WFAIL R360
  | ctxsaveRegion (d : Fin 32) (s : Fin 32) (a : Fin 16)  -- CTXSAVE_REGION R378
  | ctxrstRegion (d : Fin 32) (s : Fin 32) (a : Fin 16)  -- CTXRST_REGION R378
  | red (s : Fin 32) (a : Fin 16)  -- RED R387
  | lnkstat (d : Fin 32) (s : Fin 32)  -- LNKSTAT R396
  | trap (i : BitVec 11)  -- TRAP R101
  | svc (i : BitVec 11)  -- SVC R101
  | srr (d : Fin 32) (n : SrNum)  -- SRR R103
  | srw (s : Fin 32) (n : SrNum)  -- SRW R103
  | wfe (s : Fin 32)  -- WFE R104
  | tlbinvPg (a : Fin 16) (r : Reach)  -- TLBINV_PG R156
  | tlbinvAll (r : Reach)  -- TLBINV_ALL R156
  | l1dropLine (a : Fin 16)  -- L1DROP_LINE R157
  -- Pelyen-E words
  | iadd (e : EWord)  -- IADD R222
  | isub (e : EWord)  -- ISUB R222
  | iadds (e : EWord)  -- IADDS R222
  | isubs (e : EWord)  -- ISUBS R222
  | imul (e : EWord)  -- IMUL R222
  | imulh (e : EWord)  -- IMULH R222
  | imad (e : EWord)  -- IMAD R222
  | imin (e : EWord)  -- IMIN R222
  | imax (e : EWord)  -- IMAX R222
  | iabs (e : EWord)  -- IABS R222
  | ineg (e : EWord)  -- INEG R222
  | ishl (e : EWord)  -- ISHL R222
  | ishr (e : EWord)  -- ISHR R222
  | isar (e : EWord)  -- ISAR R222
  | iand (e : EWord)  -- IAND R222
  | ior (e : EWord)  -- IOR R222
  | ixor (e : EWord)  -- IXOR R222
  | inot (e : EWord)  -- INOT R222
  | iclz (e : EWord)  -- ICLZ R222
  | ipopc (e : EWord)  -- IPOPC R222
  | iminu (e : EWord)  -- IMINU R222
  | imaxu (e : EWord)  -- IMAXU R222
  | eFadd (e : EWord)  -- E_FADD R223
  | eFsub (e : EWord)  -- E_FSUB R223
  | eFmul (e : EWord)  -- E_FMUL R223
  | eFma (e : EWord)  -- E_FMA R223
  | fms (e : EWord)  -- FMS R223
  | fnma (e : EWord)  -- FNMA R223
  | eFdiv (e : EWord)  -- E_FDIV R223
  | eFsqrt (e : EWord)  -- E_FSQRT R223
  | eFmin (e : EWord)  -- E_FMIN R225
  | eFmax (e : EWord)  -- E_FMAX R225
  | fabs (e : EWord)  -- FABS R225
  | fneg (e : EWord)  -- FNEG R225
  | frnd (e : EWord)  -- FRND R224
  | icmpEq (e : EWord)  -- ICMP_EQ R226
  | icmpNe (e : EWord)  -- ICMP_NE R226
  | icmpLt (e : EWord)  -- ICMP_LT R226
  | icmpLe (e : EWord)  -- ICMP_LE R226
  | icmpLtu (e : EWord)  -- ICMP_LTU R226
  | icmpLeu (e : EWord)  -- ICMP_LEU R226
  | eFcmpEq (e : EWord)  -- E_FCMP_EQ R226
  | eFcmpNe (e : EWord)  -- E_FCMP_NE R226
  | eFcmpLt (e : EWord)  -- E_FCMP_LT R226
  | eFcmpLe (e : EWord)  -- E_FCMP_LE R226
  | eFcmpUn (e : EWord)  -- E_FCMP_UN R226
  | eFcmpOrd (e : EWord)  -- E_FCMP_ORD R226
  | sel (e : EWord)  -- SEL R227
  | pand (e : EWord)  -- PAND R228
  | por (e : EWord)  -- POR R228
  | pnot (e : EWord)  -- PNOT R228
  | exp2 (e : EWord)  -- EXP2 R229
  | log2 (e : EWord)  -- LOG2 R229
  | rcp (e : EWord)  -- RCP R229
  | rsq (e : EWord)  -- RSQ R229
  | tanh (e : EWord)  -- TANH R229
  | sin (e : EWord)  -- SIN R229
  | cos (e : EWord)  -- COS R229
  | mxq (e : EWord)  -- MXQ R231
  | mxdq (e : EWord)  -- MXDQ R232
  | lperm (e : EWord)  -- LPERM R233
  | lshf (e : EWord)  -- LSHF R233
  | lbcast (e : EWord)  -- LBCAST R233
  | lred (e : EWord)  -- LRED R236
  | lscan (e : EWord)  -- LSCAN R236
  | lidx (e : EWord)  -- LIDX R234
  | lcnt (e : EWord)  -- LCNT R234
  | split (e : EWord)  -- SPLIT R237
  | join (e : EWord)  -- JOIN R238
  | cmpct (e : EWord)  -- CMPCT R234
  | stopq (e : EWord)  -- STOPQ R240
  | stopg (e : EWord)  -- STOPG R241
  | mark (e : EWord)  -- MARK R242
  | fan (e : EWord)  -- FAN R239
  | bnet (e : EWord)  -- BNET R243
  | bfx (e : EWord)  -- BFX R245
  | bfi (e : EWord)  -- BFI R245
  | pop (e : EWord)  -- POP R180
  | push (e : EWord)  -- PUSH R181
  | bqw (e : EWord)  -- BQW R182
  | mtgat (e : EWord)  -- MTGAT R267
  | mtsct (e : EWord)  -- MTSCT R267
  | mtsca (e : EWord)  -- MTSCA R267
  | mtamo (e : EWord)  -- MTAMO R267
  | mttas (e : EWord)  -- MTTAS R267
  | mtbin (e : EWord)  -- MTBIN R276
  | mtrule (e : EWord)  -- MTRULE R277
  | mma (e : EWord)  -- MMA R254
  | accz (e : EWord)  -- ACCZ R256
  | accrd (e : EWord)  -- ACCRD R256
  | accwr (e : EWord)  -- ACCWR R256
  | accck (e : EWord)  -- ACCCK R256
  | accrs (e : EWord)  -- ACCRS R256
  | cmpx (e : EWord)  -- CMPX R262
  | sorte (e : EWord)  -- SORTE R263
  | gmax (e : EWord)  -- GMAX R393
  | topk (e : EWord)  -- TOPK R394
  | renorm (e : EWord)  -- RENORM R395
  | cvt (dest : EType) (e : EWord)  -- CVT R230
  | cvtSat (dest : EType) (e : EWord)  -- CVT_SAT R230
  -- Pelyen-A words without fields
  | eret  -- ERET R102
  | yield  -- YIELD R105
  | halt  -- HALT R106
  | l1drop  -- L1DROP R157
  -- rows that share a word with a row above and are told apart by an operand
  | sstopAbort (s : Fin 32) (mode : Fin 32)  -- SSTOP_ABORT R299
  | binitBarrier (n : Fin 32) (v : Fin 32)  -- BINIT_BARRIER R281
  | cfgtrigDisarm (h : Fin 32) (s : Fin 32) (c : Fin 32)  -- CFGTRIG_DISARM R211
  | drainWait (d : Fin 32) (h : Fin 32) (o : Fin 32)  -- DRAIN_WAIT R207
  | drainDiscard (d : Fin 32) (h : Fin 32) (o : Fin 32)  -- DRAIN_DISCARD R207
  | drainStat (d : Fin 32) (h : Fin 32) (o : Fin 32)  -- DRAIN_STAT R207
  | poolResume (s : Fin 32) (a : Fin 16)  -- POOL_RESUME R311
  | poolAbandon (s : Fin 32) (a : Fin 16)  -- POOL_ABANDON R311
  | copyResume (s : Fin 32) (a : Fin 16)  -- COPY_RESUME R314
  | copyAbandon (s : Fin 32) (a : Fin 16)  -- COPY_ABANDON R314
  | rndsetClr (s : Fin 32) (v : Fin 32)  -- RNDSET_CLR R341
  | ctxsaveThread (d : Fin 32) (s : Fin 32) (a : Fin 16)  -- CTXSAVE_THREAD R379
  | ctxrstThread (d : Fin 32) (s : Fin 32) (a : Fin 16)  -- CTXRST_THREAD R379
  | bnetLoad (e : EWord)  -- BNET_LOAD R244
  -- events (rows without an encoding)
  | moduleStart (o : BootOutcome)  -- MODULE_START R422
  | bootClr (step unit : Nat)  -- BOOT_CLR R423
  | attestationRequest (nonce : BitVec 256)  -- ATTESTATION_REQUEST R426
  | managementPortAccess (a : MgmtAccess)  -- MANAGEMENT_PORT_ACCESS R432
  | heartbeatMiss (die : Fin 4)  -- HEARTBEAT_MISS R424
  | homeLossBroadcast (die : Fin 4)  -- HOME_LOSS_BROADCAST R381
  | retrain (port : Fin 16)  -- RETRAIN R428
  | retrainComplete (port : Fin 16) (passed : Bool) (peer : BitVec 16)  -- RETRAIN_COMPLETE R428
  | powerMeasurement (watts temp : Nat) (clamps : Vector Nat 4)  -- POWER_MEASUREMENT R430
  | thermalClamp  -- THERMAL_CLAMP R431
  | thermalPowerOff (die : Fin 4)  -- THERMAL_POWER_OFF R431
  | bucketSettingWrite (die : Fin 4) (bogie : Fin 144) (v : BitVec 64)  -- BUCKET_SETTING_WRITE R430
  | bucketCredit (die : Fin 4)  -- BUCKET_CREDIT R213
  | registerWrite (pa : Nat) (size : Nat) (v : Nat) (mode : Mode)  -- REGISTER_WRITE R80
  | partitionStart (p : Fin 8)  -- PARTITION_START R352
  | partitionStop (p : Fin 8)  -- PARTITION_STOP R353
  | sliceArm (p : Fin 8)  -- SLICE_ARM R363
  | sliceJoin (p : Fin 8)  -- SLICE_JOIN R363
  | sliceBegin (p : Fin 8)  -- SLICE_BEGIN R363
  | joinReceived (p : Fin 8) (gang seq peer : BitVec 16)  -- JOIN_RECEIVED R363
  | graceExpiry (p : Fin 8)  -- GRACE_EXPIRY R363
  | cancelReceived (p : Fin 8) (gang seq : BitVec 16)  -- CANCEL_RECEIVED R363
  | timeDiscipline (die : Fin 4) (drift : Int) (sync : Bool)  -- TIME_DISCIPLINE R361
  | driftBeyondGuard (die : Fin 4) (drift : Nat)  -- DRIFT_BEYOND_GUARD R327
  | ltTick (core : Nat)  -- LT_TICK R321
  | selectThread (core : Nat)  -- SELECT_THREAD R89
  | takeTrap (t : Nat)  -- TAKE_TRAP R85
  | likelyPathResolution (t : Nat)  -- LIKELY_PATH_RESOLUTION R98
  | wfeLimit (t : Nat)  -- WFE_LIMIT R104
  | queueStall (t : Nat)  -- QUEUE_STALL R177
  | lossOfDecoupling (t : Nat)  -- LOSS_OF_DECOUPLING R175
  | queuePortDelivery (t q : Nat)  -- QUEUE_PORT_DELIVERY R161
  | queueAccept (t q : Nat)  -- QUEUE_ACCEPT R161
  | remoteTokenArrival (t q : Nat) (tok : Token)  -- REMOTE_TOKEN_ARRIVAL R185
  | ringReentry (t q : Nat)  -- RING_REENTRY R185
  | stopGo (t q : Nat)  -- STOP_GO R185
  | remoteAck (t q n : Nat)  -- REMOTE_ACK R186
  | remotePairing (t q : Nat)  -- REMOTE_PAIRING R184
  | flitReceived (port : Fin 16) (f : Flit) (intact : Bool)  -- FLIT_RECEIVED R384
  | flitResend (port : Fin 16)  -- FLIT_RESEND R384
  | portDown (port : Fin 16)  -- PORT_DOWN R384
  | loadAtHome (id : Nat)  -- LOAD_AT_HOME R320
  | loadReply (id : Nat)  -- LOAD_REPLY R320
  | storeAtHome (id : Nat)  -- STORE_AT_HOME R320
  | atomicAtHome (id : Nat)  -- ATOMIC_AT_HOME R154
  | invalidationAck (id : Nat) (die : Fin 4)  -- INVALIDATION_ACK R325
  | hostRead (pa size : Nat) (cache : Bool)  -- HOST_READ R326
  | hostWrite (pa size v : Nat)  -- HOST_WRITE R326
  | hostSnoop (line : Nat)  -- HOST_SNOOP R326
  | backInvalidateResponse (id : Nat)  -- BACK_INVALIDATE_RESPONSE R326
  | cxlLeaseWaitEnd (id : Nat)  -- CXL_LEASE_WAIT_END R327
  | pageWalk (die : Fin 4)  -- PAGE_WALK R141
  | domainReadAtHome (id : Nat)  -- DOMAIN_READ_AT_HOME R333
  | staleWait (id : Nat)  -- STALE_WAIT R334
  | roundControllerIncrement (t : Nat)  -- ROUND_CONTROLLER_INCREMENT R339
  | viewUpdate (p : Fin 8) (dom : Nat) (die : Fin 4) (n : Nat)  -- VIEW_UPDATE R339
  | contextCounter (rgn : Nat)  -- CONTEXT_COUNTER R205
  | roundStart (rgn ce : Nat)  -- ROUND_START R200
  | vectorUnitStart (rgn ce : Nat)  -- VECTOR_UNIT_START R221
  | roundCommit (rgn ce : Nat)  -- ROUND_COMMIT R201
  | channelHeadArrival (rgn chan : Nat)  -- CHANNEL_HEAD_ARRIVAL R403
  | kStepRound (rgn ce : Nat)  -- K_STEP_ROUND R249
  | brakeEngage (rgn : Nat) (freeze : Bool)  -- BRAKE_ENGAGE R258
  | brakeRelease (rgn : Nat)  -- BRAKE_RELEASE R258
  | sequencerTimeout (rgn : Nat) (mt : Bool) (unit : Nat)  -- SEQUENCER_TIMEOUT R367
  | faultRecordLeave (rgn : Nat)  -- FAULT_RECORD_LEAVE R370
  | autoDiscard (rgn : Nat)  -- AUTO_DISCARD R371
  | faultRecordWrite (p : Fin 8)  -- FAULT_RECORD_WRITE R372
  | triggerFire (rgn : Nat)  -- TRIGGER_FIRE R211
  | quietReport (rgn : Nat)  -- QUIET_REPORT R206
  | swapActivate (rgn : Nat)  -- SWAP_ACTIVATE R208
  | mtRequestArrival (rgn mt : Nat)  -- MT_REQUEST_ARRIVAL R272
  | mtBankAccess (rgn mt : Nat)  -- MT_BANK_ACCESS R272
  | mtResponse (rgn mt : Nat)  -- MT_RESPONSE R271
  | streamLineRequest (t slot : Nat)  -- STREAM_LINE_REQUEST R287
  | streamTokenDelivery (t slot : Nat)  -- STREAM_TOKEN_DELIVERY R291
  | storeStreamTake (t slot : Nat)  -- STORE_STREAM_TAKE R293
  | poolBag (t slot : Nat)  -- POOL_BAG R308
  | completionToken (t slot : Nat) (copyEngine : Bool)  -- COMPLETION_TOKEN R317
  | copyLine (die : Fin 4)  -- COPY_LINE R315
  | deadlineTest (die : Fin 4) (p : Fin 8)  -- DEADLINE_TEST R315
  | chainHop (t slot : Nat)  -- CHAIN_HOP R389
  | ingressSelector (t slot : Nat)  -- INGRESS_SELECTOR R391
  | storeAcknowledgement (id : Nat)  -- STORE_ACKNOWLEDGEMENT R320
  | l1Invalidation (die : Fin 4) (line : Nat)  -- L1_INVALIDATION R325
  | flitSend (port : Fin 16)  -- FLIT_SEND R383
  | thermalClampRelease  -- THERMAL_CLAMP_RELEASE R431
  deriving DecidableEq, Repr

end Sys2Proof
end

