-- ==== Sys2Proof/WellFormed.lean ====
section
/-!
DEFINITION. Which instructions are well formed as words: the checks of R51 and R53 across fields (Pelyen-A) and those of R60
to R64 that one word shows (Pelyen-E). What a block or an image must satisfy as a whole is checked where CFGLD loads it.
-/
namespace Sys2Proof

/-- A pointer form (sz 111) names an a register in the rd or rs field, so its top bit is zero (R51). -/
def regOk (d : Fin 32) : Sz → Bool
  | .a => decide (d.val < 16)
  | _ => true

/-- Size codes accepted by ST and STREL (R53). -/
def Sz.storeOk : Sz → Bool
  | .b | .h | .w | .d | .a => true
  | _ => false

/-- Size codes accepted by AMO and CAS (R53). -/
def Sz.atomicOk : Sz → Bool
  | .w | .d | .wu => true
  | _ => false

/-- afn 9 (FADD) takes sz 010 and 011 only (R53). -/
def Afn.szOk : Afn → Sz → Bool
  | .fadd, .wu => false
  | _, z => z.atomicOk

/-- Types FCVT accepts in rs2; direction 1 takes an integer type only (R56). -/
def fcvtOk (e : EType) (toFmt : Bool) : Bool :=
  match e with
  | .i32 | .u32 | .i64 => true
  | .fp64 | .fp32 | .fp16 | .bf16 => !toFmt
  | _ => false

/-- With B = 1 the q field is zero (R162). -/
def bqOk (q : Fin 32) (b : Bool) : Bool := !b || decide (q.val = 0)

/-- The slots an element instruction uses, whether K is required, the W codes it accepts, whether it may be predicated and
whether it may have targets (R61, R63, R221 and each entry). -/
structure ESpec where
  l : Bool
  r : Bool
  t : Bool
  kReq : Bool
  ws : List Nat
  pOk : Bool
  tgtOk : Bool
  deriving DecidableEq, Repr

/-- W codes of the integer types, of the four vector float types, of all eight (R23). -/
def wInts : List Nat := [0, 1, 4, 7]
def wFloats : List Nat := [2, 3, 5, 6]
def wAll : List Nat := [0, 1, 2, 3, 4, 5, 6, 7]

/-- Shorthands for the rows of the tables of R221, R255, R262, R267 and R392. -/
def ESpec.lr (ws : List Nat) : ESpec := ⟨true, true, false, false, ws, true, true⟩
def ESpec.one (ws : List Nat) : ESpec := ⟨true, false, false, false, ws, true, true⟩
def ESpec.lrt (ws : List Nat) : ESpec := ⟨true, true, true, false, ws, true, true⟩
def ESpec.lk (ws : List Nat) : ESpec := ⟨true, true, false, true, ws, true, true⟩
def ESpec.acc : ESpec := ⟨true, true, false, true, [0], false, true⟩
def ESpec.push (ws : List Nat) : ESpec := ⟨true, true, false, true, ws, true, false⟩
def ESpec.mt3 : ESpec := ⟨true, true, true, true, wInts, true, false⟩

/-- The word-level rules of an element instruction, with its fields; none for events and Pelyen-A words. -/
def Instr.eSpec : Instr → Option (ESpec × EWord)
  | .iadd e | .isub e | .iadds e | .isubs e | .imul e | .imulh e | .imin e | .imax e | .ishl e | .ishr e | .isar e
  | .iand e | .ior e | .ixor e | .iminu e | .imaxu e => some (.lr wInts, e)
  | .imad e => some (.lrt wInts, e)
  | .iabs e | .ineg e | .inot e | .iclz e | .ipopc e => some (.one wInts, e)
  | .eFadd e | .eFsub e | .eFmul e | .eFmin e | .eFmax e | .eFdiv e => some (.lr wFloats, e)
  | .eFma e | .fms e | .fnma e => some (.lrt wFloats, e)
  | .frnd e | .eFsqrt e | .fabs e | .fneg e => some (.one wFloats, e)
  | .icmpEq e | .icmpNe e | .icmpLt e | .icmpLe e | .icmpLtu e | .icmpLeu e => some (.lr wInts, e)
  | .eFcmpEq e | .eFcmpNe e | .eFcmpLt e | .eFcmpLe e | .eFcmpUn e | .eFcmpOrd e => some (.lr wFloats, e)
  | .sel e => some (.lrt [0], e)
  | .pand e | .por e => some (.lr [0], e)
  | .pnot e => some (.one [0], e)
  | .exp2 e | .log2 e | .tanh e | .sin e | .cos e => some (.one [2, 5, 6], e)
  | .rcp e | .rsq e => some (.one wFloats, e)
  | .mxq e | .mxdq e => some (.lr wFloats, e)
  | .lperm e | .lshf e | .lbcast e => some (.lr [0], e)
  | .lred e | .lscan e => some (.lk wAll, e)
  | .lidx e | .lcnt e => some (.one wInts, e)
  | .split e | .join e => some (.lr [0], e)
  | .cmpct e | .fan e => some (.one [0], e)
  | .stopq e | .stopg e | .mark e => some (.lr [0], e)
  | .bnet e => some (.lk wInts, e)
  | .bnetLoad e => some (.lk [0], e)
  | .bfx e => some (.lr wInts, e)
  | .bfi e => some (.lrt wInts, e)
  | .pop e => some (⟨false, true, false, true, wAll, true, true⟩, e)
  | .push e => some (.push wAll, e)
  | .bqw e => some (.push wInts, e)
  | .mtgat e | .mttas e => some (.push wInts, e)
  | .mtsct e | .mtsca e | .mtamo e | .mtbin e | .mtrule e => some (.mt3, e)
  | .mma e => some (⟨false, true, false, true, [0], false, true⟩, e)
  | .accz e | .accrd e | .accwr e | .accck e | .accrs e => some (.acc, e)
  | .cmpx e => some (.lr wAll, e)
  | .sorte e => some (.one wAll, e)
  | .gmax e | .topk e => some (.lr wAll, e)
  | .renorm e => some (.one wFloats, e)
  | .cvt _ e | .cvtSat _ e => some (.one [0, 1, 2, 3, 4, 5, 6], e)
  | _ => none

/-- The block kinds that accept an opcode: 0 vector, 1 matrix, 2 sort (R63). -/
def Instr.kinds : Instr → List Nat
  | .mma _ | .accz _ | .accrd _ | .accwr _ | .accck _ | .accrs _ => [1]
  | .cmpx _ | .sorte _ => [2]
  | _ => [0, 1, 2]

/-- Two targets of one instruction name different slots of different or the same instruction, or are absent (R60). -/
def targetsOk : Target → Target → Bool
  | .to i a, .to j b => !(decide (i = j) && decide (a = b))
  | _, _ => true

/-- 0x1FF means no target, so slot T of instruction 127 cannot be named (R60). -/
def Target.ok : Target → Bool
  | .none => true
  | .to i s => !(decide (i.val = 127) && decide (s = .t))

/-- One Pelyen-E word obeys R60 to R64 as far as one word shows. -/
def EWord.ok (sp : ESpec) (e : EWord) : Bool :=
  sp.ws.contains e.w.val && (sp.r || !e.k) && (!sp.kReq || e.k) && (sp.pOk || decide (e.p = .none)) &&
  (sp.tgtOk || (decide (e.t1 = .none) && decide (e.t2 = .none))) && targetsOk e.t1 e.t2 && e.t1.ok && e.t2.ok

/-- Well-formedness of an instruction as a word. Events have no word and are well formed. -/
def Instr.wellFormed : Instr → Bool
  | .ld d _ z _ _ | .ldacq d _ z _ _ | .ldb d _ z _ _ => regOk d z
  | .st d _ z _ _ | .strel d _ z _ _ => z.storeOk && regOk d z
  | .amo _ _ _ f _ _ z => f.szOk z
  | .cas _ _ _ _ _ z => z.atomicOk
  | .fcvt _ _ e v _ _ => fcvtOk e v
  | .qstat _ q c b k => bqOk q b && !(decide (k.val = 0) && c)
  | .qbind _ q _ b p => bqOk q b && (!b || decide (p.val = 0))
  | .qunbind q b | .qdisc _ q b => bqOk q b
  | i => match i.eSpec with
    | some (sp, e) => e.ok sp
    | none => true

end Sys2Proof
end

