-- ==== Sys2Proof/Decode.lean ====
section
/-!
DEFINITION. The decoder of the two instruction sets, total on any word and rejecting by a named reason, and after it the encoder,
both written from the encoding tables (R50 to R62).
-/
namespace Sys2Proof

/-- Why a word is no instruction. -/
inductive DecodeReason where
  /-- A reserved major opcode, selector or Pelyen-E opcode (R54, R55, R62). -/
  | reservedOpcode
  /-- A field that must be zero is not, a register field is out of range, or a code is reserved (R58). -/
  | reservedField
  /-- Fields that are each accepted but not together (R53, R56, R162, R64). -/
  | reservedCombination
  deriving DecidableEq, Repr

/-- Field of len bits at bit lo of w. -/
def fld (w lo len : Nat) : Nat := w / 2 ^ lo % 2 ^ len

/-- Register fields and immediates, cut from a word. -/
def fin32 (w lo : Nat) : Fin 32 := ⟨w / 2 ^ lo % 32, Nat.mod_lt _ (by decide)⟩
def fin16 (w lo : Nat) : Fin 16 := ⟨w / 2 ^ lo % 16, Nat.mod_lt _ (by decide)⟩
def fin8 (w lo : Nat) : Fin 8 := ⟨w / 2 ^ lo % 8, Nat.mod_lt _ (by decide)⟩
def fin4 (w lo : Nat) : Fin 4 := ⟨w / 2 ^ lo % 4, Nat.mod_lt _ (by decide)⟩
def bits (w lo len : Nat) : BitVec len := BitVec.ofNat len (w / 2 ^ lo)
def flag (w lo : Nat) : Bool := w / 2 ^ lo % 2 == 1

/-- ETYPE codes (R23). -/
def EType.code : EType → Nat
  | .i8 => 0
  | .u8 => 1
  | .i16 => 2
  | .u16 => 3
  | .i32 => 4
  | .u32 => 5
  | .i64 => 6
  | .i4 => 7
  | .fp64 => 8
  | .fp32 => 9
  | .fp16 => 10
  | .bf16 => 11
  | .e4m3 => 12
  | .e5m2 => 13
  | .e2m1 => 14
  | .e3m2 => 15

/-- The EType of a code; a reserved code gives a value whose own code differs, so that decoding refuses it. -/
def EType.ofCode : Nat → EType
  | 0 => .i8
  | 1 => .u8
  | 2 => .i16
  | 3 => .u16
  | 4 => .i32
  | 5 => .u32
  | 6 => .i64
  | 7 => .i4
  | 8 => .fp64
  | 9 => .fp32
  | 10 => .fp16
  | 11 => .bf16
  | 12 => .e4m3
  | 13 => .e5m2
  | 14 => .e2m1
  | 15 => .e3m2
  | _ => .i8

/-- Rounding-mode codes (R32). -/
def Rm.code : Rm → Nat
  | .rne => 0
  | .rtz => 1
  | .rup => 2
  | .rdn => 3
  | .rna => 4
  | .rsh => 5

/-- The Rm of a code; a reserved code gives a value whose own code differs, so that decoding refuses it. -/
def Rm.ofCode : Nat → Rm
  | 0 => .rne
  | 1 => .rtz
  | 2 => .rup
  | 3 => .rdn
  | 4 => .rna
  | 5 => .rsh
  | _ => .rne

/-- Codes of the access-side rounding field (R32). -/
def FpRm.code : FpRm → Nat
  | .rne => 0
  | .rtz => 1
  | .rup => 2
  | .rdn => 3
  | .rna => 4
  | .dyn => 7

/-- The FpRm of a code; a reserved code gives a value whose own code differs, so that decoding refuses it. -/
def FpRm.ofCode : Nat → FpRm
  | 0 => .rne
  | 1 => .rtz
  | 2 => .rup
  | 3 => .rdn
  | 4 => .rna
  | 7 => .dyn
  | _ => .rne

/-- FMT codes (R56). -/
def FpFmt.code : FpFmt → Nat
  | .f32 => 0
  | .f64 => 1

/-- The FpFmt of a code; a reserved code gives a value whose own code differs, so that decoding refuses it. -/
def FpFmt.ofCode : Nat → FpFmt
  | 0 => .f32
  | 1 => .f64
  | _ => .f32

/-- SUB codes of FCMP (R56). -/
def FpCond.code : FpCond → Nat
  | .eq => 0
  | .lt => 1
  | .le => 2
  | .un => 3

/-- The FpCond of a code; a reserved code gives a value whose own code differs, so that decoding refuses it. -/
def FpCond.ofCode : Nat → FpCond
  | 0 => .eq
  | 1 => .lt
  | 2 => .le
  | 3 => .un
  | _ => .eq

/-- Size codes (R52). -/
def Sz.code : Sz → Nat
  | .b => 0
  | .h => 1
  | .w => 2
  | .d => 3
  | .bu => 4
  | .hu => 5
  | .wu => 6
  | .a => 7

/-- The Sz of a code; a reserved code gives a value whose own code differs, so that decoding refuses it. -/
def Sz.ofCode : Nat → Sz
  | 0 => .b
  | 1 => .h
  | 2 => .w
  | 3 => .d
  | 4 => .bu
  | 5 => .hu
  | 6 => .wu
  | 7 => .a
  | _ => .b

/-- mo codes of format M (R53). -/
def Mo.code : Mo → Nat
  | .normal => 0
  | .na => 1
  | .ef => 2

/-- The Mo of a code; a reserved code gives a value whose own code differs, so that decoding refuses it. -/
def Mo.ofCode : Nat → Mo
  | 0 => .normal
  | 1 => .na
  | 2 => .ef
  | _ => .normal

/-- afn codes (R53). -/
def Afn.code : Afn → Nat
  | .add => 0
  | .and => 1
  | .or => 2
  | .xor => 3
  | .min => 4
  | .max => 5
  | .minu => 6
  | .maxu => 7
  | .swap => 8
  | .fadd => 9

/-- The Afn of a code; a reserved code gives a value whose own code differs, so that decoding refuses it. -/
def Afn.ofCode : Nat → Afn
  | 0 => .add
  | 1 => .and
  | 2 => .or
  | 3 => .xor
  | 4 => .min
  | 5 => .max
  | 6 => .minu
  | 7 => .maxu
  | 8 => .swap
  | 9 => .fadd
  | _ => .add

/-- Scope codes (R53). -/
def Scope.code : Scope → Nat
  | .thr => 0
  | .rgn => 1
  | .die => 2
  | .mod => 3
  | .sys => 4

/-- The Scope of a code; a reserved code gives a value whose own code differs, so that decoding refuses it. -/
def Scope.ofCode : Nat → Scope
  | 0 => .thr
  | 1 => .rgn
  | 2 => .die
  | 3 => .mod
  | 4 => .sys
  | _ => .thr

/-- mo codes of format A (R53). -/
def AMo.code : AMo → Nat
  | .relaxed => 0
  | .acq => 1
  | .rel => 2
  | .ar => 3

/-- The AMo of a code; a reserved code gives a value whose own code differs, so that decoding refuses it. -/
def AMo.ofCode : Nat → AMo
  | 0 => .relaxed
  | 1 => .acq
  | 2 => .rel
  | 3 => .ar
  | _ => .relaxed

/-- PREF hints (R53). -/
def Hint.code : Hint → Nat
  | .fillL1 => 0
  | .fillTile => 1

/-- The Hint of a code; a reserved code gives a value whose own code differs, so that decoding refuses it. -/
def Hint.ofCode : Nat → Hint
  | 0 => .fillL1
  | 1 => .fillTile
  | _ => .fillL1

/-- QPUSHS levels (R169). -/
def Level.code : Level → Nat
  | .s1 => 1
  | .s2 => 2
  | .s3 => 3
  | .s4 => 4
  | .s5 => 5
  | .s6 => 6
  | .marker => 7

/-- The Level of a code; a reserved code gives a value whose own code differs, so that decoding refuses it. -/
def Level.ofCode : Nat → Level
  | 1 => .s1
  | 2 => .s2
  | 3 => .s3
  | 4 => .s4
  | 5 => .s5
  | 6 => .s6
  | 7 => .marker
  | _ => .s1

/-- END of RQBIND (R162). -/
def RqEnd.code : RqEnd → Nat
  | .send => 0
  | .recv => 1

/-- The RqEnd of a code; a reserved code gives a value whose own code differs, so that decoding refuses it. -/
def RqEnd.ofCode : Nat → RqEnd
  | 0 => .send
  | 1 => .recv
  | _ => .send

/-- FENCE kinds (R343). -/
def FenceKind.code : FenceKind → Nat
  | .full => 0
  | .rel => 1
  | .acq => 2

/-- The FenceKind of a code; a reserved code gives a value whose own code differs, so that decoding refuses it. -/
def FenceKind.ofCode : Nat → FenceKind
  | 0 => .full
  | 1 => .rel
  | 2 => .acq
  | _ => .full

/-- Status-register numbers (R57). -/
def SrNum.code : SrNum → Nat
  | .mode => 0
  | .epc => 1
  | .cause => 2
  | .tval => 3
  | .fflags => 4
  | .frm => 5
  | .gen => 6
  | .lt => 7
  | .gtime => 8
  | .rwait => 9
  | .qwatch => 10
  | .prio => 11

/-- The SrNum of a code; a reserved code gives a value whose own code differs, so that decoding refuses it. -/
def SrNum.ofCode : Nat → SrNum
  | 0 => .mode
  | 1 => .epc
  | 2 => .cause
  | 3 => .tval
  | 4 => .fflags
  | 5 => .frm
  | 6 => .gen
  | 7 => .lt
  | 8 => .gtime
  | 9 => .rwait
  | 10 => .qwatch
  | 11 => .prio
  | _ => .mode

/-- REACH codes (R156). -/
def Reach.code : Reach → Nat
  | .die => 0
  | .module => 1

/-- The Reach of a code; a reserved code gives a value whose own code differs, so that decoding refuses it. -/
def Reach.ofCode : Nat → Reach
  | 0 => .die
  | 1 => .module
  | _ => .die

/-- P codes (R59). -/
def EPred.code : EPred → Nat
  | .none => 0
  | .pos => 1
  | .neg => 2

/-- The EPred of a code; a reserved code gives a value whose own code differs, so that decoding refuses it. -/
def EPred.ofCode : Nat → EPred
  | 0 => .none
  | 1 => .pos
  | 2 => .neg
  | _ => .none

/-- Slot codes (R60). -/
def Slot.code : Slot → Nat
  | .l => 0
  | .r => 1
  | .p => 2
  | .t => 3

/-- The Slot of a code; a reserved code gives a value whose own code differs, so that decoding refuses it. -/
def Slot.ofCode : Nat → Slot
  | 0 => .l
  | 1 => .r
  | 2 => .p
  | 3 => .t
  | _ => .l

/-- A target as nine bits: index[8:2], slot[1:0]; 0x1FF is no target (R60). -/
def Target.code : Target → Nat
  | .none => 511
  | .to i s => i.val * 4 + s.code

/-- The target of nine bits. -/
def Target.ofCode (n : Nat) : Target :=
  if n % 512 = 511 then .none else .to ⟨n / 4 % 128, Nat.mod_lt _ (by decide)⟩ (Slot.ofCode (n % 4))

/-- Bits [23:0] of a Pelyen-E word (R59). -/
def EWord.encode (e : EWord) : Nat :=
  e.k.toNat * 8388608 + e.p.code * 2097152 + e.w.val * 262144 + e.t1.code * 512 + e.t2.code

/-- The fields in bits [23:0] of a Pelyen-E word. -/
def EWord.ofCode (w : Nat) : EWord :=
  ⟨flag w 23, EPred.ofCode (fld w 21 2), fin8 w 18, Target.ofCode (fld w 9 9), Target.ofCode (fld w 0 9)⟩

/-- The Alu group, major 0x1 (R55). -/
def pickAlu (w : Nat) : Option Instr :=
  match fld w 0 11 with
  | 0 => some (.add (fin32 w 21) (fin32 w 16) (fin32 w 11))
  | 1 => some (.sub (fin32 w 21) (fin32 w 16) (fin32 w 11))
  | 2 => some (.and (fin32 w 21) (fin32 w 16) (fin32 w 11))
  | 3 => some (.or (fin32 w 21) (fin32 w 16) (fin32 w 11))
  | 4 => some (.xor (fin32 w 21) (fin32 w 16) (fin32 w 11))
  | 5 => some (.sll (fin32 w 21) (fin32 w 16) (fin32 w 11))
  | 6 => some (.srl (fin32 w 21) (fin32 w 16) (fin32 w 11))
  | 7 => some (.sra (fin32 w 21) (fin32 w 16) (fin32 w 11))
  | 8 => some (.slt (fin32 w 21) (fin32 w 16) (fin32 w 11))
  | 9 => some (.sltu (fin32 w 21) (fin32 w 16) (fin32 w 11))
  | 10 => some (.min (fin32 w 21) (fin32 w 16) (fin32 w 11))
  | 11 => some (.max (fin32 w 21) (fin32 w 16) (fin32 w 11))
  | 12 => some (.minu (fin32 w 21) (fin32 w 16) (fin32 w 11))
  | 13 => some (.maxu (fin32 w 21) (fin32 w 16) (fin32 w 11))
  | _ => none

/-- The MulDiv group, major 0x2 (R55). -/
def pickMulDiv (w : Nat) : Option Instr :=
  match fld w 0 11 with
  | 0 => some (.mul (fin32 w 21) (fin32 w 16) (fin32 w 11))
  | 1 => some (.mulh (fin32 w 21) (fin32 w 16) (fin32 w 11))
  | 2 => some (.mulhu (fin32 w 21) (fin32 w 16) (fin32 w 11))
  | 3 => some (.div (fin32 w 21) (fin32 w 16) (fin32 w 11))
  | 4 => some (.divu (fin32 w 21) (fin32 w 16) (fin32 w 11))
  | 5 => some (.rem (fin32 w 21) (fin32 w 16) (fin32 w 11))
  | 6 => some (.remu (fin32 w 21) (fin32 w 16) (fin32 w 11))
  | _ => none

/-- The Bits group, major 0x3 (R55). -/
def pickBits (w : Nat) : Option Instr :=
  match fld w 0 11 with
  | 0 => some (.clz (fin32 w 21) (fin32 w 16))
  | 1 => some (.ctz (fin32 w 21) (fin32 w 16))
  | 2 => some (.popc (fin32 w 21) (fin32 w 16))
  | 3 => some (.bswap (fin32 w 21) (fin32 w 16))
  | _ => none

/-- The Shi group, major 0xa (R55). -/
def pickShi (w : Nat) : Option Instr :=
  match fld w 14 2 with
  | 0 => some (.slli (fin32 w 21) (fin32 w 16) (bits w 0 6))
  | 1 => some (.srli (fin32 w 21) (fin32 w 16) (bits w 0 6))
  | 2 => some (.srai (fin32 w 21) (fin32 w 16) (bits w 0 6))
  | _ => none

/-- The Addr group, major 0xc (R55). -/
def pickAddr (w : Nat) : Option Instr :=
  match fld w 0 11 with
  | 0 => some (.aadd (fin16 w 21) (fin16 w 16) (fin32 w 11))
  | 1 => some (.asub (fin32 w 21) (fin16 w 16) (fin16 w 11))
  | 2 => some (.afromx (fin16 w 21) (fin32 w 16))
  | 3 => some (.atox (fin32 w 21) (fin16 w 16))
  | 4 => some (.ahi (fin32 w 21) (fin16 w 16))
  | 5 => some (.asethi (fin16 w 21) (fin16 w 16) (fin32 w 11))
  | _ => none

/-- The Fp group, major 0xf (R55). -/
def pickFp (w : Nat) : Option Instr :=
  match fld w 0 4 with
  | 0 => some (.fadd (fin32 w 21) (fin32 w 16) (fin32 w 11) (FpRm.ofCode (fld w 6 3)) (FpFmt.ofCode (fld w 4 2)))
  | 1 => some (.fsub (fin32 w 21) (fin32 w 16) (fin32 w 11) (FpRm.ofCode (fld w 6 3)) (FpFmt.ofCode (fld w 4 2)))
  | 2 => some (.fmul (fin32 w 21) (fin32 w 16) (fin32 w 11) (FpRm.ofCode (fld w 6 3)) (FpFmt.ofCode (fld w 4 2)))
  | 3 => some (.fdiv (fin32 w 21) (fin32 w 16) (fin32 w 11) (FpRm.ofCode (fld w 6 3)) (FpFmt.ofCode (fld w 4 2)))
  | 4 => some (.fsqrt (fin32 w 21) (fin32 w 16) (FpRm.ofCode (fld w 6 3)) (FpFmt.ofCode (fld w 4 2)))
  | 5 => some (.fma (fin32 w 21) (fin32 w 16) (fin32 w 11) (FpRm.ofCode (fld w 6 3)) (FpFmt.ofCode (fld w 4 2)))
  | 6 => some (.fmin (fin32 w 21) (fin32 w 16) (fin32 w 11) (FpFmt.ofCode (fld w 4 2)))
  | 7 => some (.fmax (fin32 w 21) (fin32 w 16) (fin32 w 11) (FpFmt.ofCode (fld w 4 2)))
  | 8 => some (.fcmp (fin32 w 21) (fin32 w 16) (fin32 w 11) (FpCond.ofCode (fld w 9 2)) (FpFmt.ofCode (fld w 4 2)))
  | 9 => some (.fcvt (fin32 w 21) (fin32 w 16) (EType.ofCode (fld w 11 5)) (flag w 10) (FpRm.ofCode (fld w 6 3)) (FpFmt.ofCode (fld w 4 2)))
  | 10 => some (.fclass (fin32 w 21) (fin32 w 16) (FpFmt.ofCode (fld w 4 2)))
  | _ => none

/-- The Bq group, major 0x21 (R55). -/
def pickBq (w : Nat) : Option Instr :=
  match fld w 16 1 with
  | 0 => some (.bqb (fin32 w 21) (bits w 0 16))
  | 1 => some (.bqbLk (fin32 w 21) (bits w 0 16))
  | _ => none

/-- The Vec group, major 0x22 (R55). -/
def pickVec (w : Nat) : Option Instr :=
  match fld w 0 11 with
  | 0 => some (.vidx (fin16 w 21) (fin32 w 16) (fin32 w 11))
  | 1 => some (.vld (fin16 w 21) (fin16 w 16) (fin16 w 11))
  | 2 => some (.vadd (fin16 w 21) (fin16 w 16) (fin16 w 11))
  | 3 => some (.vbcast (fin16 w 21) (fin32 w 16))
  | 4 => some (.vcmp (fin8 w 21) (fin16 w 16) (fin16 w 11))
  | 5 => some (.vext (fin32 w 21) (fin16 w 16) (fin32 w 11))
  | _ => none

/-- The Queue group, major 0x24 (R55). -/
def pickQueue (w : Nat) : Option Instr :=
  match fld w 8 8 with
  | 0 => some (.qpush (fin32 w 21) (fin32 w 16) (flag w 0))
  | 1 => some (.qpushv (fin16 w 21) (fin32 w 16) (flag w 3) (fin8 w 0))
  | 2 => some (.qpushs (fin32 w 16) (Level.ofCode (fld w 0 3)))
  | 3 => if fld w 6 1 = 0 then some (.qpop (fin32 w 21) (fin32 w 16) (flag w 4) (fin16 w 0))
         else some (.qpopSb (fin32 w 21) (fin32 w 16) (flag w 4))
  | 4 => some (.qstat (fin32 w 21) (fin32 w 16) (flag w 7) (flag w 6) (fin4 w 0))
  | 5 => some (.qbind (fin32 w 21) (fin32 w 16) (flag w 7) (flag w 6) (fin4 w 0))
  | 6 => some (.qunbind (fin32 w 16) (flag w 6))
  | 7 => some (.qdisc (fin32 w 21) (fin32 w 16) (flag w 6))
  | 8 => some (.bqpop (fin32 w 21))
  | 9 => some (.rqbind (fin16 w 21) (fin32 w 16) (RqEnd.ofCode (fld w 0 1)))
  | _ => none

/-- The Stream group, major 0x26 (R55). -/
def pickStream (w : Nat) : Option Instr :=
  match fld w 0 11 with
  | 0 => some (.sspec (fin32 w 21) (fin16 w 16))
  | 1 => some (.sstopPause (fin32 w 21) (fin32 w 16))
  | 2 => some (.sresume (fin32 w 21))
  | 3 => some (.swait (fin32 w 21) (fin32 w 16))
  | 4 => some (.sstat (fin32 w 21) (fin32 w 16))
  | _ => none

/-- The Sync group, major 0x27 (R55). -/
def pickSync (w : Nat) : Option Instr :=
  match fld w 0 11 with
  | 0 => some (.binitWindow (fin32 w 21) (fin32 w 16))
  | 2 => some (.arrive (fin32 w 21) (fin32 w 16) (fin32 w 11))
  | 3 => some (.arriveR (fin32 w 21) (fin32 w 16) (fin32 w 11))
  | 4 => some (.bwait (fin32 w 21) (fin32 w 16) (fin32 w 11))
  | _ => none

/-- The Fabric group, major 0x28 (R55). -/
def pickFabric (w : Nat) : Option Instr :=
  match fld w 0 11 with
  | 0 => some (.rgnalloc (fin32 w 21) (fin32 w 16))
  | 1 => some (.rgnfree (fin32 w 21))
  | 2 => some (.cfgld (fin32 w 21) (fin32 w 16) (fin16 w 11))
  | 3 => if fld w 11 5 = 0 then some (.cfgswap (fin32 w 21) (fin32 w 16))
         else some (.cfgswapForce (fin32 w 21) (fin32 w 16) (fin16 w 11))
  | 4 => some (.cfgtrig (fin32 w 21) (fin32 w 16) (fin32 w 11))
  | 5 => some (.drainQuiet (fin32 w 21) (fin32 w 16) (fin32 w 11))
  | 6 => some (.argw (fin32 w 21) (fin32 w 16) (fin32 w 11))
  | _ => none

/-- The Tier group, major 0x29 (R55). -/
def pickTier (w : Nat) : Option Instr :=
  match fld w 0 11 with
  | 0 => some (.pool (fin32 w 21) (fin16 w 16))
  | 1 => some (.pwait (fin32 w 21) (fin32 w 16))
  | 2 => some (.copy (fin32 w 21) (fin16 w 16))
  | 3 => some (.copydl (fin32 w 21) (fin16 w 16) (fin32 w 11))
  | 4 => some (.copycan (fin32 w 21))
  | 5 => some (.cwait (fin32 w 21) (fin32 w 16))
  | _ => none

/-- The Round group, major 0x2a (R55). -/
def pickRound (w : Nat) : Option Instr :=
  match fld w 0 11 with
  | 0 => some (.fence (Scope.ofCode (fld w 21 3)) (flag w 18) (FenceKind.ofCode (fld w 16 2)))
  | 1 => some (.rnddom (fin32 w 21) (fin16 w 16))
  | 2 => some (.rndadv (fin32 w 21) (fin32 w 16))
  | 3 => some (.rndset (fin32 w 21) (fin32 w 16))
  | 4 => some (.rndget (fin32 w 21) (fin32 w 16))
  | _ => none

/-- The Work group, major 0x2b (R55). -/
def pickWork (w : Nat) : Option Instr :=
  match fld w 0 11 with
  | 0 => some (.wpull (fin32 w 21) (fin16 w 16) (fin16 w 11))
  | 1 => some (.wdone (fin32 w 21) (fin16 w 16) (fin32 w 11))
  | 2 => some (.wfail (fin32 w 21) (fin16 w 16) (fin32 w 11))
  | _ => none

/-- The Ctx group, major 0x2c (R55). -/
def pickCtx (w : Nat) : Option Instr :=
  match fld w 0 11 with
  | 0 => some (.ctxsaveRegion (fin32 w 21) (fin32 w 16) (fin16 w 11))
  | 1 => some (.ctxrstRegion (fin32 w 21) (fin32 w 16) (fin16 w 11))
  | _ => none

/-- The Link group, major 0x2d (R55). -/
def pickLink (w : Nat) : Option Instr :=
  match fld w 0 11 with
  | 0 => some (.red (fin32 w 21) (fin16 w 16))
  | 1 => some (.lnkstat (fin32 w 21) (fin32 w 16))
  | _ => none

/-- The System group, major 0x3f (R55). -/
def pickSystem (w : Nat) : Option Instr :=
  match fld w 16 10 with
  | 0 => some (.trap (bits w 0 11))
  | 1 => some (.svc (bits w 0 11))
  | 2 => some .eret
  | 3 => some (.srr (fin32 w 11) (SrNum.ofCode (fld w 0 11)))
  | 4 => some (.srw (fin32 w 11) (SrNum.ofCode (fld w 0 11)))
  | 5 => some (.wfe (fin32 w 11))
  | 6 => some .yield
  | 7 => some .halt
  | 8 => if fld w 0 1 = 0 then some (.tlbinvPg (fin16 w 11) (Reach.ofCode (fld w 2 2)))
         else some (.tlbinvAll (Reach.ofCode (fld w 2 2)))
  | 9 => if fld w 0 1 = 0 then some .l1drop
         else some (.l1dropLine (fin16 w 11))
  | _ => none

/-- The instruction that a Pelyen-A word names, by its major opcode (R54), fields read as R50 cuts them. -/
def pickA (w : Nat) : Option Instr :=
  match fld w 26 6 with
  | 1 => pickAlu w
  | 2 => pickMulDiv w
  | 3 => pickBits w
  | 4 => some (.addi (fin32 w 21) (fin32 w 16) (bits w 0 16))
  | 5 => some (.andi (fin32 w 21) (fin32 w 16) (bits w 0 16))
  | 6 => some (.ori (fin32 w 21) (fin32 w 16) (bits w 0 16))
  | 7 => some (.xori (fin32 w 21) (fin32 w 16) (bits w 0 16))
  | 8 => some (.slti (fin32 w 21) (fin32 w 16) (bits w 0 16))
  | 9 => some (.sltiu (fin32 w 21) (fin32 w 16) (bits w 0 16))
  | 10 => pickShi w
  | 11 => some (.lui (fin32 w 21) (bits w 0 16))
  | 12 => pickAddr w
  | 13 => some (.aaddi (fin16 w 21) (fin16 w 16) (bits w 0 16))
  | 14 => some (.addpc (fin16 w 22) (bits w 0 22))
  | 15 => pickFp w
  | 16 => some (.ld (fin32 w 21) (fin16 w 17) (Sz.ofCode (fld w 14 3)) (Mo.ofCode (fld w 12 2)) (bits w 0 12))
  | 17 => some (.st (fin32 w 21) (fin16 w 17) (Sz.ofCode (fld w 14 3)) (Mo.ofCode (fld w 12 2)) (bits w 0 12))
  | 18 => some (.ldacq (fin32 w 21) (fin16 w 17) (Sz.ofCode (fld w 14 3)) (Mo.ofCode (fld w 12 2)) (bits w 0 12))
  | 19 => some (.strel (fin32 w 21) (fin16 w 17) (Sz.ofCode (fld w 14 3)) (Mo.ofCode (fld w 12 2)) (bits w 0 12))
  | 20 => some (.ldb (fin32 w 21) (fin16 w 17) (Sz.ofCode (fld w 14 3)) (fin16 w 10) (bits w 0 10))
  | 21 => some (.amo (fin32 w 21) (fin16 w 17) (fin32 w 12) (Afn.ofCode (fld w 8 4)) (Scope.ofCode (fld w 5 3)) (AMo.ofCode (fld w 3 2)) (Sz.ofCode (fld w 0 3)))
  | 22 => some (.cas (fin32 w 21) (fin16 w 17) (fin32 w 12) (Scope.ofCode (fld w 5 3)) (AMo.ofCode (fld w 3 2)) (Sz.ofCode (fld w 0 3)))
  | 23 => some (.pref (Hint.ofCode (fld w 21 5)) (fin16 w 17) (bits w 0 12))
  | 24 => some (.beq (fin32 w 21) (fin32 w 16) (bits w 0 16))
  | 25 => some (.bne (fin32 w 21) (fin32 w 16) (bits w 0 16))
  | 26 => some (.blt (fin32 w 21) (fin32 w 16) (bits w 0 16))
  | 27 => some (.bge (fin32 w 21) (fin32 w 16) (bits w 0 16))
  | 28 => some (.bltu (fin32 w 21) (fin32 w 16) (bits w 0 16))
  | 29 => some (.bgeu (fin32 w 21) (fin32 w 16) (bits w 0 16))
  | 30 => some (.j (bits w 0 26))
  | 31 => some (.jal (bits w 0 26))
  | 32 => some (.jalr (fin16 w 21) (fin16 w 16) (bits w 0 16))
  | 33 => pickBq w
  | 34 => pickVec w
  | 36 => pickQueue w
  | 38 => pickStream w
  | 39 => pickSync w
  | 40 => pickFabric w
  | 41 => pickTier w
  | 42 => pickRound w
  | 43 => pickWork w
  | 44 => pickCtx w
  | 45 => pickLink w
  | 63 => pickSystem w
  | _ => none

/-- The element instruction that a Pelyen-E word names, by its opcode (R62). A BNET word names BNET; whether its constant selects the
load form is decided by the constant (R243). -/
def pickE (w : Nat) : Option Instr :=
  if fld w 28 4 = 12 then some (.cvt (EType.ofCode (fld w 24 4)) (EWord.ofCode w))
  else if fld w 28 4 = 13 then some (.cvtSat (EType.ofCode (fld w 24 4)) (EWord.ofCode w))
  else match fld w 24 8 with
  | 1 => some (.iadd (EWord.ofCode w))
  | 2 => some (.isub (EWord.ofCode w))
  | 3 => some (.iadds (EWord.ofCode w))
  | 4 => some (.isubs (EWord.ofCode w))
  | 5 => some (.imul (EWord.ofCode w))
  | 6 => some (.imulh (EWord.ofCode w))
  | 7 => some (.imad (EWord.ofCode w))
  | 8 => some (.imin (EWord.ofCode w))
  | 9 => some (.imax (EWord.ofCode w))
  | 10 => some (.iabs (EWord.ofCode w))
  | 11 => some (.ineg (EWord.ofCode w))
  | 12 => some (.ishl (EWord.ofCode w))
  | 13 => some (.ishr (EWord.ofCode w))
  | 14 => some (.isar (EWord.ofCode w))
  | 15 => some (.iand (EWord.ofCode w))
  | 16 => some (.ior (EWord.ofCode w))
  | 17 => some (.ixor (EWord.ofCode w))
  | 18 => some (.inot (EWord.ofCode w))
  | 19 => some (.iclz (EWord.ofCode w))
  | 20 => some (.ipopc (EWord.ofCode w))
  | 21 => some (.iminu (EWord.ofCode w))
  | 22 => some (.imaxu (EWord.ofCode w))
  | 32 => some (.eFadd (EWord.ofCode w))
  | 33 => some (.eFsub (EWord.ofCode w))
  | 34 => some (.eFmul (EWord.ofCode w))
  | 35 => some (.eFma (EWord.ofCode w))
  | 36 => some (.fms (EWord.ofCode w))
  | 37 => some (.fnma (EWord.ofCode w))
  | 38 => some (.eFdiv (EWord.ofCode w))
  | 39 => some (.eFsqrt (EWord.ofCode w))
  | 40 => some (.eFmin (EWord.ofCode w))
  | 41 => some (.eFmax (EWord.ofCode w))
  | 42 => some (.fabs (EWord.ofCode w))
  | 43 => some (.fneg (EWord.ofCode w))
  | 44 => some (.frnd (EWord.ofCode w))
  | 48 => some (.icmpEq (EWord.ofCode w))
  | 49 => some (.icmpNe (EWord.ofCode w))
  | 50 => some (.icmpLt (EWord.ofCode w))
  | 51 => some (.icmpLe (EWord.ofCode w))
  | 52 => some (.icmpLtu (EWord.ofCode w))
  | 53 => some (.icmpLeu (EWord.ofCode w))
  | 54 => some (.eFcmpEq (EWord.ofCode w))
  | 55 => some (.eFcmpNe (EWord.ofCode w))
  | 56 => some (.eFcmpLt (EWord.ofCode w))
  | 57 => some (.eFcmpLe (EWord.ofCode w))
  | 58 => some (.eFcmpUn (EWord.ofCode w))
  | 59 => some (.eFcmpOrd (EWord.ofCode w))
  | 60 => some (.sel (EWord.ofCode w))
  | 61 => some (.pand (EWord.ofCode w))
  | 62 => some (.por (EWord.ofCode w))
  | 63 => some (.pnot (EWord.ofCode w))
  | 64 => some (.exp2 (EWord.ofCode w))
  | 65 => some (.log2 (EWord.ofCode w))
  | 66 => some (.rcp (EWord.ofCode w))
  | 67 => some (.rsq (EWord.ofCode w))
  | 68 => some (.tanh (EWord.ofCode w))
  | 69 => some (.sin (EWord.ofCode w))
  | 70 => some (.cos (EWord.ofCode w))
  | 72 => some (.mxq (EWord.ofCode w))
  | 73 => some (.mxdq (EWord.ofCode w))
  | 80 => some (.lperm (EWord.ofCode w))
  | 81 => some (.lshf (EWord.ofCode w))
  | 82 => some (.lbcast (EWord.ofCode w))
  | 83 => some (.lred (EWord.ofCode w))
  | 84 => some (.lscan (EWord.ofCode w))
  | 85 => some (.lidx (EWord.ofCode w))
  | 86 => some (.lcnt (EWord.ofCode w))
  | 96 => some (.split (EWord.ofCode w))
  | 97 => some (.join (EWord.ofCode w))
  | 98 => some (.cmpct (EWord.ofCode w))
  | 99 => some (.stopq (EWord.ofCode w))
  | 100 => some (.stopg (EWord.ofCode w))
  | 101 => some (.mark (EWord.ofCode w))
  | 102 => some (.fan (EWord.ofCode w))
  | 104 => some (.bnet (EWord.ofCode w))
  | 105 => some (.bfx (EWord.ofCode w))
  | 106 => some (.bfi (EWord.ofCode w))
  | 112 => some (.pop (EWord.ofCode w))
  | 113 => some (.push (EWord.ofCode w))
  | 114 => some (.bqw (EWord.ofCode w))
  | 128 => some (.mtgat (EWord.ofCode w))
  | 129 => some (.mtsct (EWord.ofCode w))
  | 130 => some (.mtsca (EWord.ofCode w))
  | 131 => some (.mtamo (EWord.ofCode w))
  | 132 => some (.mttas (EWord.ofCode w))
  | 133 => some (.mtbin (EWord.ofCode w))
  | 134 => some (.mtrule (EWord.ofCode w))
  | 136 => some (.mma (EWord.ofCode w))
  | 137 => some (.accz (EWord.ofCode w))
  | 138 => some (.accrd (EWord.ofCode w))
  | 139 => some (.accwr (EWord.ofCode w))
  | 140 => some (.accck (EWord.ofCode w))
  | 141 => some (.accrs (EWord.ofCode w))
  | 144 => some (.cmpx (EWord.ofCode w))
  | 145 => some (.sorte (EWord.ofCode w))
  | 148 => some (.gmax (EWord.ofCode w))
  | 149 => some (.topk (EWord.ofCode w))
  | 150 => some (.renorm (EWord.ofCode w))
  | _ => none

/-- The word of a Pelyen-A instruction, from the encoding tables; other instructions have none. -/
def encodeA : Instr → Option Nat
  | .add d s t => some (0x4000000 + d.val * 2097152 + s.val * 65536 + t.val * 2048)
  | .sub d s t => some (0x4000001 + d.val * 2097152 + s.val * 65536 + t.val * 2048)
  | .and d s t => some (0x4000002 + d.val * 2097152 + s.val * 65536 + t.val * 2048)
  | .or d s t => some (0x4000003 + d.val * 2097152 + s.val * 65536 + t.val * 2048)
  | .xor d s t => some (0x4000004 + d.val * 2097152 + s.val * 65536 + t.val * 2048)
  | .sll d s t => some (0x4000005 + d.val * 2097152 + s.val * 65536 + t.val * 2048)
  | .srl d s t => some (0x4000006 + d.val * 2097152 + s.val * 65536 + t.val * 2048)
  | .sra d s t => some (0x4000007 + d.val * 2097152 + s.val * 65536 + t.val * 2048)
  | .slt d s t => some (0x4000008 + d.val * 2097152 + s.val * 65536 + t.val * 2048)
  | .sltu d s t => some (0x4000009 + d.val * 2097152 + s.val * 65536 + t.val * 2048)
  | .min d s t => some (0x400000a + d.val * 2097152 + s.val * 65536 + t.val * 2048)
  | .max d s t => some (0x400000b + d.val * 2097152 + s.val * 65536 + t.val * 2048)
  | .minu d s t => some (0x400000c + d.val * 2097152 + s.val * 65536 + t.val * 2048)
  | .maxu d s t => some (0x400000d + d.val * 2097152 + s.val * 65536 + t.val * 2048)
  | .mul d s t => some (0x8000000 + d.val * 2097152 + s.val * 65536 + t.val * 2048)
  | .mulh d s t => some (0x8000001 + d.val * 2097152 + s.val * 65536 + t.val * 2048)
  | .mulhu d s t => some (0x8000002 + d.val * 2097152 + s.val * 65536 + t.val * 2048)
  | .div d s t => some (0x8000003 + d.val * 2097152 + s.val * 65536 + t.val * 2048)
  | .divu d s t => some (0x8000004 + d.val * 2097152 + s.val * 65536 + t.val * 2048)
  | .rem d s t => some (0x8000005 + d.val * 2097152 + s.val * 65536 + t.val * 2048)
  | .remu d s t => some (0x8000006 + d.val * 2097152 + s.val * 65536 + t.val * 2048)
  | .clz d s => some (0xc000000 + d.val * 2097152 + s.val * 65536)
  | .ctz d s => some (0xc000001 + d.val * 2097152 + s.val * 65536)
  | .popc d s => some (0xc000002 + d.val * 2097152 + s.val * 65536)
  | .bswap d s => some (0xc000003 + d.val * 2097152 + s.val * 65536)
  | .addi d s i => some (0x10000000 + d.val * 2097152 + s.val * 65536 + i.toNat)
  | .andi d s i => some (0x14000000 + d.val * 2097152 + s.val * 65536 + i.toNat)
  | .ori d s i => some (0x18000000 + d.val * 2097152 + s.val * 65536 + i.toNat)
  | .xori d s i => some (0x1c000000 + d.val * 2097152 + s.val * 65536 + i.toNat)
  | .slti d s i => some (0x20000000 + d.val * 2097152 + s.val * 65536 + i.toNat)
  | .sltiu d s i => some (0x24000000 + d.val * 2097152 + s.val * 65536 + i.toNat)
  | .slli d s h => some (0x28000000 + d.val * 2097152 + s.val * 65536 + h.toNat)
  | .srli d s h => some (0x28004000 + d.val * 2097152 + s.val * 65536 + h.toNat)
  | .srai d s h => some (0x28008000 + d.val * 2097152 + s.val * 65536 + h.toNat)
  | .lui d i => some (0x2c000000 + d.val * 2097152 + i.toNat)
  | .aadd d s t => some (0x30000000 + d.val * 2097152 + s.val * 65536 + t.val * 2048)
  | .asub d s t => some (0x30000001 + d.val * 2097152 + s.val * 65536 + t.val * 2048)
  | .afromx d s => some (0x30000002 + d.val * 2097152 + s.val * 65536)
  | .atox d s => some (0x30000003 + d.val * 2097152 + s.val * 65536)
  | .ahi d s => some (0x30000004 + d.val * 2097152 + s.val * 65536)
  | .asethi d s t => some (0x30000005 + d.val * 2097152 + s.val * 65536 + t.val * 2048)
  | .aaddi d s i => some (0x34000000 + d.val * 2097152 + s.val * 65536 + i.toNat)
  | .addpc d i => some (0x38000000 + d.val * 4194304 + i.toNat)
  | .fadd d s t rm f => some (0x3c000000 + d.val * 2097152 + s.val * 65536 + t.val * 2048 + rm.code * 64 + f.code * 16)
  | .fsub d s t rm f => some (0x3c000001 + d.val * 2097152 + s.val * 65536 + t.val * 2048 + rm.code * 64 + f.code * 16)
  | .fmul d s t rm f => some (0x3c000002 + d.val * 2097152 + s.val * 65536 + t.val * 2048 + rm.code * 64 + f.code * 16)
  | .fdiv d s t rm f => some (0x3c000003 + d.val * 2097152 + s.val * 65536 + t.val * 2048 + rm.code * 64 + f.code * 16)
  | .fsqrt d s rm f => some (0x3c000004 + d.val * 2097152 + s.val * 65536 + rm.code * 64 + f.code * 16)
  | .fma d s t rm f => some (0x3c000005 + d.val * 2097152 + s.val * 65536 + t.val * 2048 + rm.code * 64 + f.code * 16)
  | .fmin d s t f => some (0x3c000006 + d.val * 2097152 + s.val * 65536 + t.val * 2048 + f.code * 16)
  | .fmax d s t f => some (0x3c000007 + d.val * 2097152 + s.val * 65536 + t.val * 2048 + f.code * 16)
  | .fcmp d s t c f => some (0x3c000008 + d.val * 2097152 + s.val * 65536 + t.val * 2048 + c.code * 512 + f.code * 16)
  | .fcvt d s e v rm f => some (0x3c000009 + d.val * 2097152 + s.val * 65536 + e.code * 2048 + v.toNat * 1024 + rm.code * 64 + f.code * 16)
  | .fclass d s f => some (0x3c00000a + d.val * 2097152 + s.val * 65536 + f.code * 16)
  | .vidx d s t => some (0x88000000 + d.val * 2097152 + s.val * 65536 + t.val * 2048)
  | .vld d s t => some (0x88000001 + d.val * 2097152 + s.val * 65536 + t.val * 2048)
  | .vadd d s t => some (0x88000002 + d.val * 2097152 + s.val * 65536 + t.val * 2048)
  | .vbcast d s => some (0x88000003 + d.val * 2097152 + s.val * 65536)
  | .vcmp d s t => some (0x88000004 + d.val * 2097152 + s.val * 65536 + t.val * 2048)
  | .vext d s t => some (0x88000005 + d.val * 2097152 + s.val * 65536 + t.val * 2048)
  | .ld d a z mo o => some (0x40000000 + d.val * 2097152 + a.val * 131072 + z.code * 16384 + mo.code * 4096 + o.toNat)
  | .st d a z mo o => some (0x44000000 + d.val * 2097152 + a.val * 131072 + z.code * 16384 + mo.code * 4096 + o.toNat)
  | .ldacq d a z mo o => some (0x48000000 + d.val * 2097152 + a.val * 131072 + z.code * 16384 + mo.code * 4096 + o.toNat)
  | .strel d a z mo o => some (0x4c000000 + d.val * 2097152 + a.val * 131072 + z.code * 16384 + mo.code * 4096 + o.toNat)
  | .ldb d a z b o => some (0x50000000 + d.val * 2097152 + a.val * 131072 + z.code * 16384 + b.val * 1024 + o.toNat)
  | .amo d a s f c mo z => some (0x54000000 + d.val * 2097152 + a.val * 131072 + s.val * 4096 + f.code * 256 + c.code * 32 + mo.code * 8 + z.code)
  | .cas d a s c mo z => some (0x58000000 + d.val * 2097152 + a.val * 131072 + s.val * 4096 + c.code * 32 + mo.code * 8 + z.code)
  | .pref h a o => some (0x5c000000 + h.code * 2097152 + a.val * 131072 + o.toNat)
  | .beq s t o => some (0x60000000 + s.val * 2097152 + t.val * 65536 + o.toNat)
  | .bne s t o => some (0x64000000 + s.val * 2097152 + t.val * 65536 + o.toNat)
  | .blt s t o => some (0x68000000 + s.val * 2097152 + t.val * 65536 + o.toNat)
  | .bge s t o => some (0x6c000000 + s.val * 2097152 + t.val * 65536 + o.toNat)
  | .bltu s t o => some (0x70000000 + s.val * 2097152 + t.val * 65536 + o.toNat)
  | .bgeu s t o => some (0x74000000 + s.val * 2097152 + t.val * 65536 + o.toNat)
  | .j o => some (0x78000000 + o.toNat)
  | .jal o => some (0x7c000000 + o.toNat)
  | .jalr d s i => some (0x80000000 + d.val * 2097152 + s.val * 65536 + i.toNat)
  | .bqb d o => some (0x84000000 + d.val * 2097152 + o.toNat)
  | .bqbLk d o => some (0x84010000 + d.val * 2097152 + o.toNat)
  | .qpush r q c => some (0x90000000 + r.val * 2097152 + q.val * 65536 + c.toNat)
  | .qpushv r q c m => some (0x90000100 + r.val * 2097152 + q.val * 65536 + c.toNat * 8 + m.val)
  | .qpushs q l => some (0x90000200 + q.val * 65536 + l.code)
  | .qpop d q rm l => some (0x90000300 + d.val * 2097152 + q.val * 65536 + rm.toNat * 16 + l.val)
  | .qpopSb d q rm => some (0x90000340 + d.val * 2097152 + q.val * 65536 + rm.toNat * 16)
  | .qstat d q c b sel => some (0x90000400 + d.val * 2097152 + q.val * 65536 + c.toNat * 128 + b.toNat * 64 + sel.val)
  | .qbind s q l b p => some (0x90000500 + s.val * 2097152 + q.val * 65536 + l.toNat * 128 + b.toNat * 64 + p.val)
  | .qunbind q b => some (0x90000600 + q.val * 65536 + b.toNat * 64)
  | .qdisc d q b => some (0x90000700 + d.val * 2097152 + q.val * 65536 + b.toNat * 64)
  | .bqpop d => some (0x90000800 + d.val * 2097152)
  | .rqbind a q e => some (0x90000900 + a.val * 2097152 + q.val * 65536 + e.code)
  | .sspec s a => some (0x98000000 + s.val * 2097152 + a.val * 65536)
  | .sstopPause s mode => some (0x98000001 + s.val * 2097152 + mode.val * 65536)
  | .sstopAbort s mode => some (0x98000001 + s.val * 2097152 + mode.val * 65536)
  | .sresume s => some (0x98000002 + s.val * 2097152)
  | .swait d s => some (0x98000003 + d.val * 2097152 + s.val * 65536)
  | .sstat d s => some (0x98000004 + d.val * 2097152 + s.val * 65536)
  | .binitWindow n v => some (0x9c000000 + n.val * 2097152 + v.val * 65536)
  | .binitBarrier n v => some (0x9c000000 + n.val * 2097152 + v.val * 65536)
  | .arrive d n p => some (0x9c000002 + d.val * 2097152 + n.val * 65536 + p.val * 2048)
  | .arriveR d n p => some (0x9c000003 + d.val * 2097152 + n.val * 65536 + p.val * 2048)
  | .bwait d n p => some (0x9c000004 + d.val * 2097152 + n.val * 65536 + p.val * 2048)
  | .rgnalloc d s => some (0xa0000000 + d.val * 2097152 + s.val * 65536)
  | .rgnfree h => some (0xa0000001 + h.val * 2097152)
  | .cfgld h s a => some (0xa0000002 + h.val * 2097152 + s.val * 65536 + a.val * 2048)
  | .cfgswap h s => some (0xa0000003 + h.val * 2097152 + s.val * 65536)
  | .cfgswapForce h s a => some (0xa0000003 + h.val * 2097152 + s.val * 65536 + a.val * 2048)
  | .cfgtrig h s c => some (0xa0000004 + h.val * 2097152 + s.val * 65536 + c.val * 2048)
  | .cfgtrigDisarm h s c => some (0xa0000004 + h.val * 2097152 + s.val * 65536 + c.val * 2048)
  | .drainQuiet d h o => some (0xa0000005 + d.val * 2097152 + h.val * 65536 + o.val * 2048)
  | .drainWait d h o => some (0xa0000005 + d.val * 2097152 + h.val * 65536 + o.val * 2048)
  | .drainDiscard d h o => some (0xa0000005 + d.val * 2097152 + h.val * 65536 + o.val * 2048)
  | .drainStat d h o => some (0xa0000005 + d.val * 2097152 + h.val * 65536 + o.val * 2048)
  | .argw h s c => some (0xa0000006 + h.val * 2097152 + s.val * 65536 + c.val * 2048)
  | .pool s a => some (0xa4000000 + s.val * 2097152 + a.val * 65536)
  | .poolResume s a => some (0xa4000000 + s.val * 2097152 + a.val * 65536)
  | .poolAbandon s a => some (0xa4000000 + s.val * 2097152 + a.val * 65536)
  | .pwait d s => some (0xa4000001 + d.val * 2097152 + s.val * 65536)
  | .copy s a => some (0xa4000002 + s.val * 2097152 + a.val * 65536)
  | .copyResume s a => some (0xa4000002 + s.val * 2097152 + a.val * 65536)
  | .copyAbandon s a => some (0xa4000002 + s.val * 2097152 + a.val * 65536)
  | .copydl s a c => some (0xa4000003 + s.val * 2097152 + a.val * 65536 + c.val * 2048)
  | .copycan s => some (0xa4000004 + s.val * 2097152)
  | .cwait d s => some (0xa4000005 + d.val * 2097152 + s.val * 65536)
  | .fence c q k => some (0xa8000000 + c.code * 2097152 + q.toNat * 262144 + k.code * 65536)
  | .rnddom d a => some (0xa8000001 + d.val * 2097152 + a.val * 65536)
  | .rndadv d s => some (0xa8000002 + d.val * 2097152 + s.val * 65536)
  | .rndset s v => some (0xa8000003 + s.val * 2097152 + v.val * 65536)
  | .rndsetClr s v => some (0xa8000003 + s.val * 2097152 + v.val * 65536)
  | .rndget d s => some (0xa8000004 + d.val * 2097152 + s.val * 65536)
  | .wpull d a c => some (0xac000000 + d.val * 2097152 + a.val * 65536 + c.val * 2048)
  | .wdone s a c => some (0xac000001 + s.val * 2097152 + a.val * 65536 + c.val * 2048)
  | .wfail s a c => some (0xac000002 + s.val * 2097152 + a.val * 65536 + c.val * 2048)
  | .ctxsaveRegion d s a => some (0xb0000000 + d.val * 2097152 + s.val * 65536 + a.val * 2048)
  | .ctxsaveThread d s a => some (0xb0000000 + d.val * 2097152 + s.val * 65536 + a.val * 2048)
  | .ctxrstRegion d s a => some (0xb0000001 + d.val * 2097152 + s.val * 65536 + a.val * 2048)
  | .ctxrstThread d s a => some (0xb0000001 + d.val * 2097152 + s.val * 65536 + a.val * 2048)
  | .red s a => some (0xb4000000 + s.val * 2097152 + a.val * 65536)
  | .lnkstat d s => some (0xb4000001 + d.val * 2097152 + s.val * 65536)
  | .trap i => some (0xfc000000 + i.toNat)
  | .svc i => some (0xfc010000 + i.toNat)
  | .eret => some (0xfc020000)
  | .srr d n => some (0xfc030000 + d.val * 2048 + n.code)
  | .srw s n => some (0xfc040000 + s.val * 2048 + n.code)
  | .wfe s => some (0xfc050000 + s.val * 2048)
  | .yield => some (0xfc060000)
  | .halt => some (0xfc070000)
  | .tlbinvPg a r => some (0xfc080000 + a.val * 2048 + r.code * 4)
  | .tlbinvAll r => some (0xfc080001 + r.code * 4)
  | .l1drop => some (0xfc090000)
  | .l1dropLine a => some (0xfc090001 + a.val * 2048)
  | _ => none

/-- The word of an element instruction (R59, R62). -/
def encodeE : Instr → Option Nat
  | .iadd e => some (0x1 * 16777216 + e.encode)
  | .isub e => some (0x2 * 16777216 + e.encode)
  | .iadds e => some (0x3 * 16777216 + e.encode)
  | .isubs e => some (0x4 * 16777216 + e.encode)
  | .imul e => some (0x5 * 16777216 + e.encode)
  | .imulh e => some (0x6 * 16777216 + e.encode)
  | .imad e => some (0x7 * 16777216 + e.encode)
  | .imin e => some (0x8 * 16777216 + e.encode)
  | .imax e => some (0x9 * 16777216 + e.encode)
  | .iabs e => some (0xa * 16777216 + e.encode)
  | .ineg e => some (0xb * 16777216 + e.encode)
  | .ishl e => some (0xc * 16777216 + e.encode)
  | .ishr e => some (0xd * 16777216 + e.encode)
  | .isar e => some (0xe * 16777216 + e.encode)
  | .iand e => some (0xf * 16777216 + e.encode)
  | .ior e => some (0x10 * 16777216 + e.encode)
  | .ixor e => some (0x11 * 16777216 + e.encode)
  | .inot e => some (0x12 * 16777216 + e.encode)
  | .iclz e => some (0x13 * 16777216 + e.encode)
  | .ipopc e => some (0x14 * 16777216 + e.encode)
  | .iminu e => some (0x15 * 16777216 + e.encode)
  | .imaxu e => some (0x16 * 16777216 + e.encode)
  | .eFadd e => some (0x20 * 16777216 + e.encode)
  | .eFsub e => some (0x21 * 16777216 + e.encode)
  | .eFmul e => some (0x22 * 16777216 + e.encode)
  | .eFma e => some (0x23 * 16777216 + e.encode)
  | .fms e => some (0x24 * 16777216 + e.encode)
  | .fnma e => some (0x25 * 16777216 + e.encode)
  | .eFdiv e => some (0x26 * 16777216 + e.encode)
  | .eFsqrt e => some (0x27 * 16777216 + e.encode)
  | .eFmin e => some (0x28 * 16777216 + e.encode)
  | .eFmax e => some (0x29 * 16777216 + e.encode)
  | .fabs e => some (0x2a * 16777216 + e.encode)
  | .fneg e => some (0x2b * 16777216 + e.encode)
  | .frnd e => some (0x2c * 16777216 + e.encode)
  | .icmpEq e => some (0x30 * 16777216 + e.encode)
  | .icmpNe e => some (0x31 * 16777216 + e.encode)
  | .icmpLt e => some (0x32 * 16777216 + e.encode)
  | .icmpLe e => some (0x33 * 16777216 + e.encode)
  | .icmpLtu e => some (0x34 * 16777216 + e.encode)
  | .icmpLeu e => some (0x35 * 16777216 + e.encode)
  | .eFcmpEq e => some (0x36 * 16777216 + e.encode)
  | .eFcmpNe e => some (0x37 * 16777216 + e.encode)
  | .eFcmpLt e => some (0x38 * 16777216 + e.encode)
  | .eFcmpLe e => some (0x39 * 16777216 + e.encode)
  | .eFcmpUn e => some (0x3a * 16777216 + e.encode)
  | .eFcmpOrd e => some (0x3b * 16777216 + e.encode)
  | .sel e => some (0x3c * 16777216 + e.encode)
  | .pand e => some (0x3d * 16777216 + e.encode)
  | .por e => some (0x3e * 16777216 + e.encode)
  | .pnot e => some (0x3f * 16777216 + e.encode)
  | .exp2 e => some (0x40 * 16777216 + e.encode)
  | .log2 e => some (0x41 * 16777216 + e.encode)
  | .rcp e => some (0x42 * 16777216 + e.encode)
  | .rsq e => some (0x43 * 16777216 + e.encode)
  | .tanh e => some (0x44 * 16777216 + e.encode)
  | .sin e => some (0x45 * 16777216 + e.encode)
  | .cos e => some (0x46 * 16777216 + e.encode)
  | .mxq e => some (0x48 * 16777216 + e.encode)
  | .mxdq e => some (0x49 * 16777216 + e.encode)
  | .lperm e => some (0x50 * 16777216 + e.encode)
  | .lshf e => some (0x51 * 16777216 + e.encode)
  | .lbcast e => some (0x52 * 16777216 + e.encode)
  | .lred e => some (0x53 * 16777216 + e.encode)
  | .lscan e => some (0x54 * 16777216 + e.encode)
  | .lidx e => some (0x55 * 16777216 + e.encode)
  | .lcnt e => some (0x56 * 16777216 + e.encode)
  | .split e => some (0x60 * 16777216 + e.encode)
  | .join e => some (0x61 * 16777216 + e.encode)
  | .cmpct e => some (0x62 * 16777216 + e.encode)
  | .stopq e => some (0x63 * 16777216 + e.encode)
  | .stopg e => some (0x64 * 16777216 + e.encode)
  | .mark e => some (0x65 * 16777216 + e.encode)
  | .fan e => some (0x66 * 16777216 + e.encode)
  | .bnet e => some (0x68 * 16777216 + e.encode)
  | .bnetLoad e => some (0x68 * 16777216 + e.encode)
  | .bfx e => some (0x69 * 16777216 + e.encode)
  | .bfi e => some (0x6a * 16777216 + e.encode)
  | .pop e => some (0x70 * 16777216 + e.encode)
  | .push e => some (0x71 * 16777216 + e.encode)
  | .bqw e => some (0x72 * 16777216 + e.encode)
  | .mtgat e => some (0x80 * 16777216 + e.encode)
  | .mtsct e => some (0x81 * 16777216 + e.encode)
  | .mtsca e => some (0x82 * 16777216 + e.encode)
  | .mtamo e => some (0x83 * 16777216 + e.encode)
  | .mttas e => some (0x84 * 16777216 + e.encode)
  | .mtbin e => some (0x85 * 16777216 + e.encode)
  | .mtrule e => some (0x86 * 16777216 + e.encode)
  | .mma e => some (0x88 * 16777216 + e.encode)
  | .accz e => some (0x89 * 16777216 + e.encode)
  | .accrd e => some (0x8a * 16777216 + e.encode)
  | .accwr e => some (0x8b * 16777216 + e.encode)
  | .accck e => some (0x8c * 16777216 + e.encode)
  | .accrs e => some (0x8d * 16777216 + e.encode)
  | .cmpx e => some (0x90 * 16777216 + e.encode)
  | .sorte e => some (0x91 * 16777216 + e.encode)
  | .gmax e => some (0x94 * 16777216 + e.encode)
  | .topk e => some (0x95 * 16777216 + e.encode)
  | .renorm e => some (0x96 * 16777216 + e.encode)
  | .cvt dest e => some ((0xc0 + dest.code) * 16777216 + e.encode)
  | .cvtSat dest e => some ((0xd0 + dest.code) * 16777216 + e.encode)
  | _ => none

/-- The word of a well-formed instruction of either set. -/
def encode (i : Instr) : Option Nat :=
  match encodeA i with
  | some w => some w
  | none => encodeE i

/-- Accept a picked instruction when its own encoding is the word (so that no bit is left unread) and it is well formed. -/
def accept (enc : Instr → Option Nat) (w : Nat) : Option Instr → Except DecodeReason Instr
  | none => .error .reservedOpcode
  | some i => if enc i ≠ some w then .error .reservedField
              else if i.wellFormed then .ok i else .error .reservedCombination

/-- The Pelyen-A instruction of a 32-bit word, or why it is a reserved encoding (R58). -/
def decodeA (w : Nat) : Except DecodeReason Instr := accept encodeA w (pickA w)

/-- The element instruction of a 32-bit word, or why CFGLD refuses it (R64). -/
def decodeE (w : Nat) : Except DecodeReason Instr := accept encodeE w (pickE w)

/-- The instruction read from a table word of either set, its bits numbered as the opcode table numbers them: one little-endian 32-bit
word (R50, R59). The two sets are told apart by where a word is fetched; a bare word is read as Pelyen-A where that accepts it. -/
def decodeTableWord (nbits w : Nat) : Option Instr :=
  if nbits = 32 then
    match decodeA (w % 2 ^ 32) with
    | .ok i => some i
    | .error _ => match decodeE (w % 2 ^ 32) with
      | .ok i => some i
      | .error _ => none
  else none

end Sys2Proof
end

