-- ==== Sys2Proof/Machine/Num.lean ====
section
/-!
DEFINITION. Number formats and arithmetic (R23 to R49): element types, exact values, the six rounding modes with RSH, conversions,
and the special-result rules of a multi-term sum. Exact values are integers times powers of two or quotients of naturals; each result is
rounded once.
-/
namespace Sys2Proof.Machine

/-! ### Flags (R35) -/
def NV : FlagSet := 1
def DZ : FlagSet := 2
def OF : FlagSet := 4
def UF : FlagSet := 8
def NX : FlagSet := 16
def SA : FlagSet := 32
def NI : FlagSet := 64

/-- A result pattern with the flags it raises. -/
structure Res where
  bits : Nat
  flags : FlagSet
  deriving DecidableEq, Repr

/-! ### Element types (R23, R25) -/

/-- How the all-ones exponent reads (R25). -/
inductive TopExp where
  | ieee | e4m3 | finite
  deriving DecidableEq, Repr

/-- A floating-point format: exponent and fraction widths, bias, meaning of the all-ones exponent. -/
structure Fmt where
  eb : Nat
  fb : Nat
  bias : Nat
  top : TopExp
  deriving DecidableEq, Repr

def Fmt.fp64 : Fmt := ⟨11, 52, 1023, .ieee⟩
def Fmt.fp32 : Fmt := ⟨8, 23, 127, .ieee⟩

/-- The format of a floating-point element type, or the signedness of an integer type. -/
def etypeFmt : EType → Except Bool Fmt
  | .fp64 => .ok .fp64
  | .fp32 => .ok .fp32
  | .fp16 => .ok ⟨5, 10, 15, .ieee⟩
  | .bf16 => .ok ⟨8, 7, 127, .ieee⟩
  | .e5m2 => .ok ⟨5, 2, 15, .ieee⟩
  | .e4m3 => .ok ⟨4, 3, 7, .e4m3⟩
  | .e3m2 => .ok ⟨3, 2, 3, .finite⟩
  | .e2m1 => .ok ⟨2, 1, 1, .finite⟩
  | .u8 | .u16 | .u32 => .error false
  | .i8 | .i16 | .i32 | .i64 | .i4 => .error true

/-- Width in bits of an element (R23). -/
def etypeWidth : EType → Nat
  | .i4 | .e2m1 => 4
  | .e3m2 => 6
  | .i8 | .u8 | .e4m3 | .e5m2 => 8
  | .i16 | .u16 | .fp16 | .bf16 => 16
  | .i32 | .u32 | .fp32 => 32
  | .i64 | .fp64 => 64

/-- Byte size of an element type that memory holds as whole bytes. -/
def etypeBytes (t : EType) : Nat := (etypeWidth t + 7) / 8

/-- The type a w code names (R23, R59). -/
def wType : Nat → EType
  | 0 => .i32 | 1 => .i64 | 2 => .fp32 | 3 => .fp64 | 4 => .i16 | 5 => .fp16 | 6 => .bf16 | _ => .i8

/-- The integer whose low w bits are n, read signed or unsigned. -/
def readInt (w : Nat) (signed : Bool) (n : Nat) : Int :=
  let u := n % 2 ^ w
  if signed && decide (2 ^ (w - 1) ≤ u) then (u : Int) - 2 ^ w else u

/-- Low w bits of an integer in two's complement (R42). -/
def wrapInt (w : Nat) (z : Int) : Nat := (z % (2 ^ w : Int)).toNat

/-- Bounds of an integer type of w bits. -/
def intMin (w : Nat) (signed : Bool) : Int := if signed then -(2 ^ (w - 1) : Int) else 0
def intMax (w : Nat) (signed : Bool) : Int := if signed then 2 ^ (w - 1) - 1 else 2 ^ w - 1

/-- Clamp to a type's range, with SA when it clamps (R42). -/
def clampInt (w : Nat) (signed : Bool) (z : Int) : Res :=
  if z < intMin w signed then ⟨wrapInt w (intMin w signed), SA⟩
  else if intMax w signed < z then ⟨wrapInt w (intMax w signed), SA⟩
  else ⟨wrapInt w z, 0⟩

/-- A decoded value: NaN (signalling or not), an infinity, or ± m × 2^e. -/
inductive FVal where
  | nan (sig : Bool)
  | inf (neg : Bool)
  | fin (neg : Bool) (m : Nat) (e : Int)
  deriving DecidableEq, Repr

def Fmt.width (f : Fmt) : Nat := 1 + f.eb + f.fb

/-- The value of a pattern (R25, R26). -/
def Fmt.decode (f : Fmt) (n : Nat) : FVal :=
  let neg := n / 2 ^ (f.eb + f.fb) % 2 == 1
  let ex := n / 2 ^ f.fb % 2 ^ f.eb
  let fr := n % 2 ^ f.fb
  let finite := if ex = 0 then FVal.fin neg fr (1 - f.bias - f.fb)
    else .fin neg (fr + 2 ^ f.fb) ((ex : Int) - f.bias - f.fb)
  if ex = 2 ^ f.eb - 1 then
    match f.top with
    | .ieee => if fr = 0 then .inf neg else .nan (decide (fr < 2 ^ (f.fb - 1)))
    | .e4m3 => if fr = 7 then .nan false else finite
    | .finite => finite
  else finite

/-- The canonical NaN (R25, R27); formats without one give 0. -/
def Fmt.canonNan (f : Fmt) : Nat :=
  match f.top with
  | .ieee => (2 ^ f.eb - 1) * 2 ^ f.fb + 2 ^ (f.fb - 1)
  | .e4m3 => 0x7F
  | .finite => 0

def Fmt.signBit (f : Fmt) (neg : Bool) : Nat := if neg then 2 ^ (f.eb + f.fb) else 0
def Fmt.infBits (f : Fmt) (neg : Bool) : Nat := f.signBit neg + (2 ^ f.eb - 1) * 2 ^ f.fb

/-- Pattern of the largest finite magnitude, without sign. -/
def Fmt.maxMag (f : Fmt) : Nat :=
  match f.top with
  | .ieee => (2 ^ f.eb - 1) * 2 ^ f.fb - 1
  | .e4m3 => 0x7E
  | .finite => 2 ^ (f.eb + f.fb) - 1

def Fmt.maxBits (f : Fmt) (neg : Bool) : Nat := f.signBit neg + f.maxMag

/-- Exponent of the smallest normal. -/
def Fmt.emin (f : Fmt) : Int := 1 - f.bias

/-! ### Exact values and rounding (R32 to R34) -/

/-- A nonzero exact magnitude num / den with its sign; sticky says that the true magnitude lies just above num / den, nearer than
any boundary that rounding looks at. -/
structure Exact where
  neg : Bool
  num : Nat
  den : Nat
  sticky : Bool
  deriving DecidableEq, Repr

/-- What RSH hashes besides the value (R34). -/
structure Rsh where
  lane : Nat
  round : Nat
  seed : BitVec 32
  deriving DecidableEq, Repr

def Rsh.zero : Rsh := ⟨0, 0, 0⟩

/-- Mix32 (R34). -/
def mix32 (h : BitVec 32) : BitVec 32 :=
  let h := h ^^^ (h >>> 16)
  let h := h * 0x2C1B3C6D
  let h := h ^^^ (h >>> 12)
  let h := h * 0x297A2D39
  h ^^^ (h >>> 15)

/-- The hash that RSH compares with the fraction, over the encoding v of the truncated value (R34). -/
def rshHash (r : Rsh) (v : Nat) : Nat :=
  let h := mix32 (r.seed ^^^ BitVec.ofNat 32 v)
  let h := mix32 (h ^^^ BitVec.ofNat 32 (v / 2 ^ 32))
  (mix32 (h ^^^ (BitVec.ofNat 32 r.lane <<< 16) ^^^ BitVec.ofNat 32 r.round)).toNat

/-- floor(log2(num / den)). -/
def floorLog2 (num den : Nat) : Int :=
  let k : Int := (Nat.log2 num : Int) - (Nat.log2 den : Int)
  let ge := if 0 ≤ k then decide (den * 2 ^ k.toNat ≤ num) else decide (den ≤ num * 2 ^ (-k).toNat)
  if ge then k else k - 1

/-- num / den in units of 2^q: whole part, remainder and divisor of the remainder. -/
def scaled (num den : Nat) (q : Int) : Nat × Nat × Nat :=
  let n := if q < 0 then num * 2 ^ (-q).toNat else num
  let d := if q < 0 then den else den * 2 ^ q.toNat
  (n / d, n % d, d)

/-- Whether a mode other than RSH takes the next magnitude up (R32). -/
def roundsUp (m : Rm) (neg : Bool) (n r d : Nat) (sticky : Bool) : Bool :=
  match m with
  | .rne => decide (d < 2 * r) || (decide (2 * r = d) && (sticky || n % 2 == 1))
  | .rna => decide (d ≤ 2 * r)
  | .rtz => false
  | .rup => !neg && (decide (0 < r) || sticky)
  | .rdn => neg && (decide (0 < r) || sticky)
  | .rsh => false

/-- The pattern of n × 2^q in a format, when q is the spacing there and n < 2^(fb+1) + 1. -/
def Fmt.pack (f : Fmt) (neg : Bool) (n : Nat) (q : Int) : Nat :=
  if n < 2 ^ f.fb then f.signBit neg + n
  else
    let (n, q) := if n = 2 ^ (f.fb + 1) then (2 ^ f.fb, q + 1) else (n, q)
    f.signBit neg + (q + f.fb + f.bias).toNat * 2 ^ f.fb + (n - 2 ^ f.fb)

/-- Whether n × 2^q lies beyond the largest finite magnitude. -/
def Fmt.beyond (f : Fmt) (n : Nat) (q : Int) : Bool :=
  match f.decode f.maxMag with
  | .fin _ m e => if e ≤ q then decide (m < n * 2 ^ (q - e).toNat) else decide (m * 2 ^ (e - q).toNat < n)
  | _ => false

/-- The overflow table (R33), and the saturating form of every entry (R40). -/
def Fmt.overflow (f : Fmt) (m : Rm) (sat neg : Bool) : Res :=
  if sat then ⟨f.maxBits neg, SA ||| NX⟩
  else ⟨match f.top with
    | .ieee => match m with
      | .rtz => f.maxBits neg
      | .rup => if neg then f.maxBits neg else f.infBits neg
      | .rdn => if neg then f.infBits neg else f.maxBits neg
      | _ => f.infBits neg
    | .e4m3 => 0x7F
    | .finite => f.maxBits neg, OF ||| NX⟩

/-- Round a nonzero exact value to a format, once (R33, R34). -/
def Fmt.round (f : Fmt) (m : Rm) (rs : Rsh) (sat : Bool) (x : Exact) : Res :=
  let ex := floorLog2 x.num x.den
  let q := (if ex < f.emin then f.emin else ex) - f.fb
  let (n, r, d) := scaled x.num x.den q
  let exact := r == 0 && !x.sticky
  let maxBeyond := f.beyond n q || (f.beyond (n + 1) q && !exact)
  if m = .rsh && maxBeyond then f.overflow m sat x.neg
  else
    let v := f.pack x.neg n q
    let up := if m = .rsh then !exact && decide (rshHash rs v < r * 2 ^ 32 / d) else roundsUp m x.neg n r d x.sticky
    let n' := if up then n + 1 else n
    if f.beyond n' q then f.overflow m sat x.neg
    else
      let tiny := if m = .rsh then decide (n' < 2 ^ f.fb)
        else if f.emin ≤ ex then false
        else
          let (n2, r2, d2) := scaled x.num x.den (ex - f.fb)
          let n2' := if roundsUp m x.neg n2 r2 d2 x.sticky then n2 + 1 else n2
          !(decide (n2' = 2 ^ (f.fb + 1)) && decide (ex + 1 = f.emin))
      ⟨f.pack x.neg n' q, if exact then 0 else if tiny then NX ||| UF else NX⟩

/-- Round an exact value to an integer; the flag says that it changed. RSH hashes the two's-complement encoding of the truncated
value in the destination's width (R34). -/
def roundInteger (m : Rm) (rs : Rsh) (w : Nat) (x : Exact) : Int × Bool :=
  let (n, r, d) := scaled x.num x.den 0
  let exact := r == 0 && !x.sticky
  let sgn : Int := if x.neg then -1 else 1
  let up := if m = .rsh then !exact && decide (rshHash rs (wrapInt w (sgn * n)) < r * 2 ^ 32 / d) else roundsUp m x.neg n r d x.sticky
  (sgn * (if up then n + 1 else n), !exact)

/-- ± m × 2^e as an exact value. -/
def exactOf (neg : Bool) (m : Nat) (e : Int) : Exact :=
  if e < 0 then ⟨neg, m, 2 ^ (-e).toNat, false⟩ else ⟨neg, m * 2 ^ e.toNat, 1, false⟩

/-! ### Conversions (R40, R41) -/

/-- A source value of a conversion. -/
inductive Src where
  | float (v : FVal)
  | int (z : Int)
  deriving DecidableEq, Repr

/-- The value of an element of a type from its pattern. -/
def decodeElem (t : EType) (n : Nat) : Src :=
  match etypeFmt t with
  | .ok f => .float (f.decode n)
  | .error sg => .int (readInt (etypeWidth t) sg n)

/-- Deliver a decoded float in a format without arithmetic: zeros keep their sign (R40). -/
def Fmt.deliver (f : Fmt) (m : Rm) (rs : Rsh) (sat : Bool) (v : FVal) : Res :=
  match v with
  | .nan sig => match f.top with
    | .finite => ⟨0, NV⟩
    | _ => ⟨f.canonNan, if sig then NV else 0⟩
  | .inf neg => match f.top with
    | .ieee => if sat then ⟨f.maxBits neg, SA⟩ else ⟨f.infBits neg, 0⟩
    | .e4m3 => if sat then ⟨f.maxBits neg, SA⟩ else ⟨0x7F, NV⟩
    | .finite => ⟨f.maxBits neg, if sat then NV ||| SA else OF ||| NV⟩
  | .fin neg mm e => if mm = 0 then ⟨f.signBit neg, 0⟩ else f.round m rs sat (exactOf neg mm e)

/-- Conversion of any element to any element type, plain or saturating (R40). -/
def convert (dst : EType) (sat : Bool) (m : Rm) (rs : Rsh) (v : Src) : Res :=
  match etypeFmt dst with
  | .ok f => match v with
    | .float x => f.deliver m rs sat x
    | .int z => if z = 0 then ⟨0, 0⟩ else f.round m rs sat ⟨decide (z < 0), z.natAbs, 1, false⟩
  | .error sg =>
    let w := etypeWidth dst
    match v with
    | .float (.nan _) => ⟨0, NV ||| NI⟩
    | .float (.inf neg) => ⟨wrapInt w (if neg then intMin w sg else intMax w sg), if sat then SA else NV⟩
    | .float (.fin neg mm e) =>
      if mm = 0 then ⟨0, 0⟩
      else
        let (z, ch) := roundInteger m rs w (exactOf neg mm e)
        if z < intMin w sg then ⟨wrapInt w (intMin w sg), if sat then SA else NV⟩
        else if intMax w sg < z then ⟨wrapInt w (intMax w sg), if sat then SA else NV⟩
        else ⟨wrapInt w z, if ch then NX else 0⟩
    | .int z => if sat then clampInt w sg z else ⟨wrapInt w z, 0⟩

/-! ### Sums of terms and the operations of R119 and R223 -/

/-- A term of a multi-term sum: a value, or a product of zero and infinity (R44 item 2). -/
inductive Term where
  | val (v : FVal)
  | zeroInf
  deriving DecidableEq, Repr

def FVal.negate : FVal → FVal
  | .nan s => .nan s
  | .inf n => .inf (!n)
  | .fin n m e => .fin (!n) m e

def Term.negate : Term → Term
  | .val v => .val v.negate
  | .zeroInf => .zeroInf

/-- The exact product of two values as a term. -/
def mulTerm (a b : FVal) : Term :=
  match a, b with
  | .nan s, .nan t => .val (.nan (s || t))
  | .nan s, _ => .val (.nan s)
  | _, .nan t => .val (.nan t)
  | .inf n, .inf k => .val (.inf (n != k))
  | .inf n, .fin k m _ => if m = 0 then .zeroInf else .val (.inf (n != k))
  | .fin n m _, .inf k => if m = 0 then .zeroInf else .val (.inf (n != k))
  | .fin n m e, .fin k p q => .val (.fin (n != k) (m * p) (e + q))

/-- The outcome of a sum before rounding. -/
inductive Total where
  | nan (nv : Bool)
  | inf (neg : Bool)
  | zero (neg : Bool)
  | value (x : Exact)
  deriving DecidableEq, Repr

def Term.isNan : Term → Bool
  | .val (.nan _) => true
  | _ => false
def Term.isSig : Term → Bool
  | .val (.nan s) => s
  | _ => false
def Term.isInf (neg : Bool) : Term → Bool
  | .val (.inf n) => n == neg
  | _ => false
def Term.isZero (neg : Bool) : Term → Bool
  | .val (.fin n m _) => m == 0 && n == neg
  | _ => false

/-- Least exponent of the finite terms. -/
def minExp (ts : List Term) : Int :=
  ts.foldl (fun acc t => match t with | .val (.fin _ m e) => if m = 0 then acc else min acc e | _ => acc) 0

/-- Exact sum of the finite terms in units of 2^q, when q is no greater than any exponent. -/
def sumAt (q : Int) (ts : List Term) : Int :=
  ts.foldl (fun acc t => match t with
    | .val (.fin n m e) => if m = 0 then acc else acc + (if n then -1 else 1) * (m * 2 ^ (e - q).toNat : Nat)
    | _ => acc) 0

/-- The special-result rules of R44 applied to the exact terms, in their order. -/
def total (m : Rm) (ts : List Term) : Total :=
  if ts.any Term.isNan then .nan (ts.any Term.isSig)
  else if ts.any (fun t => t == .zeroInf) then .nan true
  else if ts.any (Term.isInf true) && ts.any (Term.isInf false) then .nan true
  else if ts.any (Term.isInf true) then .inf true
  else if ts.any (Term.isInf false) then .inf false
  else
    let q := minExp ts
    let s := sumAt q ts
    if s = 0 then
      if ts.all (Term.isZero true) then .zero true
      else if ts.all (Term.isZero false) then .zero false
      else .zero (m == .rdn)
    else .value (exactOf (decide (s < 0)) s.natAbs q)

/-- Deliver a total in a format. -/
def Fmt.ofTotal (f : Fmt) (m : Rm) (rs : Rsh) : Total → Res
  | .nan nv => ⟨f.canonNan, if nv then NV else 0⟩
  | .inf neg => ⟨f.infBits neg, 0⟩
  | .zero neg => ⟨f.signBit neg, 0⟩
  | .value x => f.round m rs false x

def Fmt.sum (f : Fmt) (m : Rm) (rs : Rsh) (ts : List Term) : Res := f.ofTotal m rs (total m ts)

def Fmt.add (f : Fmt) (m : Rm) (rs : Rsh) (a b : Nat) : Res := f.sum m rs [.val (f.decode a), .val (f.decode b)]
def Fmt.sub (f : Fmt) (m : Rm) (rs : Rsh) (a b : Nat) : Res := f.sum m rs [.val (f.decode a), .val (f.decode b).negate]

/-- A single product: R44 with one term (its zero keeps the product's sign). -/
def Fmt.mul (f : Fmt) (m : Rm) (rs : Rsh) (a b : Nat) : Res := f.sum m rs [mulTerm (f.decode a) (f.decode b)]

/-- ± (a × b) ± c, one rounding (R119, R223). -/
def Fmt.fma (f : Fmt) (m : Rm) (rs : Rsh) (negProd negAdd : Bool) (a b c : Nat) : Res :=
  let p := mulTerm (f.decode a) (f.decode b)
  let c := Term.val (f.decode c)
  f.sum m rs [if negProd then p.negate else p, if negAdd then c.negate else c]

/-- Quotient (R119). -/
def Fmt.divVals (f : Fmt) (m : Rm) (rs : Rsh) (a b : FVal) : Res :=
  match a, b with
  | .nan s, .nan t => ⟨f.canonNan, if s || t then NV else 0⟩
  | .nan s, _ => ⟨f.canonNan, if s then NV else 0⟩
  | _, .nan t => ⟨f.canonNan, if t then NV else 0⟩
  | .inf _, .inf _ => ⟨f.canonNan, NV⟩
  | .inf n, .fin k _ _ => ⟨f.infBits (n != k), 0⟩
  | .fin n _ _, .inf k => ⟨f.signBit (n != k), 0⟩
  | .fin n p e, .fin k q g =>
    if q = 0 then if p = 0 then ⟨f.canonNan, NV⟩ else ⟨f.infBits (n != k), DZ⟩
    else if p = 0 then ⟨f.signBit (n != k), 0⟩
    else
      let d := e - g
      let num := if 0 ≤ d then p * 2 ^ d.toNat else p
      let den := if 0 ≤ d then q else q * 2 ^ (-d).toNat
      f.round m rs false ⟨n != k, num, den, false⟩

def Fmt.div (f : Fmt) (m : Rm) (rs : Rsh) (a b : Nat) : Res := f.divVals m rs (f.decode a) (f.decode b)

/-- Integer square root, bit by bit from bit k down. -/
def isqrtFrom (x : Nat) : Nat → Nat → Nat
  | 0, r => r
  | k + 1, r =>
    let t := r + 2 ^ k
    isqrtFrom x k (if t * t ≤ x then t else r)

def isqrt (x : Nat) : Nat := isqrtFrom x (Nat.log2 x / 2 + 1) 0

/-- Mantissa and half exponent with an even exponent: m × 2^e = m' × 2^(2h). -/
def evenExp (m : Nat) (e : Int) : Nat × Int := if e % 2 = 0 then (m, e / 2) else (m * 2, (e - 1) / 2)

/-- Square root (R119): 100 bits of root and a sticky bit decide every rounding. -/
def Fmt.sqrt (f : Fmt) (m : Rm) (rs : Rsh) (a : Nat) : Res :=
  match f.decode a with
  | .nan s => ⟨f.canonNan, if s then NV else 0⟩
  | .inf n => if n then ⟨f.canonNan, NV⟩ else ⟨f.infBits false, 0⟩
  | .fin n mm e =>
    if mm = 0 then ⟨f.signBit n, 0⟩
    else if n then ⟨f.canonNan, NV⟩
    else
      let (p, h) := evenExp mm e
      let big := p * 4 ^ 100
      let s := isqrt big
      f.round m rs false { exactOf false s (h - 100) with sticky := s * s != big }

/-! ### Order of floats (R120, R121, R261) -/

/-- Signed comparison key of a finite or infinite value against another: a < b as reals, zeros equal. -/
def FVal.lt (a b : FVal) : Bool :=
  match a, b with
  | .nan _, _ | _, .nan _ => false
  | .inf n, .inf k => n && !k
  | .inf n, .fin _ _ _ => n
  | .fin _ _ _, .inf k => !k
  | .fin n p e, .fin k q g =>
    let lo := min e g
    let x : Int := (if n then -1 else 1) * (p * 2 ^ (e - lo).toNat : Nat)
    let y : Int := (if k then -1 else 1) * (q * 2 ^ (g - lo).toNat : Nat)
    decide (x < y)

def FVal.isNan : FVal → Bool
  | .nan _ => true
  | _ => false
def FVal.isSig : FVal → Bool
  | .nan s => s
  | _ => false

/-- Equal as reals, zeros of either sign equal. -/
def FVal.eqv (a b : FVal) : Bool := !a.isNan && !b.isNan && !a.lt b && !b.lt a

def FVal.isNeg : FVal → Bool
  | .nan _ => false
  | .inf n => n
  | .fin n _ _ => n

/-- a < b with −0 below +0 (R120). -/
def FVal.ltz (a b : FVal) : Bool := a.lt b || (a.eqv b && a.isNeg && !b.isNeg)

/-- FMIN and FMAX (R120): a number copied bit for bit, canonical NaN when both are NaN, NV for a signalling NaN. -/
def Fmt.minmax (f : Fmt) (max : Bool) (a b : Nat) : Res :=
  let x := f.decode a
  let y := f.decode b
  let fl := if x.isSig || y.isSig then NV else 0
  if x.isNan then if y.isNan then ⟨f.canonNan, fl⟩ else ⟨b, fl⟩
  else if y.isNan then ⟨a, fl⟩
  else if max then ⟨if x.ltz y then b else a, fl⟩ else ⟨if y.ltz x then b else a, fl⟩

/-- The conditions of R121 and R226: result and whether NV is raised. -/
inductive Cmp where
  | eq | ne | lt | le | un | ord
  deriving DecidableEq, Repr

def Fmt.compare (f : Fmt) (c : Cmp) (a b : Nat) : Res :=
  let x := f.decode a
  let y := f.decode b
  let anyNan := x.isNan || y.isNan
  let sig := x.isSig || y.isSig
  let r := match c with
    | .eq => x.eqv y
    | .ne => !x.eqv y
    | .lt => x.lt y
    | .le => x.lt y || x.eqv y
    | .un => anyNan
    | .ord => !anyNan
  let nv := match c with
    | .lt | .le => anyNan
    | _ => sig
  ⟨r.toNat, if nv then NV else 0⟩

end Sys2Proof.Machine
end

