-- ==== Sys2Proof/Config.lean ====
section
/-!
DEFINITION. What an implementation fixes and the values the spec leaves open. Every open value is an opaque constant: nothing can
evaluate it or prove a value of it. The Nat argument of a fresh value is the model's counter of values drawn so far.
-/
namespace Sys2Proof.Config

/-- Ticks of the common clock until a request, reply or token in flight arrives; the spec gives no memory latency (log 8). -/
opaque delay : Nat → Nat

/-- Which entry a cache or TLB that is full gives up; the spec leaves TLB and L1 replacement open (R156; log 10). -/
opaque victim : Nat → Nat

/-- Which of a number of unordered candidates comes first: elements of a stream read in no fixed order (R294), lanes of different
banks (R272), walks of different dies; the order of requests to different addresses (log 8). -/
opaque choice : Nat → Nat

/-- Which 16 KiB granules of the CXL windows are memory of the host: the spec gives no place for them (R133, R326; log 36). -/
opaque hostMemory : Nat → Bool

/-- Errors of memories and couplers: what goes wrong in a fabric cycle, and where (R366, R380, R396; log 35). -/
opaque upset : Nat → Nat

/-- The clamp the power controller chooses, from the cap in force, the power measured and the die (R430; log 26). -/
opaque clamp : Nat → Nat → Nat → Nat

/-- The placement the configuration sequencers' placer gives for a canonical form, WIDTH and HEIGHT: one (CX, CY, SLOT) per block, or
none. It is deterministic and depends on nothing else (R71); the algorithm is not given (log 11). -/
opaque placement : List Byte → Nat → Nat → Option (List (Nat × Nat × Nat))

/-- Root of the vendor public key, in the boot ROM's fuses (R425), and the public seed that the scheme hashes with (log 41). -/
opaque vendorRoot : BitVec 256
opaque vendorSeed : BitVec 256

/-- The granules that the header of a signed firmware image names for the firmware window, first and last: the spec gives the header no layout (R423;
log 41). -/
opaque firmwareWindow : List Byte → Nat × Nat

/-- The signature of the device identity key over the answer to an attestation request (R426): the key is never readable. -/
opaque deviceSignature : List Byte → List Byte

/-- The mode an ERET leaves when sr.mode.PREV holds 10, a value that does not occur as a mode (R83). -/
opaque reservedMode : Nat → Fin 3

/-- A byte of a spill ring after QUNBIND, which the spec leaves undefined (R185). -/
opaque openByte : Nat → Byte

/-- Fields of a chain slot's state word, and SSTAT selectors, that the spec gives no value for a chain (R301, R388; log 19). -/
opaque chainField : Nat → Nat

/-- State, kind, counts, flags and GEN of a pool, and the GEN of a copy, that CTXRST makes from a save area that has no place for them (R379; log 22). -/
opaque savedField : Nat → Nat

end Sys2Proof.Config
end

