-- ==== Sys2Proof/Machine/State.lean ====
section
/-!
DEFINITION. The machine's state as plain data: every piece of state the spec names (INVENTORY.md, '## State', gives each with its
rule and reset value), the fields of the model itself last, and the reasons a step can stop.
-/
namespace Sys2Proof.Machine

/-- A sparse table: keys strictly rising. A key that is not listed has the default its reader names. -/
abbrev Tbl (β : Type) := List (Nat × β)

/-- Memory: (address, byte) pairs with addresses strictly rising and no byte equal to what an unlisted address reads as. -/
abbrev Memory := List Host.Cell

/-- What an address that nothing has written reads as (DESIGN CHOICE, log 3). -/
def Memory.unlisted : Byte := 0

/-- Strictly rising keys. -/
def sortedKeys {β : Type} : List (Nat × β) → Bool
  | [] => true
  | [_] => true
  | a :: b :: r => decide (a.1 < b.1) && sortedKeys (b :: r)

/-- The canonical form of a memory. -/
def Memory.wf (m : Memory) : Bool := sortedKeys m && m.all (fun c => c.2 != Memory.unlisted)

/-! ### Access threads -/

/-- Thread states (R78). -/
inductive TState where
  | off | active | halted | frozen
  deriving DecidableEq, Repr

/-- Kinds of access (R144). -/
inductive AccKind where
  | fetch | load | store | atomic
  deriving DecidableEq, Repr

/-- A physical granule of an area that an instruction or a swap has translated: its address, and level and page number of the translation (R156). -/
structure AreaPage where
  pa : Nat
  tlb : Nat × Nat
  deriving DecidableEq, Repr

/-- An asynchronous cause that waits to be taken, with its trap value (R87, R365). -/
structure Pending where
  code : Nat
  tval : Word
  deriving DecidableEq, Repr

/-- A clock slot sr.dclk[i] (R330). -/
structure ClockSlot where
  v : Bool
  dom : Nat
  clk : Nat
  floor : Nat
  deriving DecidableEq, Repr

/-- What a run-ahead entry will write (R91): an x register extended as sz says, an a register, or one lane of a v register. -/
inductive Dst where
  | none
  | x (r : Fin 32) (z : Sz)
  | a (r : Fin 16)
  | lane (r : Fin 16) (i : Fin 8)
  deriving DecidableEq, Repr

/-- A TLB entry (R139): partition, root, page number, level of the leaf (3, 4 or 5) and the leaf's bits. -/
structure TlbEntry where
  part : Fin 8
  fw : Bool
  vpn : Nat
  level : Nat
  pa : Nat
  mt : Nat
  s : Bool
  x : Bool
  w : Bool
  r : Bool
  d : Bool
  leafAt : Nat
  deriving DecidableEq, Repr

/-- A wait that the instruction at the thread's PC is in (R88): which one, the access-core cycles it has lasted, whether its
loss-of-decoupling event has been counted, the request or region it waits on, and a value that came back for it; pages holds the
pages of an area found so far, newest first, load is a CFGLD's, claim a WPULL's for its counter's answer, with the index it asks for, the waybill and record of that and the
record's translation; until awaits an answer that comes at a tick, and drain stands for an instruction that is over but for its own writes. -/
inductive WaitKind where
  | qEmpty (q : Fin 32) | bqEmpty | qFull (q : Fin 32) | unbind (q : Fin 32)
  | wfe (limit : Nat) | likely | register | memory | slot | sync (id : Nat) | region | walk | round (phase : Nat)
  | pages (found : List AreaPage) | load
  | claim (i : Nat) (way rec : Addr) (pa : Nat) (e : TlbEntry) | until (tick : Nat) | drain
  deriving DecidableEq, Repr

structure Wait where
  kind : WaitKind
  cycles : Nat
  lod : Bool
  deriving DecidableEq, Repr

/-- The remote half of a chained queue (R183 to R186); pages are the physical pages of its ring, as RQBIND found them. -/
structure RemoteQ where
  send : Bool
  ring : Addr
  entries : Nat
  peer : BitVec 16
  link : Fin 16
  key : BitVec 32
  paired : Bool
  dead : Bool
  stopped : Bool
  sent : Nat
  acked : Nat
  ringLen : Nat
  ringHead : Nat
  pages : List Nat
  deriving DecidableEq, Repr

/-- A bound queue port (R160): binding, tokens oldest first, assembly register, counters. A token carries the store id that must
be performed before it may be delivered (R170) and whether an open likely path staged it (R171). -/
structure Queue where
  region : BitVec 16
  port : Nat
  ctx : Fin 4
  out : Bool
  etype : EType
  cap : Nat
  lt : Bool
  closed : Bool
  toks : List (Token × Nat × Bool)
  asmLanes : Vector Word 16
  asmValid : BitVec 16
  fill : Nat
  count : BitVec 15
  ew : BitVec 32
  fw : BitVec 32
  lod : BitVec 32
  remote : Option RemoteQ
  deriving DecidableEq, Repr

/-- The branch queue (R174). -/
structure Bq where
  region : BitVec 16
  port : Nat
  ctx : Fin 4
  lt : Bool
  closed : Bool
  entries : List Word
  ew : BitVec 32
  fw : BitVec 32
  lod : BitVec 32
  deriving DecidableEq, Repr

/-- The checkpoint of an open likely path (R96, R171), the BQB's address and destination, whether the path has written that destination,
how many instructions it has issued, and whether a token it staged has entered an empty queue (R104). -/
structure Path where
  x : Vector Word 32
  a : Vector Addr 16
  v : Vector (Vector Word 8) 16
  m : Vector (BitVec 8) 8
  qs : Tbl Queue
  pc : Addr
  rd : Fin 32
  wrote : Bool
  ahead : List (Nat × Dst)
  flags : FlagSet
  issued : Nat
  ev : Bool
  deriving DecidableEq, Repr

/-- States of stream, pool, copy and chain slots (R288, R306). -/
inductive SlotState where
  | free | run | fault | paused | done | aborted | cancelled
  deriving DecidableEq, Repr

/-- A shape record (R75). -/
structure Shape where
  base : Addr
  etype : EType
  flags : BitVec 8
  dims : List (Nat × Int)
  deriving DecidableEq, Repr

/-- A write kept by a held store stream: physical line, bytes, byte mask, whether it has spilled (R295), the address and memory type it was
made through, and the level and page number of each translation used (R156). -/
structure HeldWrite where
  line : Nat
  data : List (Nat × Byte)
  spilled : Option Nat
  va : Addr
  mt : Nat
  tlbs : List (Nat × Nat)
  deriving DecidableEq, Repr

/-- A stream slot (R288 to R302). idx is the index vector of the next element, or a store stream's position; sent the elements of a load stream
that have been delivered; lanes a partial token; out
tokens ready for delivery; ahead values read ahead of idx, by their place in the visit order; fault one that waits until every token before it is
delivered; reading the parts read so far of the next element, while that one is being read (R140); since when a bounded read of a part has waited; taken a store stream's token and its next lane; stopping a pause that waits for deliveries;
markIdx and markCount stand as the last marker left them (R373). The descriptor and shape bytes stay whole for CTXSAVE. -/
structure Stream where
  state : SlotState
  desc : List Byte
  shapeBytes : List Byte
  shape : Shape
  scales : Addr
  region : BitVec 16
  port : Nat
  ctx : Fin 4
  store : Bool
  held : Bool
  beat : Bool
  bound : Option Nat
  rim : Nat
  stops : List Nat
  gen : BitVec 8
  mode : Mode
  fkind : Nat
  faddr : Addr
  count : Nat
  idx : List Nat
  sent : Nat
  finished : Bool
  lanes : List Word
  out : List Token
  ahead : List (Nat × Nat)
  fault : Option (Nat × Addr)
  reading : Option (List Nat)
  since : Option Nat
  taken : Option (Token × Nat)
  pauseAsked : Bool
  stopping : Bool
  resumed : Bool
  closed : Bool
  heldWrites : List HeldWrite
  after : Nat
  markIdx : List Nat
  markCount : Nat
  dclk : List ClockSlot
  deriving DecidableEq, Repr

/-- A chain in a stream slot (R387 to R391): inbox the receive buffer of its upstream hop, transit tokens crossing its downstream coupler hop
with the cycles left, outbox what it will deliver into ports. -/
structure Chain where
  state : SlotState
  desc : List Byte
  fkind : Nat
  route : Bool
  op : Nat
  etype : EType
  ctx : Fin 4
  region : BitVec 16
  sport : Nat
  rport : Nat
  pos : Nat
  npart : Nat
  up : Nat
  down : Nat
  lane : Nat
  keylane : Fin 16
  dpeer : BitVec 16
  upeer : BitVec 16
  key : BitVec 32
  map : List Nat
  gen : BitVec 8
  count : Nat
  inbox : List Token
  outbox : List (Nat × Token)
  transit : List (Token × Nat)
  stopped : Bool
  sentStop : Bool
  drainAsked : Bool
  ended : Bool
  closed : Bool
  flags : FlagSet
  deriving DecidableEq, Repr

/-- What a stream slot holds. -/
inductive SSlot where
  | stream (s : Stream)
  | chain (c : Chain)
  deriving DecidableEq, Repr

/-- What a pool has read of its present bag (R308): the bag's first and last position, the next one, the row number and the bytes of its row so
far with the dray, the terms made, and the indices out of range. -/
structure Bag where
  first : Nat
  last : Nat
  pos : Nat
  row : Option Nat
  bytes : List Byte
  dray : Nat
  terms : List (Nat × List Nat × FlagSet)
  oor : Nat
  deriving DecidableEq, Repr

/-- A pool slot (R306 to R312). bagNow is the bag being read; writing the counts that stand once the lines of the bag's result are performed;
rgn the region its token goes to, by the number of its making. -/
structure Pool where
  state : SlotState
  desc : List Byte
  bag : Nat
  oor : Nat
  flags : FlagSet
  fkind : Nat
  gen : BitVec 8
  mode : Mode
  tokenDue : Bool
  after : Nat
  since : Option Nat
  dclk : List ClockSlot
  bagNow : Option Bag
  writing : Option (Nat × FlagSet)
  rgn : Nat
  deriving DecidableEq, Repr

/-- A copy slot (R313 to R316). moving holds while a line is being written, cancelling a cancellation that waits for that line's end. -/
structure Copy where
  state : SlotState
  desc : List Byte
  deadline : Option Nat
  lines : Nat
  fkind : Nat
  gen : BitVec 8
  mode : Mode
  tokenDue : Bool
  after : Nat
  moving : Bool
  cancelling : Bool
  rgn : Nat
  deriving DecidableEq, Repr

/-- A claim: header address and index (R357), and whether they were reached through the firmware root. -/
structure Claim where
  header : Addr
  index : Nat
  fw : Bool
  deriving DecidableEq, Repr

/-- An access thread (R78 to R83, R104, R158, R288, R306, R357). left names channels, by the number of the region's making, channel and context,
which a queue since released fed and in which tokens are still on their way. seen is the highest write time that the thread's performed reads
may stand for: a leased copy that ends below it is older than they are (R345). -/
structure Thread where
  st : TState
  x : Vector Word 32
  a : Vector Addr 16
  v : Vector (Vector Word 8) 16
  m : Vector (BitVec 8) 8
  pc : Addr
  cur : Mode
  prev : BitVec 2
  hold : Bool
  phold : Bool
  epc : Word
  tval : Word
  asy : Bool
  code : BitVec 8
  en : FlagSet
  flags : FlagSet
  frm : BitVec 3
  gen : BitVec 8
  rwait : BitVec 32
  qwatch : BitVec 32
  cap : BitVec 2
  prio : BitVec 2
  dclk : Vector ClockSlot 8
  ev : Bool
  passed : Nat
  pend : List Pending
  path : Option Path
  wait : Option Wait
  ahead : List (Nat × Dst)
  left : List (Nat × Nat × Nat)
  relBar : Nat
  acqBar : Nat
  seen : Nat
  qs : Tbl Queue
  bq : Option Bq
  ss : Tbl SSlot
  pools : Tbl Pool
  copies : Tbl Copy
  claims : List Claim
  reply : Option Nat
  walked : List (Nat × Nat)
  deriving DecidableEq, Repr

/-! ### Cores, translation and memory system -/

/-- What keeps an L1 copy current (R319): a logical lease end, a global lease end, a directory entry, or a round tag. -/
inductive CopyKind where
  | lease (rts : Nat) | glease (e : Nat) | dir | tag (t : Nat)
  deriving DecidableEq, Repr

/-- A line of an L1 cache: line number pa[56:7], its bytes (byte 0 lowest), what keeps it, the eviction hint, the write time its home
held when the copy was made, and the DLT of the core's die when its bytes came (R345). -/
structure L1Line where
  line : Nat
  data : List Byte
  kind : CopyKind
  evictFirst : Bool
  ver : Nat
  dlt : Nat
  deriving DecidableEq, Repr

/-- An access core: logical time, the thread selected last, the thread that has just yielded, tokens its node has delivered
and accepted in the present fabric cycle, and caches: instructions, data, translations (R11, R89, R105, R139, R161, R320). -/
structure Core where
  lt : Nat
  last : Nat
  yielded : Option Nat
  gave : Nat
  took : Nat
  l1i : List L1Line
  l1 : List L1Line
  tlb : List TlbEntry
  deriving DecidableEq, Repr

/-- Who made a memory request: a thread, its prefetch, an engine of one of its slots, the walker that sets a D bit for a thread or for a
rim tile, an instruction that writes an area or a record, a RECV end's ring, the hold area and the fault ring of a partition, or an
agent outside the module. A held write that had spilled names its place in the hold area. -/
inductive Requester where
  | thread (t : Nat)
  | pref (t : Nat)
  | stream (t slot : Nat)
  | held (t slot : Nat) (place : Option Nat)
  | pool (t slot : Nat)
  | copy (t slot : Nat)
  | walker (t : Nat) (rim : Option Nat)
  | area (t : Nat)
  | ring (t q : Nat)
  | spill (p : Fin 8)
  | records (p : Fin 8)
  | other
  deriving DecidableEq, Repr

/-- What a request does at its home: write is an engine's, bytes by their offsets in the line; dirty sets the D bit of a leaf (R132); claim takes
the next index below a TAIL where it is the one asked for, and close ends a completion record (R359, R360). -/
inductive ReqKind where
  | load (fill : Bool) (evictFirst : Bool)
  | store (v : Nat)
  | amo (f : Afn) (v : Nat)
  | cas (expect v : Nat)
  | domain (p : Fin 8) (dom minr w : Nat) (issued : Nat) (fill evictFirst : Bool)
  | write (bs : List (Nat × Byte))
  | dirty (e : TlbEntry)
  | claim (tail want : Nat)
  | close (i code state : Nat)
  deriving DecidableEq, Repr

/-- Where a request stands: on its way to the home; waiting there for answers of the marked dies and the host; waiting out a global
lease; waiting for the acknowledgement of the host whose memory it writes; performed, its reply (value, poisoned, what keeps the copy, write time, line) on the way; returned, waiting for the other lanes of
its VLD; or performed, its acknowledgement on the way. -/
inductive Stage where
  | sent
  | inval (dies : List Nat) (host : Bool)
  | lease (untilNs : Nat)
  | host
  | replied (v : List Byte) (poison : Bool) (kind : CopyKind) (wts : Nat) (line : List Byte)
  | arrived (v : List Byte) (poison : Bool)
  | acked (wts : Nat)
  deriving DecidableEq, Repr

/-- A memory request in flight. rel and acq are its ordering effects, and bars an acquire before which no later access of the thread is
performed (R150, R154); bar is the id below which every request of the thread must be performed first (R343); tlb is the level and page number of the translation it used (R156); done is its place among the accesses
performed so far, 0 while it is not performed, and prev the write time its line had before it. -/
structure Req where
  id : Nat
  by' : Requester
  kind : ReqKind
  va : Addr
  pa : Nat
  size : Nat
  mt : Nat
  part : Fin 8
  dst : Dst
  acq : Bool
  rel : Bool
  bars : Bool
  bar : Nat
  tlb : Nat × Nat
  stage : Stage
  stalled : Bool
  due : Nat
  done : Nat
  prev : Nat
  deriving DecidableEq, Repr

/-- Timestamps of a line at its home (R320, R327). -/
structure LineHome where
  wts : Nat
  rts : Nat
  gmax : Nat
  deriving DecidableEq, Repr

/-- A directory entry: way, line number, marked dies, host bit (R323). -/
structure DirEntry where
  way : Nat
  line : Nat
  dies : List Nat
  host : Bool
  deriving DecidableEq, Repr

/-- An L2 line: set, line number, modified; the list of a slice is most recently used first (R286). -/
structure L2Line where
  line : Nat
  modified : Bool
  deriving DecidableEq, Repr

/-- A miss in a die's miss queue (R140): who missed, its partition and root, the address and kind of access, the thread for whose instruction
the page was missed and whose stores the walk sees (R141), the rim tile of an engine, and when the walk that serves it ends, once that walk has
started. -/
structure Miss where
  who : Requester
  part : Fin 8
  fw : Bool
  va : Addr
  kind : AccKind
  owner : Option Nat
  rim : Option Nat
  due : Option Nat
  deriving DecidableEq, Repr

/-- A die: global time, highest write time, TLBs, miss queue, directory, pool of engines (R11, R139, R140, R321, R323, R361). -/
structure Die where
  gtime : Nat
  slew : Int
  dlt : Nat
  tlb : List TlbEntry
  tlbBig : List TlbEntry
  misses : List Miss
  dir : List DirEntry
  copyTurn : Nat
  copyUsed : Vector Nat 8
  clamp : Nat
  lost : Bool
  absent : Bool
  deriving DecidableEq, Repr

/-! ### Images and regions -/

/-- A loaded block (R59, R68): the header's fields, its instructions, the constants CFGLD loaded (the fixed endpoints), the constants
of each context, its place, and its frame size (R197). -/
structure Block where
  prio : Nat
  kind : Nat
  code : List Instr
  loaded : List Word
  consts : Tbl (List Word)
  cx : Nat
  cy : Nat
  slot : Nat
  ctxm : List Nat
  tmode : Rm
  mbits : Nat
  seed : BitVec 32
  frame : Nat
  entryAt : Nat
  words : List Nat
  deriving DecidableEq, Repr

/-- An endpoint (R69). -/
inductive Endpoint where
  | block (b c : Nat)
  | port (p : Nat)
  deriving DecidableEq, Repr

/-- A channel of an image (R69). -/
structure Chan where
  from' : Endpoint
  to' : Endpoint
  prio : Nat
  etype : EType
  slots : Nat
  deriving DecidableEq, Repr

/-- A port of an image (R69). -/
structure Port where
  out : Bool
  etype : EType
  deriving DecidableEq, Repr

/-- A loaded image (R67). -/
structure Image where
  pkey : Word
  blocks : List Block
  chans : List Chan
  ports : List Port
  deriving DecidableEq, Repr

/-- One context's side of a channel: tokens in its buffer, slots reserved by rounds or held until commit, tokens crossing links with
the cycles left (R196, R201, R403). -/
structure ChanState where
  buf : List Token
  reserved : Nat
  transit : List (Token × Nat)
  deriving DecidableEq, Repr

/-- Kinds of rounds (R201, R203, R249, R250). -/
inductive RoundKind where
  | ordinary | marker | kstep | stop
  deriving DecidableEq, Repr

/-- A change to an accumulator bank that a round makes at its commit (R253). -/
inductive BankOp where
  | zero (b : Fin 4)
  | write (b : Fin 4) (ty : Nat) (t : Token)
  | check (b : Fin 4)
  | restore (b : Fin 4)
  | kstep (b : Fin 4) (rows cols : List Token)
  deriving DecidableEq, Repr

/-- A memory-tile request (R266 to R269): the instruction, its constant, operand tokens and valid lanes; or a stop passed on; or a
SYNC request of a thread (R282, R283). -/
inductive MtWork where
  | lanes (op : Nat) (c : Word) (w : Nat) (l t : Token) (valid : BitVec 16)
  | stop (op : Nat) (c : Word) (level : Fin 8)
  | arrive (t : Nat) (rel : Bool) (q : Nat)
  | bwait (t : Nat) (p : Nat)
  | window (t : Nat) (off len : Nat)
  | barrier (t : Nat) (off expect : Nat)
  | claim (t : Nat) (off tail want : Nat)
  deriving DecidableEq, Repr

/-- A request in a tile's sequence: where it came from, the offset a SYNC names, lanes still to do, the response so far, cycles held, links
still to cross, and whether the tile has refused it with a fault. -/
structure MtReq where
  work : MtWork
  off : Nat
  ctx : Fin 4
  gen : BitVec 8
  round : BitVec 15
  ce : Nat
  instr : Nat
  chan : Nat
  todo : List (Fin 16)
  resp : Token
  age : Nat
  hops : Nat
  bad : Bool
  deriving DecidableEq, Repr

/-- A round in flight on a CE (R201): its operand values by (instruction, slot), which instructions have started or fired, results on
their way (cycles left), flags, pushes, tile requests, branch-queue entries and bank effects it will make at commit, the channels it
popped, its age in cycles, the constants it started with (log 18), and whether it has faulted, so that it never commits. A POP's claimed token stands at its
own slot L; a K-step round's beats stand at slots L and T of its MMA. -/
structure Round where
  block : Nat
  ctx : Fin 4
  num : Nat
  kind : RoundKind
  frame : Bool
  vals : List (Nat × Slot × Token)
  fired : List Nat
  inFlight : List (Nat × Nat × Slot × Token)
  flags : FlagSet
  pushes : List (Nat × Token)
  bqws : List (Nat × Option Word)
  reqs : List (MtReq × Nat)
  bank : List BankOp
  loads : List (Nat × List Byte)
  pops : List Nat
  age : Nat
  consts : List Word
  bad : Bool
  deriving DecidableEq, Repr

/-- An accumulator bank (R252). -/
structure Bank where
  live : Vector Word 16
  check : Vector Word 16
  count : BitVec 32
  checkCount : BitVec 32
  owner : Option (Fin 4)
  deriving DecidableEq, Repr

/-- A compute element (R196 to R204, R221, R244, R248, R252). -/
structure Ce where
  rounds : List Round
  last : Nat
  passed : Tbl Nat
  rc : Tbl Nat
  started : List Nat
  banks : Vector Bank 4
  aReg : List Token
  bReg : List Token
  bn : Vector (List Byte) 8
  flags : Vector FlagSet 4
  busy : Nat
  deriving DecidableEq, Repr

/-- A memory tile (R264 to R284). The scratch is a sparse byte memory, unlisted bytes zero. -/
structure Mt where
  scratch : Memory
  win : Option (Nat × Nat)
  barriers : List Nat
  arriving : List MtReq
  queue : List MtReq
  waiting : List MtReq
  respond : List MtReq
  flags : Vector FlagSet 4
  deriving DecidableEq, Repr

/-- An armed trigger (R211). -/
structure Trigger where
  t : Nat
  port : Nat
  markers : Bool
  slot : Nat
  left : Nat
  fired : Bool
  deriving DecidableEq, Repr

/-- A swap in progress (R208, R209, R211): the thread that asked, whether by a trigger, the slot, the save area of a forced one with the
pages found so far, newest first, and the trigger that stood armed when it began. -/
structure Swap where
  t : Nat
  trig : Bool
  slot : Nat
  forced : Option Addr
  pages : List AreaPage
  armed : Option Trigger
  deriving DecidableEq, Repr

/-- An argument write that waits (R212), and whether a marker round that has started already applied it (log 18). -/
structure ArgWrite where
  slot : Nat
  ctx : Nat
  kidx : Nat
  block : Nat
  v : Word
  done : Bool
  deriving DecidableEq, Repr

/-- A record at a region's root (R368, R370, R374): the cycles until it leaves, whether it has left, whether the sequencers have discarded its context, and
whether it belongs to a freeze that is over. That of a barrier overrun freezes nothing. -/
structure RegionFault where
  record : FaultRecord
  left : Nat
  gone : Bool
  discarded : Bool
  old : Bool
  deriving DecidableEq, Repr

/-- A region (R187 to R213). uid is the number of its making; closedPorts are the (port, context) pairs whose ingress or egress point is closed;
entered those through which a restored token has entered in the present cycle (R161);
midway those whose last token was no marker (R209); waiters the DRAIN WAITs, each with the contexts it has not yet seen quiet; freezing holds
from the detection of a fault to the next cycle; busyWith is the thread whose FABRIC instruction waits, and line the threads whose
instructions have arrived behind it, first come first (R191). -/
structure Region where
  part : Fin 8
  num : Nat
  uid : Nat
  die : Fin 4
  bx : Nat
  by' : Nat
  w : Nat
  h : Nat
  slots : Vector (Option Image) 4
  active : Option (Fin 4)
  cur : Fin 4
  named : Option (Fin 4)
  chans : Tbl ChanState
  ces : Tbl Ce
  mts : Tbl Mt
  closedPorts : List (Nat × Nat)
  entered : List (Nat × Nat)
  midway : List (Nat × Nat)
  ingress : List (Nat × Token)
  args : List ArgWrite
  trigger : Option Trigger
  swap : Option Swap
  waiters : List (Nat × List Nat)
  freezing : Bool
  frozen : Bool
  faults : List RegionFault
  brake : Bool
  brakeBy : List (Nat × Nat)
  cnt : Vector (BitVec 32) 6
  busyWith : Option Nat
  line : List Nat
  deriving DecidableEq, Repr

/-! ### Partitions, rounds and the module -/

/-- An entry of a placement cache, newest first (R71). -/
structure Placed where
  key : Word
  check : Word
  len : Nat
  place : List (Nat × Nat × Nat)
  deriving DecidableEq, Repr

/-- A declared round domain: its range, home round, and each die's view (R329, R338). -/
structure Domain where
  base : Nat
  len : Nat
  hr : Nat
  view : Vector Nat 4
  deriving DecidableEq, Repr

/-- Partition states (R350). -/
inductive PState where
  | stopped | running | stopping
  deriving DecidableEq, Repr

/-- A partition: its control page by 128-bit word (offset / 16), the internal counters that the page shows, its tables, and the fault records that
wait for its ring, the first of them perhaps on its way there. -/
structure Part where
  state : PState
  page : Tbl (BitVec 128)
  cache : List Placed
  domains : Tbl Domain
  records : List (BitVec 16 × FaultRecord)
  recordOut : Bool
  joinedFrom : List (BitVec 16)
  joinedHere : Bool
  holdUsed : List (Nat × Nat × Nat × Nat)
  deriving DecidableEq, Repr

/-- A link port (R383 to R385, R428): rate in GB/s and the rate that boot training recorded; the SEQ of the next flit, of the next one expected,
of the latest received intact and of the latest acknowledged; flits not acknowledged, each with the times it has been resent; beats to send,
and beats that wait for a crossing to open (R363); since when no ACK has advanced and no flit has been received, in ticks of the model's
clock. -/
structure Link where
  speed : BitVec 2
  rate : Nat
  bootRate : Nat
  state : BitVec 2
  peer : BitVec 16
  fails : BitVec 16
  trains : BitVec 16
  seq : BitVec 16
  expect : BitVec 16
  ackOut : BitVec 16
  ackIn : BitVec 16
  unacked : List (Flit × Nat)
  outbox : List Beat
  inbox : List Beat
  sent : Nat
  received : Nat
  resent : Nat
  crc : Nat
  adds : Nat
  ackAt : Nat
  heardAt : Nat
  absent : Bool
  deriving DecidableEq, Repr

/-- Beats of a coupler side (R382, R396). -/
structure Coupler where
  sent : Nat
  received : Nat
  retried : Nat
  crc : Nat
  adds : Nat
  deriving DecidableEq, Repr

/-- The boot registers and record (R423); paths holds, for a step and unit off the normal path, 1 for the alternative and 2 for a unit left out. -/
structure Boot where
  starts : BitVec 32
  next : BitVec 8
  minidx : BitVec 20
  fwinLimit : Nat
  fwinBase : Nat
  fwinSet : Bool
  cxl0 : Nat
  cxl1 : Nat
  entries : Tbl Word
  paths : Tbl Nat
  off : Bool
  deriving DecidableEq, Repr

/-- The power registers, whether the thermal hold is on, and the hottest die if module power has been removed (R430, R431). -/
structure Power where
  cap : BitVec 12
  temp : BitVec 16
  watts : BitVec 12
  bkt : Tbl (BitVec 13 × BitVec 11)
  hot : Bool
  removed : Option (Fin 4)
  deriving DecidableEq, Repr

/-- A dray's status (R429). -/
structure Dray where
  absent : Bool
  uncorr : BitVec 24
  pooled : BitVec 32
  deriving DecidableEq, Repr

/-- An element instruction about to execute: region, CE, position of its round among the CE's rounds, instruction index. -/
structure ElemRef where
  rgn : Nat
  ce : Nat
  round : Nat
  instr : Nat
  deriving DecidableEq, Repr

/-- Which agent moves next (the model's own, log 6): the access thread that SELECT_THREAD chose, the element instruction that
VECTOR_UNIT_START chose, or no one, so that the next event of the agenda happens. -/
inductive Turn where
  | thread (t : Nat)
  | elem (e : ElemRef)
  | idle
  deriving DecidableEq, Repr

/-- The machine. -/
structure State where
  threads : Tbl Thread
  cores : Tbl Core
  dies : Vector Die 4
  parts : Vector Part 8
  regions : Tbl Region
  mem : Memory
  poison : List Nat
  flight : List Req
  homes : Tbl LineHome
  l2 : Tbl (List L2Line)
  rimTlb : Tbl (List TlbEntry)
  rimWalks : List (Requester × Nat × Nat)
  rimLast : Tbl Nat
  links : Tbl Link
  couplers : Tbl Coupler
  boot : Boot
  power : Power
  drays : Tbl Dray
  guard : BitVec 32
  master : Bool
  module : BitVec 16
  sync : Bool
  drift : BitVec 32
  fenced : List Nat
  stacksOut : List Nat
  measM : BitVec 256
  measured : List (BitVec 256)
  credit : Tbl Nat
  answer : List Byte
  mgmt : Word
  /-- The model's own fields (log 6, 7, 8). -/
  turn : Turn
  cur : Nat
  elem : ElemRef
  agenda : List Event
  later : List (Nat × Event)
  tick : Nat
  nextId : Nat
  freeCtr : Nat
  deriving DecidableEq, Repr

/-- Why the machine stops with a fault. -/
inductive Fault where
  /-- Raised by the step when module power has been removed (R431), or the module stays off for want of firmware (R422), and no module start has
  been asked for. Safe. -/
  | powerRemoved
  deriving DecidableEq, Repr

/-- Why an instruction has no meaning here. -/
inductive Refusal where
  /-- Raised by an arm of exec whose instruction has no meaning yet. Safe: the model stops. -/
  | notModelled (mnemonic : String)
  deriving DecidableEq, Repr

/-! ### Reset -/

def ClockSlot.invalid : ClockSlot := ⟨false, 0, 0, 0⟩

/-- A thread after module reset: OFF, status registers at their maps' reset values (R83), every register zero (log 1). -/
def Thread.reset : Thread where
  st := .off
  x := Vector.replicate 32 0
  a := Vector.replicate 16 0
  v := Vector.replicate 16 (Vector.replicate 8 0)
  m := Vector.replicate 8 0
  pc := 0
  cur := .supervisor
  prev := 0
  hold := false
  phold := false
  epc := 0
  tval := 0
  asy := false
  code := 0
  en := 0
  flags := 0
  frm := 0
  gen := 0
  rwait := 0x000F4240
  qwatch := 0
  cap := 3
  prio := 1
  dclk := Vector.replicate 8 ClockSlot.invalid
  ev := false
  passed := 0
  pend := []
  path := none
  wait := none
  ahead := []
  left := []
  relBar := 0
  acqBar := 0
  seen := 0
  qs := []
  bq := none
  ss := []
  pools := []
  copies := []
  claims := []
  reply := none
  walked := []

def Core.reset : Core := ⟨0, 0, none, 0, 0, [], [], []⟩
def LineHome.reset : LineHome := ⟨0, 0, 0⟩
def Die.reset : Die := ⟨0, 0, 0, [], [], [], [], 0, Vector.replicate 8 0, 1024, false, false⟩
def Part.reset : Part := ⟨.stopped, [], [], [], [], false, [], false, []⟩
def ChanState.empty : ChanState := ⟨[], 0, []⟩
def Bank.zero : Bank := ⟨Vector.replicate 16 0, Vector.replicate 16 0, 0, 0, none⟩
def Ce.new : Ce :=
  ⟨[], 0, [], [], [], Vector.replicate 4 Bank.zero, [], [], Vector.replicate 8 [], Vector.replicate 4 0, 0⟩
def Mt.new : Mt := ⟨[], none, [], [], [], [], [], Vector.replicate 4 0⟩
def Link.reset : Link := ⟨0, 224, 224, 0, 0, 0, 0, 0, 0, 0, 0, [], [], [], 0, 0, 0, 0, 0, 0, 0, false⟩
def Coupler.reset : Coupler := ⟨0, 0, 0, 0, 0⟩
def Dray.reset : Dray := ⟨false, 0, 0⟩
def Boot.reset : Boot := ⟨0, 0, 0, 0, 1, false, 0, 0, [], [], false⟩
def Power.reset : Power := ⟨3000, 0, 0, [], false, none⟩

/-- The machine right after module reset: every thread OFF, every partition stopped, memory with nothing listed, the registers at
the reset values of their maps, and those without one at the values of log 1 to 5. -/
def State.reset : State where
  threads := []
  cores := []
  dies := Vector.replicate 4 Die.reset
  parts := Vector.replicate 8 Part.reset
  regions := []
  mem := []
  poison := []
  flight := []
  homes := []
  l2 := []
  rimTlb := []
  rimWalks := []
  rimLast := []
  links := []
  couplers := []
  boot := Boot.reset
  power := Power.reset
  drays := []
  guard := 250
  master := false
  module := 0
  sync := false
  drift := 0
  fenced := []
  stacksOut := []
  measM := 0
  measured := []
  credit := []
  answer := []
  mgmt := 0
  turn := .idle
  cur := 0
  elem := ⟨0, 0, 0, 0⟩
  agenda := []
  later := []
  tick := 0
  nextId := 1
  freeCtr := 0

end Sys2Proof.Machine
end

