-- ==== Sys2Proof/Machine/Ops.lean ====
section
/-!
DEFINITION. The named operations over tables, memory, registers, threads and control pages, and the shared operations that take an
exception (R85 to R87, R99, R106) and return from one (R102).
-/
namespace Sys2Proof.Machine

/-- The outcome type of every meaning. -/
abbrev Out := Host.Outcome State Fault Refusal

/-! ### Tables -/

/-- The entry of a key. -/
def tget {β : Type} : Tbl β → Nat → Option β
  | [], _ => none
  | (a, b) :: r, k => if a = k then some b else tget r k

/-- The entry of a key, or a default. -/
def tgetD {β : Type} (t : Tbl β) (k : Nat) (d : β) : β := (tget t k).getD d

/-- Set a key, keeping keys strictly rising. -/
def tput {β : Type} : Tbl β → Nat → β → Tbl β
  | [], k, v => [(k, v)]
  | (a, b) :: r, k, v => if k < a then (k, v) :: (a, b) :: r else if k = a then (k, v) :: r else (a, b) :: tput r k v

/-- Remove a key. -/
def tdel {β : Type} : Tbl β → Nat → Tbl β
  | [], _ => []
  | (a, b) :: r, k => if a = k then r else (a, b) :: tdel r k

/-- Keys of a table. -/
def tkeys {β : Type} (t : Tbl β) : List Nat := t.map (·.1)

/-- Insertion before the first element that a test puts behind. -/
def insertSorted {β : Type} (le : β → β → Bool) (x : β) : List β → List β
  | [] => [x]
  | a :: r => if le x a then x :: a :: r else a :: insertSorted le x r

/-- Stable sorting. -/
def sortBy {β : Type} (le : β → β → Bool) (l : List β) : List β := l.foldr (insertSorted le) []

/-! ### Bit fields of words held as naturals -/

/-- Bits [hi:lo]. -/
def bf (n hi lo : Nat) : Nat := n / 2 ^ lo % 2 ^ (hi + 1 - lo)

/-- Replace bits [hi:lo]. -/
def setBf (n hi lo v : Nat) : Nat := n - bf n hi lo * 2 ^ lo + v % 2 ^ (hi + 1 - lo) * 2 ^ lo

/-- A word field. -/
def wf (w : Word) (hi lo : Nat) : Nat := bf w.toNat hi lo

/-- Sign extension of a word's low n bits, as an integer. -/
def sext (n : Nat) (v : Nat) : Int := readInt n true v

/-! ### Bytes and memory (R2) -/

/-- The byte at an address. -/
def memByte (m : Memory) (a : Nat) : Byte := tgetD m a Memory.unlisted

/-- Write one byte, keeping the canonical form. -/
def memPut (m : Memory) (a : Nat) (b : Byte) : Memory := if b = Memory.unlisted then tdel m a else tput m a b

/-- n bytes from an address, lowest first. -/
def memBytes (m : Memory) (a : Nat) : Nat → List Byte
  | 0 => []
  | n + 1 => memByte m a :: memBytes m (a + 1) n

/-- Little-endian value of a byte string (R2). -/
def leNat (bs : List Byte) : Nat := bs.foldr (fun b n => b.toNat + 256 * n) 0

/-- n bytes of a value, lowest first. -/
def leBytes (v : Nat) : Nat → List Byte
  | 0 => []
  | n + 1 => BitVec.ofNat 8 v :: leBytes (v / 256) n

/-- Write bytes from an address on. -/
def memWrite (m : Memory) (a : Nat) : List Byte → Memory
  | [] => m
  | b :: r => memWrite (memPut m a b) (a + 1) r

/-- An n-byte value. -/
def memRead (m : Memory) (a n : Nat) : Nat := leNat (memBytes m a n)

/-- Field of a byte string: n bytes at an offset. -/
def bytesAt (bs : List Byte) (off n : Nat) : Nat := leNat ((bs.drop off).take n)

/-! ### Coordinates and parts of the state -/

/-- Core of a thread, its place on the core, and the die of a core (R76, R79). -/
def coreOf (t : Nat) : Nat := t / 8
def thOf (t : Nat) : Nat := t % 8
def dieOfCore (c : Nat) : Fin 4 := ⟨c / 48 % 4, Nat.mod_lt _ (by decide)⟩
def dieOf (t : Nat) : Fin 4 := dieOfCore (coreOf t)

def State.thread (s : State) (t : Nat) : Thread := tgetD s.threads t Thread.reset
def State.setThread (s : State) (t : Nat) (th : Thread) : State := { s with threads := tput s.threads t th }
def State.onThread (s : State) (t : Nat) (f : Thread → Thread) : State := s.setThread t (f (s.thread t))

/-- The thread whose instruction executes. -/
def State.me (s : State) : Thread := s.thread s.cur
def State.onMe (s : State) (f : Thread → Thread) : State := s.onThread s.cur f

def State.core (s : State) (c : Nat) : Core := tgetD s.cores c Core.reset
def State.onCore (s : State) (c : Nat) (f : Core → Core) : State := { s with cores := tput s.cores c (f (s.core c)) }
def State.die (s : State) (d : Fin 4) : Die := s.dies.get d
def State.onDie (s : State) (d : Fin 4) (f : Die → Die) : State := { s with dies := s.dies.set d.val (f (s.die d)) d.isLt }
def State.part (s : State) (p : Fin 8) : Part := s.parts.get p
def State.onPart (s : State) (p : Fin 8) (f : Part → Part) : State := { s with parts := s.parts.set p.val (f (s.part p)) p.isLt }
def State.region (s : State) (k : Nat) : Option Region := tget s.regions k
def State.setRegion (s : State) (k : Nat) (r : Region) : State := { s with regions := tput s.regions k r }
def State.onRegion (s : State) (k : Nat) (f : Region → Region) : State :=
  match s.region k with
  | some r => s.setRegion k (f r)
  | none => s
def State.link (s : State) (n : Nat) : Link := tgetD s.links n Link.reset
def State.onLink (s : State) (n : Nat) (f : Link → Link) : State := { s with links := tput s.links n (f (s.link n)) }
def State.onCoupler (s : State) (k : Nat) (f : Coupler → Coupler) : State :=
  { s with couplers := tput s.couplers k (f (tgetD s.couplers k Coupler.reset)) }
def State.dray (s : State) (n : Nat) : Dray := tgetD s.drays n Dray.reset
def State.onDray (s : State) (n : Nat) (f : Dray → Dray) : State := { s with drays := tput s.drays n (f (s.dray n)) }

def fin8s : List (Fin 8) := [0, 1, 2, 3, 4, 5, 6, 7]
def fin4s : List (Fin 4) := [0, 1, 2, 3]

/-- Draw a fresh free value: the counter to apply an opaque constant of Config to. -/
def State.fresh (s : State) : Nat × State := (s.freeCtr, { s with freeCtr := s.freeCtr + 1 })

/-! ### Control pages (R80, R350) -/

/-- Reset values of the 128-bit registers of a control page, by offset. -/
def pageReset (off : Nat) : BitVec 128 := if off = 0x1A0 then BitVec.ofNat 128 (512 * 2 ^ 64 + 16) else 0

/-- A control-page register. -/
def Part.reg (p : Part) (off : Nat) : Nat := (tgetD p.page (off / 16) (pageReset off)).toNat
def Part.setReg (p : Part) (off v : Nat) : Part := { p with page := tput p.page (off / 16) (BitVec.ofNat 128 v) }

/-- Field of a control-page register. -/
def Part.fld (p : Part) (off hi lo : Nat) : Nat := bf (p.reg off) hi lo
def Part.setFld (p : Part) (off hi lo v : Nat) : Part := p.setReg off (setBf (p.reg off) hi lo v)

/-- Advance a counter field, which wraps. -/
def Part.bump (p : Part) (off hi lo n : Nat) : Part := p.setFld off hi lo (p.fld off hi lo + n)

def State.bump (s : State) (p : Fin 8) (off hi lo n : Nat) : State := s.onPart p (fun q => q.bump off hi lo n)

/-- Whether a partition's composition names an access core (PCTL_AC0, PCTL_AC1). -/
def Part.hasCore (p : Part) (c : Nat) : Bool :=
  let d := c / 48
  let word := p.reg (0x1E0 + 0x10 * (d / 2))
  word / 2 ^ (64 * (d % 2) + c % 48) % 2 == 1

/-- Whether MAP of PCTL_BGd names a bogie, 12 × by + bx. -/
def Part.hasBogie (p : Part) (d bog : Nat) : Bool :=
  (p.reg (0x200 + 0x20 * d) + p.reg (0x210 + 0x20 * d) * 2 ^ 128) / 2 ^ bog % 2 == 1

/-- The partition that holds a core: the running (or stopping) one that names it, else partition 0 (no thread of the core runs then). -/
def State.partOfCore (s : State) (c : Nat) : Fin 8 :=
  match fin8s.find? (fun p => (s.part p).state != .stopped && (s.part p).hasCore c) with
  | some p => p
  | none => 0

def State.partOf (s : State) (t : Nat) : Fin 8 := s.partOfCore (coreOf t)

/-- Cores of a partition in ascending number: die, then side, then index (R77). -/
def Part.cores (p : Part) : List Nat := (List.range 192).filter p.hasCore
def Part.threads (p : Part) : List Nat := p.cores.flatMap (fun c => (List.range 8).map (fun i => c * 8 + i))

/-- Partition-local index of a thread (R77). -/
def Part.lidx (p : Part) (t : Nat) : Nat := ((p.cores.filter (fun c => decide (c < t / 8))).length) * 8 + t % 8

/-- Global time that a die, and a thread on it, reads (R361). -/
def State.gtime (s : State) (d : Fin 4) : Nat := (s.die d).gtime
def State.gtimeOf (s : State) (t : Nat) : Nat := s.gtime (dieOf t)

/-! ### Registers (R81) -/

def Thread.getX (th : Thread) (r : Fin 32) : Word := if r = 0 then 0 else th.x.get r
def Thread.setX (th : Thread) (r : Fin 32) (v : Word) : Thread := if r = 0 then th else { th with x := th.x.set r.val v r.isLt }
def Thread.getA (th : Thread) (r : Fin 16) : Addr := th.a.get r
def Thread.setA (th : Thread) (r : Fin 16) (v : Addr) : Thread := { th with a := th.a.set r.val v r.isLt }
def Thread.getV (th : Thread) (r : Fin 16) : Vector Word 8 := th.v.get r
def Thread.setV (th : Thread) (r : Fin 16) (v : Vector Word 8) : Thread := { th with v := th.v.set r.val v r.isLt }
def Thread.getM (th : Thread) (r : Fin 8) : BitVec 8 := th.m.get r
def Thread.setM (th : Thread) (r : Fin 8) (v : BitVec 8) : Thread := { th with m := th.m.set r.val v r.isLt }

/-- An a register named by a 5-bit field (LDA and STA, R51). -/
def lowReg (r : Fin 32) : Fin 16 := ⟨r.val % 16, Nat.mod_lt _ (by decide)⟩

/-- The instruction leaves issue: its wait is over and the program counter moves on. -/
def Thread.goTo (th : Thread) (pc : Addr) : Thread := { th with pc := pc, wait := none, reply := none, walked := [] }
def Thread.advance (th : Thread) : Thread := th.goTo (th.pc + 4)

/-- The instruction stays in issue: it waits, its own cycles counted on if it waited already for the same thing. -/
def Thread.waitFor (th : Thread) (k : WaitKind) : Thread :=
  match th.wait with
  | some w => if w.kind = k then th else { th with wait := some ⟨k, 0, false⟩ }
  | none => { th with wait := some ⟨k, 0, false⟩ }

def State.waitFor (s : State) (k : WaitKind) : State := s.onMe (fun th => th.waitFor k)

/-! ### Trap entry and return (R85 to R87, R99, R102, R106) -/

def Mode.bits : Mode → BitVec 2
  | .worker => 0
  | .supervisor => 1
  | .firmware => 3

/-- The mode of two bits; 10 does not occur as a mode, and what ERET makes of it is left open (log 14). -/
def Mode.ofBits (b : BitVec 2) (ctr : Nat) : Mode :=
  if b = 0 then .worker else if b = 1 then .supervisor else if b = 3 then .firmware
  else match (Config.reservedMode ctr).val with
    | 0 => .worker
    | 1 => .supervisor
    | _ => .firmware

/-- The mode a trap is taken in (R85). -/
def Mode.above : Mode → Mode
  | .worker => .supervisor
  | .supervisor => .firmware
  | .firmware => .firmware

/-- A vector register with its ignored bits read as zero (R80). -/
def Part.vector (p : Part) (m : Mode) : Addr :=
  BitVec.ofNat 80 (bf (p.reg (if m = .supervisor then 0x120 else 0x130)) 63 2 * 4)

/-- TakeTrap (R85): the one shared trap entry. -/
def Thread.takeTrap (th : Thread) (p : Part) (code : Nat) (asy : Bool) (tval : Word) (epc : Addr) : Thread :=
  { th with
    epc := BitVec.ofNat 64 epc.toNat
    asy := asy
    code := BitVec.ofNat 8 code
    tval := tval
    phold := th.hold
    hold := true
    prev := Mode.bits th.cur
    cur := Mode.above th.cur
    pc := p.vector (Mode.above th.cur)
    wait := none
    reply := none
    walked := [] }

def State.enterTrap (s : State) (t code : Nat) (asy : Bool) (tval : Word) (epc : Addr) : State :=
  s.onThread t (fun th => th.takeTrap (s.part (s.partOf t)) code asy tval epc)

/-- A synchronous cause at the executing instruction (R86): taken at its own address with no effect of the instruction; on an open
likely path the instruction waits for the resolution instead (R97). -/
def State.trapSync (s : State) (code : Nat) (tval : Word) : State :=
  if s.me.path.isSome then s.waitFor .likely else s.enterTrap s.cur code false tval s.me.pc

/-- The return from a trap (R102). -/
def Thread.eret (th : Thread) (ctr : Nat) : Thread :=
  { th with
    cur := Mode.ofBits th.prev ctr
    prev := 0
    hold := th.phold
    phold := false
    pc := BitVec.ofNat 80 (th.epc.toNat / 4 * 4)
    wait := none
    reply := none
    walked := [] }

/-- Causes that a fault server alone takes (R106, R364). -/
def serverCause (code : Nat) : Bool := code == 0x0B || code == 0x14

/-- Insert a pending cause, ascending by code and, within a code, by the slot in its value (R87, R296); a server cause already
pending takes the newest value (R365). -/
def insertPending (p : Pending) : List Pending → List Pending
  | [] => [p]
  | q :: r =>
    if serverCause p.code && p.code == q.code then p :: r
    else if p.code < q.code || (p.code == q.code && decide (wf p.tval 2 0 < wf q.tval 2 0)) then p :: q :: r
    else q :: insertPending p r

/-- An asynchronous cause becomes pending (R87, R104, R106). -/
def State.raise (s : State) (t code : Nat) (tval : Word) : State :=
  let th := s.thread t
  match th.st with
  | .off => s
  | .halted =>
    if serverCause code && !th.hold then
      (s.onThread t (fun th => { th with st := .active })).enterTrap t code true tval th.pc
    else s.onThread t (fun th => { th with pend := insertPending ⟨code, tval⟩ th.pend, ev := th.ev || th.hold })
  | _ => s.onThread t (fun th => { th with pend := insertPending ⟨code, tval⟩ th.pend, ev := th.ev || th.hold })

/-- Discard an open likely path (R98, R99, R171): registers, flags, run-ahead entries, assembly registers and token counts come back from the
checkpoint, staged tokens and loads of the path go, and sr.gen advances. -/
def Thread.dropPath (th : Thread) (p : Path) : Thread :=
  { th with
    x := p.x, a := p.a, v := p.v, m := p.m, flags := p.flags
    gen := th.gen + 1
    ahead := p.ahead.filter (fun e => th.ahead.any (fun f => f.1 == e.1))
    qs := th.qs.map (fun (k, q) =>
      match tget p.qs k with
      | some o => (k, { q with toks := q.toks.filter (fun e => !e.2.2), asmLanes := o.asmLanes, asmValid := o.asmValid, fill := o.fill, count := o.count })
      | none => (k, q))
    path := none
    wait := none
    walked := [] }

/-- Misses of an agent stay in the queues of the dies, but their walks serve no one (R141, R142). -/
def State.orphan (s : State) (who : Requester) : State :=
  { s with dies := s.dies.map (fun d : Die => { d with misses := d.misses.map (fun m : Miss => if m.who = who then { m with who := .other } else m) }) }

/-- An engine's accesses are over or start anew: what walks have told it goes, and walks that it asked for tell it nothing (R142). -/
def State.forgetWalks (s : State) (who : Requester) : State := { s.orphan who with rimWalks := s.rimWalks.filter (fun e => e.1 != who) }

/-- The path's loads on their way have no destination any more: what they may still do is bring a copy. -/
def State.dropPath (s : State) (t : Nat) : State :=
  match (s.thread t).path with
  | none => s
  | some p =>
    let mine := (s.thread t).ahead.filter (fun e => !p.ahead.any (fun f => f.1 == e.1))
    { (s.onThread t (fun th => th.dropPath p)).orphan (.thread t) with
      flight := s.flight.filterMap (fun r =>
        if !mine.any (fun e => e.1 == r.id) then some r
        else match r.stage with
          | .arrived _ _ => none
          | _ => some { r with by' := .pref t, dst := .none, acq := false, bars := false }) }

/-- A cause is pending and HOLD lets it be taken (R87). -/
def Thread.hasPending (th : Thread) : Bool := !th.hold && !th.pend.isEmpty

/-- CheckTarget (R82): a control transfer's target, or MISALIGNED at the transfer. -/
def targetOk (t : Addr) : Bool := decide (t.toNat < 2 ^ 64) && decide (t.toNat % 4 = 0)

/-- Privilege below supervisor (R84): the instruction word is the trap value. -/
def State.privTrap (s : State) (word : Nat) : State := s.trapSync 0x02 (BitVec.ofNat 64 word)

/-- CONFIG_INVALID with a reason (R190, R280, R305, R336, R358, R377, R386). -/
def State.refuse (s : State) (reason : Nat) : State := s.trapSync 0x0D (BitVec.ofNat 64 (2 ^ 63 + reason))

/-- QUEUE_PROTOCOL (R163); queue 0xFF names bq. -/
def State.queueTrap (s : State) (q reason : Nat) : State := s.trapSync 0x08 (BitVec.ofNat 64 (q * 256 + reason))

/-- The event bit (R104). -/
def State.setEv (s : State) (t : Nat) : State := s.onThread t (fun th => { th with ev := true })

/-- Put events at the end of the agenda. -/
def State.post (s : State) (es : List Event) : State := { s with agenda := s.agenda ++ es }

/-- Let an event happen after a number of ticks. -/
def State.postAt (s : State) (dt : Nat) (e : Event) : State := { s with later := s.later ++ [(s.tick + dt, e)] }

/-- A fresh delay in ticks: at least one. -/
def State.delay (s : State) : Nat × State :=
  let (k, s) := s.fresh
  (1 + Config.delay k, s)

end Sys2Proof.Machine
end

