-- ==== Sys2Proof/Machine/Home.lean ====
section
/-!
DEFINITION. Physical memory and its homes: the physical map (R135), homes of lines (R136 to R138), L1 data cache lines (R319, R320),
the L2 slices (R286), the directories (R323, R324) and what a write at a home does (R318, R320).
-/
namespace Sys2Proof.Machine

/-! ### Physical map and homes -/

/-- The kinds of physical range (R135). -/
inductive PRange where
  | hbm | capacity | cxl (port : Nat) | device | hole
  deriving DecidableEq, Repr

def capBase : Nat := 0x010000000000000
def cxlBase (port : Nat) : Nat := if port = 0 then 0x100000000000000 else 0x180000000000000
def devBase : Nat := 0x1F0000000000000

/-- The range a physical address lies in (R135). -/
def prange (pa : Nat) : PRange :=
  if pa < 2 ^ 39 then .hbm
  else if capBase ≤ pa ∧ pa < capBase + 2 ^ 42 then .capacity
  else if cxlBase 0 ≤ pa ∧ pa < cxlBase 1 then .cxl 0
  else if cxlBase 1 ≤ pa ∧ pa < devBase then .cxl 1
  else if devBase ≤ pa ∧ pa < 2 ^ 57 then .device
  else .hole

/-- Stack of an HBM address, dray of a capacity address (R136, R137). -/
def stackOf (pa : Nat) : Nat := bf pa 16 14
def drayOf (pa : Nat) : Nat := bf (pa - capBase) 18 14

def rimOf (die : Nat) (south : Bool) (n : Nat) : Nat := die * 96 + south.toNat * 48 + n

/-- The home rim tile, numbered die × 96 + edge × 48 + n (R136 to R138). Device registers have none. -/
def homeTile (pa : Nat) : Option Nat :=
  match prange pa with
  | .hbm =>
    let st := stackOf pa
    some (rimOf (st / 2) (st % 2 == 1) (Nat.xor (bf pa 22 7) (bf pa 38 23) % 48))
  | .capacity =>
    let o := pa - capBase
    let f := Nat.xor (Nat.xor (bf o 22 7) (bf o 38 23)) (bf o 41 39 * 2 ^ 13)
    let dr := drayOf pa
    some (rimOf (dr / 8) (decide (4 ≤ dr % 8)) (f % 48))
  | .cxl p =>
    let o := pa - cxlBase p
    let f := Nat.xor (Nat.xor (bf o 22 7) (bf o 38 23)) (bf o 54 39)
    let t := f % 96
    some ((if p = 0 then 0 else 2) * 96 + t)
  | _ => none

/-- The die a line is homed on. -/
def homeDie (pa : Nat) : Fin 4 := ⟨(homeTile pa).getD 0 / 96 % 4, Nat.mod_lt _ (by decide)⟩

def lineOf (pa : Nat) : Nat := pa / 128

/-- A 16 KiB granule of the device window that holds a register block named in a chapter (log 15). -/
def devGranule (pa : Nat) : Bool :=
  let o := pa - devBase
  (decide (0x1000000 ≤ o ∧ o < 0x1080000) && decide (o % 0x10000 < 0x4000)) || decide (0x2000000 ≤ o ∧ o < 0x2004000) ||
  decide (0x3000000 ≤ o ∧ o < 0x3004000) || decide (0x4000000 ≤ o ∧ o < 0x4008000) || decide (0x5000000 ≤ o ∧ o < 0x5004000) ||
  decide (0x6000000 ≤ o ∧ o < 0x6004000)

/-- One granule is populated (R135). -/
def State.granuleOk (s : State) (pa : Nat) : Bool :=
  match prange pa with
  | .hbm => !s.stacksOut.contains (stackOf pa) && !(s.die (homeDie pa)).absent
  | .capacity => !(s.dray (drayOf pa)).absent && !(s.die (homeDie pa)).absent
  | .cxl p => decide (pa < cxlBase p + (if p = 0 then s.boot.cxl0 else s.boot.cxl1) * 2 ^ 14) && !(s.die (homeDie pa)).absent
  | .device => devGranule pa
  | .hole => false

/-- The memory type goes with the range (R133). -/
def mtRange (mt : Nat) (r : PRange) : Bool :=
  match r with
  | .hbm => decide (mt = 0 ∨ mt = 3)
  | .capacity => decide (mt = 1)
  | .cxl _ => decide (mt = 2)
  | .device => decide (mt = 4)
  | .hole => false

/-- A whole page lies in the populated range of its memory type: pages above 16 KiB cover every stack or dray (R130, R136, R137). -/
def State.pageOk (s : State) (mt pa size : Nat) : Bool :=
  mtRange mt (prange pa) && decide (prange (pa + size - 1) = prange pa) && s.granuleOk pa && s.granuleOk (pa + size - 1) &&
  (decide (size ≤ 2 ^ 14) ||
    (match prange pa with
    | .hbm => s.stacksOut.isEmpty && fin4s.all (fun d => !(s.die d).absent)
    | .capacity => (List.range 32).all (fun n => !(s.dray n).absent) && fin4s.all (fun d => !(s.die d).absent)
    | .cxl _ => true
    | _ => false))

/-- The home of an address lies on a die declared lost (R144, R381). -/
def State.homeLost (s : State) (pa : Nat) : Bool := (homeTile pa).isSome && (s.die (homeDie pa)).lost

/-- A line of a CXL window that is memory of the host and not expansion memory: which lines are is fixed by what lies beyond the port (R326; log 36). -/
def hostLine (line : Nat) : Bool :=
  match prange (line * 128) with
  | .cxl _ => Config.hostMemory (line / 128)
  | _ => false

/-! ### Poison (R145, R380) -/

def State.isPoisoned (s : State) (pa : Nat) : Bool := s.poison.contains (lineOf pa)

def insertNat (n : Nat) : List Nat → List Nat
  | [] => [n]
  | a :: r => if n < a then n :: a :: r else if n = a then a :: r else a :: insertNat n r

/-- Uncorrectable memory error counted for a partition (R380). -/
def State.countUncorr (s : State) (p : Fin 8) (pa : Nat) : State :=
  let s := s.onPart p (fun q => (q.bump 0x3B0 95 64 1).setFld 0x3B0 56 0 pa)
  match prange pa with
  | .capacity => s.onDray (drayOf pa) (fun d => { d with uncorr := d.uncorr + 1 })
  | _ => s

/-! ### L1 caches -/

def l1Find (l : List L1Line) (line : Nat) : Option L1Line := l.find? (fun e => e.line == line)
def l1Remove (l : List L1Line) (line : Nat) : List L1Line := l.filter (fun e => e.line != line)

/-- Make room in a cache of a size and place a line first: an evict-first line goes first, else the one the open replacement names. The cache is one
set of all its lines (DESIGN CHOICE, log 10: R147 speaks of a set, and no rule gives the sets of an L1). -/
def l1Insert (cap : Nat) (l : List L1Line) (e : L1Line) (ctr : Nat) : List L1Line :=
  let l := l1Remove l e.line
  if l.length < cap then e :: l
  else match l.find? (fun o => o.evictFirst) with
    | some o => e :: l1Remove l o.line
    | none => e :: l.eraseIdx (Config.victim ctr % l.length)

/-- Whether a copy may be used by its core now (R320, R325, R327). Round-tagged copies are judged by the domain read. -/
def copyCurrent (c : Core) (gt : Nat) (e : L1Line) : Bool :=
  match e.kind with
  | .lease rts => decide (c.lt ≤ rts)
  | .glease t => decide (gt < t)
  | .dir => true
  | .tag _ => false

/-- Bytes of a copy. -/
def copyBytes (e : L1Line) (pa size : Nat) : List Byte := (e.data.drop (pa % 128)).take size

/-- Requests in flight from a die for a line deliver their values but install nothing (R157, R325). -/
def unfillReq (p : Req → Bool) (r : Req) : Req :=
  if p r then
    match r.kind with
    | .load _ ef => { r with kind := .load false ef }
    | .domain q d m w i _ ef => { r with kind := .domain q d m w i false ef }
    | _ => r
  else r

def reqCore (r : Req) : Option Nat :=
  match r.by' with
  | .thread t | .pref t => some (coreOf t)
  | _ => none

/-- The reply of a request may still install its copy. -/
def Req.fills (r : Req) : Bool :=
  match r.kind with
  | .load fill _ | .domain _ _ _ _ _ fill _ => fill
  | _ => false

/-- The copies of a core that a test keeps, in both its L1 caches. -/
def Core.keepCopies (c : Core) (keep : L1Line → Bool) : Core := { c with l1i := c.l1i.filter keep, l1 := c.l1.filter keep }

/-- Invalidate a line's copies in a die's L1s that a test selects, and keep fills on their way from installing. -/
def State.dropCopies (s : State) (die line : Nat) (sel : CopyKind → Bool) : State :=
  { s with
    cores := s.cores.map (fun (k, c) => if k / 48 = die then (k, c.keepCopies (fun e => !(e.line == line && sel e.kind))) else (k, c))
    flight := s.flight.map (unfillReq (fun r => (match reqCore r with | some c => decide (c / 48 = die) | none => false) &&
      lineOf r.pa == line && (match r.stage with | .replied _ _ k _ _ => sel k | _ => false))) }

def notTag : CopyKind → Bool
  | .tag _ => false
  | _ => true

/-! ### L2 slices (R286) -/

/-- A line is touched at its home: it becomes its set's most recent, and the least recent of more than sixteen goes. -/
def State.touchL2 (s : State) (pa : Nat) (modified : Bool) : State :=
  match homeTile pa with
  | none => s
  | some t =>
    let line := lineOf pa
    let slice := tgetD s.l2 t []
    let same := slice.filter (fun e => e.line % 1024 == line % 1024 && e.line != line)
    let rest := slice.filter (fun e => e.line % 1024 != line % 1024)
    let was := slice.any (fun e => e.line == line && e.modified)
    { s with l2 := tput s.l2 t (⟨line, modified || was⟩ :: same.take 15 ++ rest) }

/-- The home drops its own copy of a line. -/
def State.dropL2 (s : State) (pa : Nat) : State :=
  match homeTile pa with
  | none => s
  | some t => { s with l2 := tput s.l2 t ((tgetD s.l2 t []).filter (fun e => e.line != lineOf pa)) }

/-! ### Directories (R323, R324) -/

def rotl16 (v n : Nat) : Nat := (v * 2 ^ (n % 16) + v / 2 ^ (16 - n % 16)) % 2 ^ 16

/-- Index of a line in a way (R323). -/
def dirHash (w n : Nat) : Nat :=
  Nat.xor (Nat.xor (Nat.xor (bf n 15 0) (rotl16 (bf n 31 16) (3 * w + 1))) (rotl16 (bf n 47 32) (5 * w + 2))) (bf n 49 48 * 2 ^ 14)

def dirAt (dir : List DirEntry) (w i : Nat) : Option DirEntry := dir.find? (fun e => e.way == w && dirHash e.way e.line == i)
def dirFree (dir : List DirEntry) (w n : Nat) : Bool := (dirAt dir w (dirHash w n)).isNone

/-- The displacement loop of DirInsert, with the steps left: the entries, and the line to recall if none of them found room. -/
def dirDisplace : Nat → List DirEntry → DirEntry → Nat → List DirEntry × Option DirEntry
  | 0, dir, cur, _ => (dir, some cur)
  | n + 1, dir, cur, w =>
    match dirAt dir w (dirHash w cur.line) with
    | none => ({ cur with way := w } :: dir, none)
    | some o =>
      let dir := { cur with way := w } :: dir.filter (fun e => e != o)
      match [0, 1, 2, 3].find? (fun u => u != w && dirFree dir u o.line) with
      | some u => ({ o with way := u } :: dir, none)
      | none => dirDisplace n dir o ((w + 1) % 4)

/-- DirInsert (R324). -/
def dirInsert (dir : List DirEntry) (e : DirEntry) : List DirEntry × Option DirEntry :=
  match [0, 1, 2, 3].find? (fun w => dirFree dir w e.line) with
  | some w => ({ e with way := w } :: dir, none)
  | none => dirDisplace 8 dir e 0

def dirFind (dir : List DirEntry) (line : Nat) : Option DirEntry := dir.find? (fun e => e.line == line)

/-- The partition whose ranges hold a line: the one whose recalls are counted (R335). -/
def State.partOfLine (s : State) (line : Nat) : Option (Fin 8) :=
  fin8s.find? (fun p => (List.range 8).any (fun k =>
    let q := s.part p
    let o := 0x300 + 0x10 * k
    decide (q.fld o 0 0 = 1 ∧ q.fld o 56 14 ≤ line / 128 ∧ line / 128 ≤ q.fld o 106 64)))

/-- Record a copy of a line in another die, or in the host; a recalled line's copies go (R324), counted for its partition. -/
def State.dirMark (s : State) (home : Fin 4) (line : Nat) (die : Option Nat) (host : Bool) : State :=
  let dir := (s.die home).dir
  match dirFind dir line with
  | some e =>
    let e' := { e with dies := (match die with | some d => insertNat d e.dies | none => e.dies), host := e.host || host }
    s.onDie home (fun d => { d with dir := d.dir.map (fun o => if o.line == line then e' else o) })
  | none =>
    let (dir, out) := dirInsert dir ⟨0, line, die.toList, host⟩
    let s := s.onDie home (fun d => { d with dir := dir })
    match out with
    | none => s
    | some r =>
      let s := r.dies.foldl (fun (s : State) d => s.dropCopies d r.line notTag) s
      match s.partOfLine r.line with
      | some p => s.bump p 0x1B0 15 0 1
      | none => s

/-- A line has no directory entry any more. -/
def State.dirFreeLine (s : State) (home : Fin 4) (line : Nat) : State :=
  s.onDie home (fun d => { d with dir := d.dir.filter (fun e => e.line != line) })

/-- A die holds a copy that a directory tracks, or will once a reply on its way has come. -/
def State.holdsDir (s : State) (line die : Nat) : Bool :=
  s.cores.any (fun e => e.1 / 48 == die && (e.2.l1i ++ e.2.l1).any (fun l => l.line == line && l.kind == .dir)) ||
  s.flight.any (fun r => lineOf r.pa == line && r.fills && (reqCore r).any (fun c => c / 48 == die) &&
    (match r.stage with | .replied _ _ .dir _ _ => true | _ => false))

/-- Presence bits stand for copies that exist, and a line without copies has no entry (R323). -/
def State.tidyLine (s : State) (line : Nat) : State :=
  s.onDie (homeDie (line * 128)) (fun d => { d with dir := d.dir.filterMap (fun e =>
    if e.line ≠ line then some e
    else
      let dies := e.dies.filter (s.holdsDir line)
      if dies.isEmpty && !e.host then none else some { e with dies := dies }) })

/-- Fills that a test selects install nothing any more. -/
def State.unfill (s : State) (sel : Req → Bool) : State :=
  let gone := (s.flight.filter (fun r => sel r && r.fills)).map (fun r => lineOf r.pa)
  gone.foldl State.tidyLine { s with flight := s.flight.map (unfillReq sel) }

/-- A change of a core's caches, after which the directories no longer count the copies that have gone. -/
def State.onCaches (s : State) (c : Nat) (f : Core → Core) : State :=
  let tracked (co : Core) : List Nat := ((co.l1i ++ co.l1).filter (fun e => e.kind == .dir)).map (·.line)
  let old := tracked (s.core c)
  let s := s.onCore c f
  (old.filter (fun l => !(tracked (s.core c)).contains l)).foldl State.tidyLine s

/-- Install a copy in a core's L1 data cache of 512 lines (R11). -/
def State.install (s : State) (c : Nat) (e : L1Line) : State :=
  let (k, s) := s.fresh
  s.onCaches c (fun co => { co with l1 := l1Insert 512 co.l1 e k })

/-- Install a copy in a core's L1 instruction cache of 256 lines (R11). -/
def State.installCode (s : State) (c : Nat) (e : L1Line) : State :=
  let (k, s) := s.fresh
  s.onCaches c (fun co => { co with l1i := l1Insert 256 co.l1i e k })

/-! ### Writes at a home (R318, R320) -/

def State.home (s : State) (line : Nat) : LineHome := tgetD s.homes line LineHome.reset
def State.onHome (s : State) (line : Nat) (f : LineHome → LineHome) : State := { s with homes := tput s.homes line (f (s.home line)) }

/-- The home writes bytes of one line: new write time from the writer's logical time, DLT, L2, memory. A line of host memory is
written through and leaves no copy (R326). -/
def State.writeAtHome (s : State) (lt pa : Nat) (bs : List Byte) : State :=
  let line := lineOf pa
  let h := s.home line
  let wts := max lt (h.rts + 1)
  let s := { s with mem := memWrite s.mem pa bs }
  let s := s.onHome line (fun h => { h with wts := wts, rts := wts })
  let s := s.onDie (homeDie pa) (fun d => { d with dlt := max d.dlt wts })
  if hostLine line then s.dropL2 pa else s.touchL2 pa true

/-! ### Copies granted at a home (R320, R323, R327) -/

def State.llease (s : State) (p : Fin 8) : Nat := max 1 ((s.part p).fld 0x1A0 7 0)
def State.glease (s : State) (p : Fin 8) : Nat := max 16 ((s.part p).fld 0x1A0 79 64)
def State.guardBand (s : State) : Nat := max 50 s.guard.toNat

/-- The copy a fill will make, granted at the home: a lease, a directory entry, a global lease (R320, R323, R327). -/
def State.grant (s : State) (p : Fin 8) (c mt pa : Nat) : CopyKind × State :=
  let line := lineOf pa
  let h := s.home line
  if mt = 2 then
    let e := s.gtime (dieOfCore c) + s.glease p
    (.glease e, s.onHome line (fun h => { h with gmax := max h.gmax e }))
  else if dieOfCore c = homeDie pa then
    let e := max h.wts (s.core c).lt + s.llease p
    (.lease e, s.onHome line (fun h => { h with rts := max h.rts e }))
  else (.dir, s.dirMark (homeDie pa) line (some (dieOfCore c).val) false)

/-- Logical-time leases keep copies of lines homed on the core's die, cxl-far ones apart: their reads and writes move its logical time (R319, R320). -/
def onLeases (c mt pa : Nat) : Bool := decide (mt < 2) && dieOfCore c == homeDie pa

end Sys2Proof.Machine
end

