-- ==== Sys2Proof/Machine/Device.lean ====
section
/-!
DEFINITION. Device registers (R80, R128, R134, R143, R259, R295, R315, R322, R335, R350, R361, R362, R370, R372, R375, R380, R395,
R423, R428 to R430): what a read returns and what a write changes. A write with an effect beyond its register puts that effect's event
on the agenda.
-/
namespace Sys2Proof.Machine

/-- A field as a mask of a 128-bit register. -/
def fieldMask (hi lo : Nat) : BitVec 128 := BitVec.ofNat 128 ((2 ^ (hi + 1 - lo) - 1) * 2 ^ lo)

/-- RW fields of a control-page register, by offset. -/
def pctlRw (off : Nat) : BitVec 128 :=
  if off = 0x100 ∨ off = 0x120 ∨ off = 0x130 then fieldMask 63 2
  else if off = 0x110 then fieldMask 79 0
  else if off = 0x140 ∨ off = 0x150 then fieldMask 56 14 ||| fieldMask 0 0
  else if off = 0x160 then fieldMask 127 32 ||| fieldMask 10 0
  else if off = 0x170 then fieldMask 127 64
  else if off = 0x180 then fieldMask 127 96 ||| fieldMask 56 14
  else if off = 0x190 then fieldMask 127 64 ||| fieldMask 17 0
  else if off = 0x1A0 then fieldMask 79 64 ||| fieldMask 7 0
  else if off = 0x1B0 then fieldMask 127 0
  else if off = 0x1C0 then fieldMask 63 32
  else if off = 0x1D0 then fieldMask 15 0
  else if off = 0x1E0 ∨ off = 0x1F0 then fieldMask 111 64 ||| fieldMask 47 0
  else if 0x200 ≤ off ∧ off < 0x280 then if off % 0x20 = 0 then fieldMask 127 0 else fieldMask 15 0
  else if 0x300 ≤ off ∧ off < 0x380 then fieldMask 106 64 ||| fieldMask 56 14 ||| fieldMask 0 0
  else if off = 0x380 then fieldMask 127 8 ||| fieldMask 0 0
  else if off = 0x390 then fieldMask 127 64
  else if off = 0x3A0 then fieldMask 127 127 ||| fieldMask 111 95 ||| fieldMask 79 63 ||| fieldMask 47 31 ||| fieldMask 15 0
  else if off = 0x3B0 then fieldMask 127 64
  else if off = 0x3C0 then fieldMask 127 112 ||| fieldMask 98 80 ||| fieldMask 65 32
  else if off = 0x3D0 then fieldMask 103 96 ||| fieldMask 56 14 ||| fieldMask 0 0
  else if off = 0x3E0 then fieldMask 63 0
  else if off = 0x3F0 then fieldMask 127 32
  else if off = 0x400 then fieldMask 127 32
  else 0

/-- Composition registers take writes only while the partition is stopped (R350). -/
def pctlComposition (off : Nat) : Bool := decide (0x1D0 ≤ off ∧ off < 0x280) || decide (0x300 ≤ off ∧ off < 0x380)

/-- Fields a mode may write now: firmware every RW field, supervisor PCTL_FSEQ.ACK alone (R80, R350, R362, R372). -/
def pctlWritable (p : Part) (off : Nat) (m : Mode) : BitVec 128 :=
  if m = .firmware then
    if pctlComposition off ∧ p.state ≠ .stopped then 0
    else if off = 0x380 ∧ (p.fld 0x390 2 0 = 2 ∨ p.fld 0x390 2 0 = 4) then 0
    else pctlRw off
  else if m = .supervisor ∧ off = 0x3E0 then fieldMask 63 0
  else 0

/-- Value of a control-page register as a read finds it. -/
def Part.readReg (p : Part) (off : Nat) : BitVec 128 :=
  if off = 0x1C0 then BitVec.ofNat 128 (setBf (p.reg off) 1 0 (match p.state with | .stopped => 0 | .running => 1 | .stopping => 2))
  else BitVec.ofNat 128 (p.reg off)

/-- Merge of a register under a mask of writable bits. -/
def mergeMask {n : Nat} (old v mask : BitVec n) : BitVec n := (old &&& ~~~mask) ||| (v &&& mask)

/-- A write to a control-page register: the bits in wr are written, as far as the mode may. -/
def State.writePctl (s : State) (p : Fin 8) (off : Nat) (wr v : BitVec 128) (m : Mode) : State :=
  let q := s.part p
  let s := s.onPart p (fun q => q.setReg off (mergeMask (BitVec.ofNat 128 (q.reg off)) v (wr &&& pctlWritable q off m)).toNat)
  let one (b : Nat) : Bool := (wr &&& v).getLsbD b
  if m ≠ .firmware then s
  else if off = 0x1C0 then
    (if one 8 then s.post [.partitionStart p] else s).post (if one 9 then [.partitionStop p] else [])
  else if off = 0x380 then
    let idle := q.fld 0x390 2 0 ≠ 2 ∧ q.fld 0x390 2 0 ≠ 4
    (if wr.getLsbD 0 ∧ idle then s.post [.sliceArm p] else s).post (if one 2 then [.sliceJoin p] else [])
  else s

/-! ### 64-bit blocks -/

def mask64 (hi lo : Nat) : BitVec 64 := (fieldMask hi lo).truncate 64

/-- Bucket setting of a bogie (R430): DEPTH and RATE. -/
def State.bucket (s : State) (die bog : Nat) : BitVec 13 × BitVec 11 := tgetD s.power.bkt (die * 144 + bog) (4096, 1024)

/-- Value of a 64-bit device register outside the control pages, by offset from the device window's base. -/
def State.readDev64 (s : State) (o : Nat) : Word :=
  if o = 0x2000000 then BitVec.ofNat 64 (s.guard.toNat * 2 ^ 32 + s.master.toNat * 2 ^ 16 + s.module.toNat)
  else if o = 0x2000008 then BitVec.ofNat 64 (s.sync.toNat * 2 ^ 63 + s.drift.toNat)
  else if o = 0x3000000 then BitVec.ofNat 64 (s.boot.starts.toNat * 2 ^ 32 + s.boot.next.toNat)
  else if o = 0x3000010 then BitVec.ofNat 64 s.boot.minidx.toNat
  else if o = 0x3000020 then BitVec.ofNat 64 (s.boot.fwinBase % 2 ^ 43 * 2 ^ 14)
  else if o = 0x3000028 then BitVec.ofNat 64 (s.boot.fwinLimit % 2 ^ 43)
  else if o = 0x3000030 then BitVec.ofNat 64 (s.boot.cxl0 % 2 ^ 42)
  else if o = 0x3000038 then BitVec.ofNat 64 (s.boot.cxl1 % 2 ^ 42)
  else if 0x3000800 ≤ o ∧ o < 0x3001000 then tgetD s.boot.entries ((o - 0x3000800) / 8) 0
  else if o = 0x4000000 then BitVec.ofNat 64 s.power.cap.toNat
  else if o = 0x4000008 then BitVec.ofNat 64 (s.power.temp.toNat * 2 ^ 48 + s.power.watts.toNat)
  else if 0x4001000 ≤ o ∧ o < 0x4005000 ∧ o % 0x1000 < 1152 then
    let b := s.bucket ((o - 0x4001000) / 0x1000) (o % 0x1000 / 8)
    BitVec.ofNat 64 (b.1.toNat * 2 ^ 32 + b.2.toNat)
  else if 0x5000000 ≤ o ∧ o < 0x5000200 then
    let l := s.link ((o - 0x5000000) / 0x20)
    if o % 0x20 = 0 then BitVec.ofNat 64 l.speed.toNat
    else if o % 0x20 = 8 then BitVec.ofNat 64 (l.state.toNat * 2 ^ 62 + l.peer.toNat * 2 ^ 32 + l.fails.toNat * 2 ^ 16 + l.trains.toNat)
    else 0
  else if 0x6000000 ≤ o ∧ o < 0x6000100 then
    let d := s.dray ((o - 0x6000000) / 8)
    BitVec.ofNat 64 ((!d.absent).toNat * 2 ^ 63 + d.uncorr.toNat * 2 ^ 32 + d.pooled.toNat)
  else 0

/-- A firmware-mode write to a 64-bit device register: the bits in wr are written. -/
def State.writeDev64 (s : State) (o : Nat) (wr v : Word) : State :=
  let new (mask : BitVec 64) : Nat := (mergeMask (s.readDev64 o) v (wr &&& mask)).toNat
  if o = 0x2000000 then
    let n := new (mask64 63 32 ||| mask64 16 0)
    { s with guard := BitVec.ofNat 32 (bf n 63 32), master := bf n 16 16 = 1, module := BitVec.ofNat 16 n }
  else if o = 0x3000008 then s.post [.bootClr (wf (wr &&& v) 15 8) (wf (wr &&& v) 7 0)]
  else if o = 0x4000000 then { s with power := { s.power with cap := BitVec.ofNat 12 (new (mask64 11 0)) } }
  else if 0x4001000 ≤ o ∧ o < 0x4005000 ∧ o % 0x1000 < 1152 then
    let die : Fin 4 := ⟨(o - 0x4001000) / 0x1000 % 4, Nat.mod_lt _ (by decide)⟩
    let bog : Fin 144 := ⟨o % 0x1000 / 8 % 144, Nat.mod_lt _ (by decide)⟩
    s.post [.bucketSettingWrite die bog (BitVec.ofNat 64 (new (mask64 44 32 ||| mask64 10 0)))]
  else if 0x5000000 ≤ o ∧ o < 0x5000200 then
    let n := (o - 0x5000000) / 0x20
    if o % 0x20 = 0 then
      let s' := s.onLink n (fun l => { l with speed := BitVec.ofNat 2 (new (mask64 1 0)) })
      if (wr &&& v).getLsbD 3 then s'.post [.retrain ⟨n % 16, Nat.mod_lt _ (by decide)⟩] else s'
    else if o % 0x20 = 8 then
      let x := new (mask64 31 0)
      s.onLink n (fun l => { l with fails := BitVec.ofNat 16 (bf x 31 16), trains := BitVec.ofNat 16 x })
    else s
  else if 0x6000000 ≤ o ∧ o < 0x6000100 then
    let x := new (mask64 55 0)
    let n := (o - 0x6000000) / 8
    if (s.dray n).absent then s
    else s.onDray n (fun d => { d with uncorr := BitVec.ofNat 24 (bf x 55 32), pooled := BitVec.ofNat 32 x })
  else s

/-! ### Accesses of 4, 8 and 16 bytes (R133, R134) -/

/-- The control page an offset from the device window's base lies on, and the offset within it. -/
def pageAt (o : Nat) : Option (Fin 8 × Nat) :=
  if 0x1000000 ≤ o ∧ o < 0x1080000 then some (⟨(o - 0x1000000) / 0x10000 % 8, Nat.mod_lt _ (by decide)⟩, o % 0x10000) else none

/-- The 16 bytes at an aligned offset. -/
def State.readDev128 (s : State) (o : Nat) : BitVec 128 :=
  match pageAt o with
  | some (p, off) => (s.part p).readReg off
  | none => BitVec.ofNat 128 ((s.readDev64 (o + 8)).toNat * 2 ^ 64 + (s.readDev64 o).toNat)

/-- A device read (R134): reserved offsets read as zero. -/
def State.devRead (s : State) (pa size : Nat) : Nat :=
  let o := pa - devBase
  (s.readDev128 (o / 16 * 16)).toNat / 2 ^ (8 * (o % 16)) % 256 ^ size

/-- A device write (R80, R134): reserved offsets and fields the mode may not write are ignored. -/
def State.devWrite (s : State) (pa size v : Nat) (m : Mode) : State :=
  let o := pa - devBase
  let sh := 8 * (o % 16)
  let wr : BitVec 128 := BitVec.ofNat 128 ((256 ^ size - 1) * 2 ^ sh)
  let x : BitVec 128 := BitVec.ofNat 128 (v % 256 ^ size * 2 ^ sh)
  match pageAt (o / 16 * 16) with
  | some (p, off) => s.writePctl p off wr x m
  | none =>
    if m ≠ .firmware then s
    else
      let b := o / 16 * 16
      let s := if (wr.truncate 64 : Word) ≠ 0 then s.writeDev64 b (wr.truncate 64) (x.truncate 64) else s
      if ((wr >>> 64).truncate 64 : Word) ≠ 0 then s.writeDev64 (b + 8) ((wr >>> 64).truncate 64) ((x >>> 64).truncate 64) else s

end Sys2Proof.Machine
end

