-- ==== Sys2Proof/Machine/Flags.lean ====
section
/-!
DEFINITION. Flag computations of access-thread floating point: the mode an instruction rounds in, and how raised flags retire or trap
(R32, R36 to R38, R108).
-/
namespace Sys2Proof.Machine

/-- The rounding mode an FP instruction uses, reading sr.frm when dynamic; none where R37 makes it illegal. -/
def fpMode (rm : FpRm) (frm : BitVec 3) : Option Rm :=
  match rm with
  | .rne => some .rne
  | .rtz => some .rtz
  | .rup => some .rup
  | .rdn => some .rdn
  | .rna => some .rna
  | .dyn => match frm.toNat with
    | 0 => some .rne
    | 1 => some .rtz
    | 2 => some .rup
    | 3 => some .rdn
    | 4 => some .rna
    | _ => none

/-- ILLEGAL_INSTRUCTION at an instruction, with its word (R37, R58). -/
def State.illegal (s : State) (i : Instr) : State := s.trapSync 0x01 (BitVec.ofNat 64 ((encode i).getD 0))

/-- What an FP instruction waits for before it issues with an enable set: an open likely path, and every earlier instruction's destination (R108). -/
def Thread.fpHeld (th : Thread) : Option WaitKind :=
  if th.en = 0 then none else if th.path.isSome then some .likely else if th.ahead.isEmpty then none else some .register

/-- Retire an FP result: the destination is written and the flags are ORed in, or FP_EXCEPTION is taken and nothing is written (R38), once the
instruction may issue (R108). -/
def State.fpRetire (s : State) (d : Fin 32) (r : Res) : State :=
  match s.me.fpHeld with
  | some k => s.waitFor k
  | none =>
    if r.flags &&& s.me.en != 0 then s.trapSync 0x0E (BitVec.ofNat 64 r.flags.toNat)
    else s.onMe (fun th => ({ th with flags := th.flags ||| r.flags }.setX d (BitVec.ofNat 64 r.bits)).advance)

/-- A rounding FP instruction, once it may issue (R108): illegal when its mode is, else its result retires. -/
def fpRounded (i : Instr) (d : Fin 32) (rm : FpRm) (f : Rm → Thread → Res) (s : State) : Out :=
  match s.me.fpHeld with
  | some k => .next (s.waitFor k)
  | none => match fpMode rm s.me.frm with
    | none => .next (s.illegal i)
    | some m => .next (s.fpRetire d (f m s.me))

end Sys2Proof.Machine
end

