-- ==== Sys2Proof/Machine/Operands.lean ====
section
/-!
DEFINITION. Operand forms: immediates (R52), effective addresses (R147, R155, R337), FP operands (R118), branch targets (R92 to R96),
and the lanes an element instruction reads (R215, R216).
-/
namespace Sys2Proof.Machine

/-- Sign-extended immediates. -/
def simm64 {n : Nat} (i : BitVec n) : Word := i.signExtend 64
def zimm64 {n : Nat} (i : BitVec n) : Word := i.zeroExtend 64
def simm80 {n : Nat} (i : BitVec n) : Addr := i.signExtend 80

/-- A target that lies 4 × offset from the instruction's own address (R52). -/
def relTarget {n : Nat} (pc : Addr) (o : BitVec n) : Addr := pc + simm80 o * 4

end Sys2Proof.Machine

namespace Sys2Proof
open Sys2Proof.Machine

/-- Access size of a size code in bytes (R52). -/
def Sz.bytes : Sz → Nat
  | .b | .bu => 1
  | .h | .hu => 2
  | .w | .wu => 4
  | .d => 8
  | .a => 16

end Sys2Proof

namespace Sys2Proof.Machine

/-- Effective address a[ab] + SignExtend(off) × size, modulo 2^80 (R147, R337). -/
def effAddr {n : Nat} (base : Addr) (o : BitVec n) (size : Nat) : Addr := base + simm80 o * BitVec.ofNat 80 size

end Sys2Proof.Machine

namespace Sys2Proof
open Sys2Proof.Machine

/-- A loaded value extended as its size code says (R148). -/
def Sz.extend (z : Sz) (v : Nat) : Word :=
  match z with
  | .b => (BitVec.ofNat 8 v).signExtend 64
  | .h => (BitVec.ofNat 16 v).signExtend 64
  | .w => (BitVec.ofNat 32 v).signExtend 64
  | .bu => BitVec.ofNat 64 (v % 2 ^ 8)
  | .hu => BitVec.ofNat 64 (v % 2 ^ 16)
  | .wu => BitVec.ofNat 64 (v % 2 ^ 32)
  | .d | .a => BitVec.ofNat 64 v

/-- The format of FMT and the operand pattern of an x register (R118). -/
def FpFmt.fmt : FpFmt → Fmt
  | .f32 => .fp32
  | .f64 => .fp64
def FpFmt.operand (f : FpFmt) (w : Word) : Nat :=
  match f with
  | .f32 => w.toNat % 2 ^ 32
  | .f64 => w.toNat
def FpFmt.etype : FpFmt → EType
  | .f32 => .fp32
  | .f64 => .fp64

end Sys2Proof

namespace Sys2Proof.Machine

/-- Write a run-ahead destination (R91, R148). -/
def Thread.writeDst (th : Thread) (d : Dst) (v : Nat) : Thread :=
  match d with
  | .none => th
  | .x r z => th.setX r (z.extend v)
  | .a r => th.setA r (BitVec.ofNat 80 v)
  | .lane r i => th.setV r ((th.getV r).set i.val (BitVec.ofNat 64 v) i.isLt)

/-- The destination of a load form (R148). -/
def loadDst (d : Fin 32) (z : Sz) : Dst :=
  match z with
  | .a => .a (lowReg d)
  | z => if d = 0 then .none else .x d z

/-- The value a store form writes (R149). -/
def Thread.storeVal (th : Thread) (d : Fin 32) (z : Sz) : Nat :=
  match z with
  | .a => (th.getA (lowReg d)).toNat
  | z => (th.getX d).toNat % 256 ^ z.bytes

/-! ### Lanes of tokens -/

end Sys2Proof.Machine

namespace Sys2Proof
open Sys2Proof.Machine

def Token.lane (t : Token) (l : Fin 16) : Word := t.lanes.get l
def Token.isValid (t : Token) (l : Fin 16) : Bool := t.valid.getLsbD l.val
def lanes16 : List (Fin 16) := [0, 1, 2, 3, 4, 5, 6, 7, 8, 9, 10, 11, 12, 13, 14, 15]

/-- A predicate lane (R216): true, false, or absent. -/
def Token.pred (t : Token) (l : Fin 16) : Option Bool := if t.isValid l then some ((t.lane l).getLsbD 0) else none

end Sys2Proof

namespace Sys2Proof.Machine

/-- Lane mask of a lane test. -/
def maskOf (f : Fin 16 → Bool) : BitVec 16 := BitVec.ofNat 16 (lanes16.foldl (fun acc l => acc + (f l).toNat * 2 ^ l.val) 0)

end Sys2Proof.Machine

namespace Sys2Proof
open Sys2Proof.Machine

/-- A token with no lane, of STOP 0 (an empty token, R237). -/
def Token.empty : Token := ⟨0, 0, 0, 0, .i8, 0, 0, Vector.replicate 16 0⟩

/-- A token whose lanes are given as values or nothing; invalid lanes are zero (R215). -/
def Token.ofLanes (t : Token) (f : Fin 16 → Option Word) : Token :=
  { t with valid := maskOf (fun l => (f l).isSome), lanes := Vector.ofFn (fun l => (f l).getD 0) }

/-- The sideband word of a token (R65). -/
def Token.sideband (t : Token) : Word :=
  BitVec.ofNat 64 (t.flags.toNat * 2 ^ 48 + t.round.toNat * 2 ^ 33 + t.ctx.val * 2 ^ 31 + t.gen.toNat * 2 ^ 23 + t.etype.code * 2 ^ 19 + t.stop.val * 2 ^ 16 + t.valid.toNat)

/-- The token of a sideband word and a payload; the reserved byte is ignored (R65). -/
def Token.ofSideband (w : Nat) (payload : List Byte) : Token :=
  ⟨BitVec.ofNat 7 (bf w 54 48), BitVec.ofNat 15 (bf w 47 33), ⟨bf w 32 31 % 4, Nat.mod_lt _ (by decide)⟩, BitVec.ofNat 8 (bf w 30 23), EType.ofCode (bf w 22 19),
    ⟨bf w 18 16 % 8, Nat.mod_lt _ (by decide)⟩, BitVec.ofNat 16 w, Vector.ofFn (fun l => BitVec.ofNat 64 (bytesAt payload (8 * l.val) 8))⟩

/-- Payload bytes of a token, byte 0 lowest (R2, R65). -/
def Token.payload (t : Token) : List Byte := t.lanes.toList.flatMap (fun w => leBytes w.toNat 8)

end Sys2Proof

namespace Sys2Proof.Machine

end Sys2Proof.Machine
end

