-- ==== Sys2Proof/Machine/Write.lean ====
section
/-!
DEFINITION. Requests in flight (R91, R148 to R154): their order, acquires (R321, R331), entries of page tables (R130, R351, R427), and writes at their
homes, by threads and by engines alike (R132, R318, R320, R325 to R327).
-/
namespace Sys2Proof.Machine

/-! ### Round domains (R329, R332) -/

/-- The declared domain an address lies in: its index. -/
def Part.domainOf (p : Part) (va : Addr) : Option Nat :=
  (p.domains.find? (fun (_, d) => decide (d.base ≤ va.toNat ∧ va.toNat < d.base + d.len))).map (·.1)

def Part.view (p : Part) (dom : Nat) (die : Fin 4) : Nat :=
  match tget p.domains dom with
  | some d => d.view.get die
  | none => 0

/-! ### Requests and their order -/

def Req.ofThread (r : Req) (t : Nat) : Bool :=
  match r.by' with
  | .thread u => u == t
  | _ => false

def Req.isLoad (r : Req) : Bool :=
  match r.kind with
  | .load _ _ | .domain _ _ _ _ _ _ _ => true
  | _ => false

def Req.isStore (r : Req) : Bool :=
  match r.kind with
  | .store _ | .write _ => true
  | _ => false

def Req.isSent (r : Req) : Bool :=
  match r.stage with
  | .sent => true
  | _ => false

/-- Performed: the value has been taken, or the write made. -/
def Req.performed (r : Req) : Bool :=
  match r.stage with
  | .replied _ _ _ _ _ | .arrived _ _ | .acked _ => true
  | _ => false

def Req.thread? (r : Req) : Option Nat :=
  match r.by' with
  | .thread t => some t
  | _ => none

/-- Accesses of a thread below an id that are not yet performed. -/
def State.owes (s : State) (t bar : Nat) : Bool := s.flight.any (fun r => r.ofThread t && decide (r.id < bar) && !r.performed)

/-- Acquires of a thread below an id that are not yet performed: no access of the thread behind them is performed before they are (R150, R154). -/
def State.owesAcq (s : State) (t bar : Nat) : Bool := s.flight.any (fun r => r.ofThread t && decide (r.id < bar) && r.bars && !r.performed)

/-- An access on its way touches a byte of a range (R151). -/
def Req.overlaps (r : Req) (pa size : Nat) : Bool := decide (r.pa < pa + size) && decide (pa < r.pa + r.size)

def State.overlap (s : State) (t pa size : Nat) : Bool := s.flight.any (fun r => r.ofThread t && r.overlaps pa size)

/-- Two requests of one agent: an engine's writes to a byte are performed in its order (R294). -/
def Requester.same (a b : Requester) : Bool :=
  match a, b with
  | .held t k _, .held u j _ | .held t k _, .stream u j | .stream t k, .held u j _ => t == u && k == j
  | a, b => a == b

/-- Effects of an acquire: logical time to DLT, floors of the clock slots to the views (R321, R331). -/
def State.acquire (s : State) (t : Nat) : State :=
  let d := dieOf t
  let p := s.part (s.partOf t)
  let s := s.onCore (coreOf t) (fun c => { c with lt := max c.lt (s.die d).dlt })
  s.onThread t (fun th => { th with dclk := th.dclk.map (fun k => if k.v then { k with floor := max k.floor (p.view k.dom d) } else k) })

/-- A request of an agent for bytes of one line, translated by an entry; it takes the next number. -/
def State.request (s : State) (by' : Requester) (k : ReqKind) (va : Addr) (pa size : Nat) (e : TlbEntry) (p : Fin 8) (due : Nat) : Req :=
  ⟨s.nextId, by', k, va, pa, size, e.mt, p, .none, false, false, false, 0, (e.level, e.vpn), .sent, false, due, 0, 0⟩

def State.putReq (s : State) (r : Req) : State := { s with flight := s.flight ++ [r], nextId := s.nextId + 1 }

/-- Send a request: it arrives at its home later. -/
def State.sendReq (s : State) (by' : Requester) (k : ReqKind) (va : Addr) (pa size : Nat) (e : TlbEntry) (p : Fin 8) (dst : Dst) (acq rel bars : Bool) (bar : Nat)
    (stage : Stage) : State :=
  let (dl, s) := s.delay
  s.putReq { s.request by' k va pa size e p (s.tick + dl) with dst := dst, acq := acq, rel := rel, bars := bars, bar := bar, stage := stage }

def State.findReq (s : State) (id : Nat) : Option Req := s.flight.find? (fun r => r.id == id)
def State.setReq (s : State) (r : Req) : State := { s with flight := s.flight.map (fun q => if q.id == r.id then r else q) }
def State.dropReq (s : State) (id : Nat) : State := { s with flight := s.flight.filter (fun q => q.id != id) }

/-- An agent has a request on its way. -/
def State.busy (s : State) (by' : Requester) : Bool := s.flight.any (fun r => r.by'.same by')

/-- A load of a thread's open likely path: it is not performed before the entry has come (R97, R173). -/
def State.onOpenPath (s : State) (t id : Nat) : Bool :=
  (s.thread t).path.any (fun p => (s.thread t).ahead.any (fun e => e.1 == id) && !p.ahead.any (fun e => e.1 == id))

/-- A request may be performed: it has arrived, its agent's earlier accesses to a byte in common are performed (R151, R294), as are those of
its thread below its bar and every acquire before it (R150, R154, R343), and no likely path stands open above it. -/
def State.mayPerform (s : State) (r : Req) : Bool :=
  r.isSent && decide (r.due ≤ s.tick) && !s.homeLost r.pa &&
  !s.flight.any (fun q => q.by'.same r.by' && decide (q.id < r.id) && !q.performed && q.overlaps r.pa r.size) &&
  (match r.thread? with
  | none => true
  | some t => !s.owes t (min r.bar r.id) && !s.owesAcq t r.id && !s.onOpenPath t r.id)

/-- A write to the line stands between its arrival and its performance. -/
def State.writePending (s : State) (line : Nat) : Bool :=
  s.flight.any (fun r => lineOf r.pa == line && (match r.stage with | .inval _ _ | .lease _ | .host => true | _ => false))

/-- Logical time a writer brings: its core's on the home's die, 0 from outside (R320). -/
def State.writerLt (s : State) (r : Req) : Nat :=
  match r.thread? with
  | some t => if dieOf t = homeDie r.pa then (s.core (coreOf t)).lt else 0
  | none => 0

def reqDie (r : Req) : Option (Fin 4) := (reqCore r).map dieOfCore

/-- A request is performed: it takes the next place in the order. -/
def State.performedAt (s : State) (r : Req) (st : Stage) : State :=
  let (dl, s) := s.delay
  { s.setReq { r with stage := st, due := s.tick + dl, done := s.nextId } with nextId := s.nextId + 1 }

/-- A read of a thread has been performed: what happened before it is performed, with write times up to DLT on the thread's die (R318, R345). -/
def State.saw (s : State) (t n : Nat) : State := s.onThread t (fun th => { th with seen := max th.seen n })

/-- Answer a request from its home. -/
def State.reply (s : State) (r : Req) (v : List Byte) (poison : Bool) (k : CopyKind) (wts : Nat) : State :=
  let s := match r.thread? with
    | some t => s.saw t (s.die (dieOf t)).dlt
    | none => s
  s.performedAt r (.replied v poison k wts (memBytes s.mem (lineOf r.pa * 128) 128))

/-- The answers that a home makes to one core about one line come to it in the order in which they were made (log 8). -/
def State.inTurn (s : State) (r : Req) : Bool :=
  !s.flight.any (fun q => decide (q.done < r.done) && reqCore q == reqCore r && lineOf q.pa == lineOf r.pa &&
    (match q.stage with | .replied _ _ _ _ _ | .acked _ => true | _ => false))

/-! ### Entries of page tables (R127, R130, R132) -/

/-- The low bits a leaf of a level leaves to the page (R127). -/
def pageBits (level : Nat) : Nat := 14 + 11 * (5 - level)

/-- Ranges that bound a walk: PCTL_RANGE for worker and supervisor (R351), BOOT_FWIN for firmware (R427), as first and last granule. -/
def State.walkBounds (s : State) (p : Fin 8) (fw : Bool) : List (Nat × Nat) :=
  if fw then if s.boot.fwinSet then [(s.boot.fwinBase, s.boot.fwinLimit)] else []
  else (List.range 8).filterMap (fun k =>
    let q := s.part p
    let o := 0x300 + 0x10 * k
    if q.fld o 0 0 = 1 then some (q.fld o 56 14, q.fld o 106 64) else none)

/-- A table or page lies wholly inside one of the bounds. -/
def inBounds (bs : List (Nat × Nat)) (pa size : Nat) : Bool :=
  bs.any (fun b => decide (b.1 ≤ pa / 2 ^ 14) && decide ((pa + size - 1) / 2 ^ 14 ≤ b.2))

/-- An entry with V = 1 is malformed (R130, R351, R427): also a pointer to a table in HBM that boot has left out, which R135 calls unpopulated (DESIGN
CHOICE, log 44: R130 says of a pointer only that its PA lies outside HBM). -/
def State.malformed (s : State) (bounds : List (Nat × Nat)) (level e : Nat) : Bool :=
  let pa := bf e 56 14 * 2 ^ 14
  let mt := bf e 10 8
  let leaf := bf e 1 1 = 1
  let size := 2 ^ pageBits level
  decide (bf e 63 57 ≠ 0 ∨ bf e 13 11 ≠ 0 ∨ bf e 7 7 ≠ 0 ∨ 4 < mt) ||
  (if leaf then
    decide (level < 3) || decide (pa % size ≠ 0) || !s.pageOk mt pa size || !inBounds bounds pa size ||
    decide (bf e 3 3 = 1 ∧ bf e 2 2 = 0) || decide (bf e 4 4 = 1 ∧ 1 < mt)
  else
    decide (level = 5) || decide (bf e 10 8 ≠ 0 ∨ bf e 6 2 ≠ 0) || !s.pageOk 0 pa (2 ^ 14) || !inBounds bounds pa (2 ^ 14))

/-- Same page of the same partition and root. -/
def samePage (a b : TlbEntry) : Bool := a.part == b.part && a.fw == b.fw && a.level == b.level && a.vpn == b.vpn

/-- The TLBs that a walker serves hold the entry with D = 1. -/
def State.tlbDirty (s : State) (t : Nat) (rim : Option Nat) (e : TlbEntry) : State :=
  let f := List.map (fun o => if samePage o e then { o with d := true } else o)
  match rim with
  | none => (s.onCore (coreOf t) (fun c => { c with tlb := f c.tlb })).onDie (dieOf t) (fun d => { d with tlb := f d.tlb, tlbBig := f d.tlbBig })
  | some r =>
    { s with rimTlb := tput s.rimTlb r (f (tgetD s.rimTlb r [])) }.onDie ⟨r / 96 % 4, Nat.mod_lt _ (by decide)⟩
      (fun d => { d with tlb := f d.tlb, tlbBig := f d.tlbBig })

/-- The walker's atomic OR of D into a leaf, which never writes a malformed entry (R130, R132). -/
def State.orDirty (s : State) (p : Fin 8) (e : TlbEntry) : State :=
  let v := memRead s.mem e.leafAt 8
  if bf v 6 6 = 1 ∨ (bf v 0 0 = 1 ∧ s.malformed (s.walkBounds p e.fw) e.level v) then s
  else s.writeAtHome 0 e.leafAt (leBytes (setBf v 6 6 1) 8)

/-! ### Held writes (R295) -/

/-- A piece of the hold area holds a record of a stream: kept, or on its way home. -/
def State.pieceUsed (s : State) (t slot pc : Nat) : Bool :=
  (match tget (s.thread t).ss slot with
  | some (.stream x) => x.heldWrites.any (fun h => h.spilled.any (fun n => n / 64 == pc))
  | _ => false) ||
  s.flight.any (fun r => match r.by' with
    | .held u k (some n) => u == t && k == slot && n / 64 == pc
    | _ => false)

/-- Pieces of a stream without a record are free again. -/
def State.freePieces (s : State) (t slot : Nat) : State :=
  s.onPart (s.partOf t) (fun q => { q with holdUsed := q.holdUsed.filter (fun e => !(e.2.1 == t && e.2.2.1 == slot) || s.pieceUsed t slot e.1) })

/-! ### Writes at their homes -/

/-- New memory value of an AMO (R152). -/
def amoValue (f : Afn) (n m v : Nat) : Nat :=
  let a := readInt (8 * n) true m
  let b := readInt (8 * n) true v
  match f with
  | .add => (m + v) % 256 ^ n
  | .and => Nat.land m v
  | .or => Nat.lor m v
  | .xor => Nat.xor m v
  | .min => if b < a then v else m
  | .max => if a < b then v else m
  | .minu => Nat.min m v
  | .maxu => Nat.max m v
  | .swap => v
  | .fadd => ((if n = 4 then Fmt.fp32 else Fmt.fp64).add .rne .zero m v).bits

/-- Some bytes of a line set by their offsets. -/
def setBytes (line : List Byte) (bs : List (Nat × Byte)) : List Byte := bs.foldl (fun l e => l.set e.1 e.2) line

/-- The answer to a WPULL whose counter has moved on from the index it asked for: it begins again. -/
def claimAgain : Nat := 2 ^ 65

/-- The answer to a WORK instruction comes back to its thread: a value, or 2^64 and a reason. -/
def State.answerArea (s : State) (r : Req) (v : Nat) : State :=
  match r.by' with
  | .area t => s.onThread t (fun th => { th with reply := some v })
  | _ => s

/-- The indivisible step of a write whose line has no copies left elsewhere: a store is acknowledged, an atomic answered, an engine's write
or a walker's is over. -/
def State.performWrite (s : State) (r : Req) : State :=
  let lt := s.writerLt r
  let prev := (s.home (lineOf r.pa)).wts
  let fin (s : State) (v : List Byte) (poison : Bool) : State :=
    let s := s.reply { r with prev := prev } v poison .dir (s.home (lineOf r.pa)).wts
    match r.thread? with
    | some t => if r.acq then s.acquire t else s
    | none => s
  match r.kind with
  | .store v =>
    let s := s.writeAtHome lt r.pa (leBytes v r.size)
    s.performedAt { r with prev := prev } (.acked (s.home (lineOf r.pa)).wts)
  | .amo f v =>
    let old := memBytes s.mem r.pa r.size
    if s.isPoisoned r.pa then fin (s.countUncorr r.part r.pa) old true
    else fin (s.writeAtHome lt r.pa (leBytes (amoValue f r.size (leNat old) v) r.size)) old false
  | .cas c v =>
    let old := memBytes s.mem r.pa r.size
    if s.isPoisoned r.pa then fin (s.countUncorr r.part r.pa) old true
    else fin (if leNat old = c then s.writeAtHome lt r.pa (leBytes v r.size) else s) old false
  | .write bs =>
    let s := (s.writeAtHome 0 r.pa (setBytes (memBytes s.mem r.pa r.size) bs)).dropReq r.id
    match r.by' with
    | .held t k _ => s.freePieces t k
    | _ => s
  | .dirty e =>
    let s := (s.orDirty r.part e).dropReq r.id
    match r.by' with
    | .walker t rim => s.tlbDirty t rim e
    | _ => s
  | .claim tail want =>
    let i := memRead s.mem r.pa 8
    let s := s.dropReq r.id
    if i < tail ∧ i ≠ want then s.answerArea r claimAgain
    else if i < tail then (s.writeAtHome 0 r.pa (leBytes (i + 1) 8)).answerArea r i else s.answerArea r (2 ^ 64 - 1)
  | .close i code state =>
    let s := s.dropReq r.id
    if memRead s.mem r.pa 8 ≠ i ∨ memRead s.mem (r.pa + 15) 1 ≠ 1 then s.answerArea r (2 ^ 64 + 31)
    else (s.writeAtHome 0 (r.pa + 8) (leBytes code 4 ++ memBytes s.mem (r.pa + 12) 3 ++ leBytes state 1)).answerArea r 1
  | .load _ _ | .domain _ _ _ _ _ _ _ => s

/-- A write that no copy and no lease stands against any more: one to host memory is made once the host has acknowledged it (R318, R326). -/
def State.finishWrite (s : State) (r : Req) : State :=
  if hostLine (lineOf r.pa) && r.by' != .other then
    let (dl, s) := s.delay
    (s.setReq { r with stage := .host }).postAt dl (.backInvalidateResponse r.id)
  else s.performWrite r

/-- A write at its home: it waits for the answers of the copies the directory tracks (R325) and, for cxl-far memory, for the leases (R327). -/
def State.beginWrite (s : State) (r : Req) : State :=
  let line := lineOf r.pa
  match dirFind (s.die (homeDie r.pa)).dir line with
  | some e =>
    if e.dies.isEmpty && !e.host then (s.dirFreeLine (homeDie r.pa) line).performWrite r
    else
      let s := s.setReq { r with stage := .inval e.dies e.host }
      let s := e.dies.foldl (fun (s : State) d => let (dl, s) := s.delay; s.postAt dl (.l1Invalidation ⟨d % 4, Nat.mod_lt _ (by decide)⟩ line)) s
      if e.host then let (dl, s) := s.delay; s.postAt dl (.backInvalidateResponse r.id) else s
  | none =>
    let h := s.home line
    let until' := h.gmax + s.guardBand
    if r.mt = 2 ∧ 0 < h.gmax ∧ s.gtime (homeDie r.pa) ≤ until' then s.setReq { r with stage := .lease until' }
    else s.finishWrite r

/-- A write by an agent without a cache of its own, at the home at once: it is performed as soon as no copy elsewhere stands against it. -/
def State.engineReq (s : State) (by' : Requester) (p : Fin 8) (va : Addr) (pa size : Nat) (e : TlbEntry) (k : ReqKind) : State :=
  let r := s.request by' k va pa size e p s.tick
  let s := s.putReq r
  if s.mayPerform r then s.beginWrite r else s

/-- Bytes of one line by their offsets. -/
def State.engineStore (s : State) (by' : Requester) (p : Fin 8) (va : Addr) (pa : Nat) (e : TlbEntry) (bs : List (Nat × Byte)) : State :=
  s.engineReq by' p va (lineOf pa * 128) 128 e (.write bs)

/-- Offsets for bytes that stand together. -/
def offsetsFrom (off : Nat) (bs : List Byte) : List (Nat × Byte) := bs.zipIdx.map (fun e => (off + e.2, e.1))

/-- An entry that stands for HBM reached by its physical address; no address lies in its page. -/
def physEntry (p : Fin 8) : TlbEntry := ⟨p, false, 2 ^ 80, 6, 0, 0, false, false, false, false, true, 0⟩

/-- Write bytes that may pass line boundaries, line by line, to physical HBM. -/
def State.writePhys (s : State) (by' : Requester) (p : Fin 8) (pa : Nat) (bs : List Byte) : Nat → State
  | 0 => s
  | n + 1 =>
    let k := 128 - pa % 128
    if bs.isEmpty then s
    else (s.engineStore by' p 0 pa (physEntry p) (offsetsFrom (pa % 128) (bs.take k))).writePhys by' p (pa + k) (bs.drop k) n

/-- Ask the walker to set D in the leaf of a translation (R132), unless it has been asked. -/
def State.askDirty (s : State) (t : Nat) (rim : Option Nat) (p : Fin 8) (e : TlbEntry) : State :=
  if s.flight.any (fun r => r.by' == .walker t rim) then s else s.engineReq (.walker t rim) p 0 e.leafAt 8 (physEntry p) (.dirty e)

end Sys2Proof.Machine
end

