-- ==== Sys2Proof/Machine/Translate.lean ====
section
/-!
DEFINITION. Translation: table entries and walks (R127 to R132, R351, R427), TLBs and the miss queue (R139 to R143), and the checks of a
memory access (R144).
-/
namespace Sys2Proof.Machine

/-- Index of an address at a level (R127). -/
def vaIndex (va : Nat) (level : Nat) : Nat := va / 2 ^ (69 - 11 * level) % 2 ^ 11

/-- The walk below one table, with the levels left: each entry as its home holds it (R127, R141). -/
def State.walkTable (s : State) (p : Fin 8) (fw : Bool) (bounds : List (Nat × Nat)) (va : Nat) : Nat → Nat → Nat → Option TlbEntry
  | 0, _, _ => none
  | n + 1, level, table =>
    let at' := table + 8 * vaIndex va level
    let e := memRead s.mem at' 8
    if bf e 0 0 = 0 ∨ s.malformed bounds level e then none
    else if bf e 1 1 = 1 then
      some ⟨p, fw, va / 2 ^ pageBits level, level, bf e 56 14 * 2 ^ 14, bf e 10 8, bf e 5 5 = 1, bf e 4 4 = 1, bf e 3 3 = 1, bf e 2 2 = 1, bf e 6 6 = 1, at'⟩
    else s.walkTable p fw bounds va n (level + 1) (bf e 56 14 * 2 ^ 14)

/-- A whole walk for a partition and root (R128). -/
def State.walk (s : State) (p : Fin 8) (fw : Bool) (va : Addr) : Option TlbEntry :=
  let root := if fw then 0x150 else 0x140
  let q := s.part p
  let base := q.fld root 56 14 * 2 ^ 14
  let bounds := s.walkBounds p fw
  if q.fld root 0 0 = 0 ∨ (fw ∧ !inBounds bounds base (2 ^ 14)) ∨ !s.pageOk 0 base (2 ^ 14) then none
  else s.walkTable p fw bounds va.toNat 6 0 base

/-! ### TLBs (R139) -/

def tlbHit (p : Fin 8) (fw : Bool) (va : Addr) (e : TlbEntry) : Bool :=
  e.part == p && e.fw == fw && va.toNat / 2 ^ pageBits e.level == e.vpn

def tlbFind (l : List TlbEntry) (p : Fin 8) (fw : Bool) (va : Addr) : Option TlbEntry := l.find? (tlbHit p fw va)

/-- Put an entry into a TLB of a size; a full one gives up the entry that the open replacement names. -/
def tlbInsert (cap : Nat) (l : List TlbEntry) (e : TlbEntry) (ctr : Nat) : List TlbEntry :=
  let l := l.filter (fun o => !samePage o e)
  if l.length < cap then e :: l else e :: l.eraseIdx (Config.victim ctr % l.length)

def State.fillCore (s : State) (c : Nat) (e : TlbEntry) : State :=
  let (k, s) := s.fresh
  s.onCore c (fun co => { co with tlb := tlbInsert 64 co.tlb e k })

/-- A 64 GiB translation goes to the 256-entry part only. -/
def State.fillDie (s : State) (d : Fin 4) (e : TlbEntry) : State :=
  let (k, s) := s.fresh
  if e.level = 3 then s.onDie d (fun di => { di with tlbBig := tlbInsert 256 di.tlbBig e k })
  else s.onDie d (fun di => { di with tlb := tlbInsert 8192 di.tlb e k })

def State.fillRim (s : State) (r : Nat) (e : TlbEntry) : State :=
  let (k, s) := s.fresh
  { s with rimTlb := tput s.rimTlb r (tlbInsert 128 (tgetD s.rimTlb r []) e k) }

def Die.tlbFind (d : Die) (p : Fin 8) (fw : Bool) (va : Addr) : Option TlbEntry :=
  (Machine.tlbFind d.tlb p fw va).or (Machine.tlbFind d.tlbBig p fw va)

/-- Walk counters (R143). A walk that finds its root not present ends at no entry: it counts as completed and as a fault all the same
(DESIGN CHOICE, log 37). -/
def State.countWalk (s : State) (p : Fin 8) (failed : Bool) : State :=
  let s := s.bump p 0x160 127 64 1
  if failed then s.bump p 0x160 63 32 1 else s

/-- The partition's misses on a die, kept as a high-water mark (R143). Each miss counts as an entry of its own, also one that a walk for
another serves (DESIGN CHOICE, log 37). -/
def State.noteQueue (s : State) (d : Fin 4) (p : Fin 8) : State :=
  let n := ((s.die d).misses.filter (fun m => m.part == p)).length
  if (s.part p).fld 0x160 10 0 < n then s.onPart p (fun q => q.setFld 0x160 10 0 n) else s

/-- Misses that one walk serves: to one page, partition and root (R140). The page is that of the leaf the walk comes to; one that comes to none
stands for 16 KiB. -/
def State.merges (s : State) (a b : Miss) : Bool :=
  a.part == b.part && a.fw == b.fw &&
  (a.va.toNat / 2 ^ 14 == b.va.toNat / 2 ^ 14 || (s.walk a.part a.fw a.va).any (tlbHit a.part a.fw b.va))

/-- Walks of a queue start in order while fewer than 32 are in progress; a miss to a page that is being walked joins its walk (R140).
Each walk ends at a tick of its own; the first list holds the misses behind which the next stands. -/
def startWalks (same : Miss → Miss → Bool) (ends : Nat → Nat) : List Miss → List Miss → List Miss
  | done, [] => done
  | done, m :: r =>
    let m' : Miss :=
      if m.due.isSome then m
      else match (done ++ r).find? (fun n => same n m && n.due.isSome) with
        | some n => { m with due := n.due }
        | none =>
          let busy := ((done ++ r).filter (fun n => n.due.isSome)).foldl (fun l n => if l.any (same n) then l else n :: l) ([] : List Miss)
          if busy.length < 32 then { m with due := some (ends done.length) } else m
    startWalks same ends (done ++ [m']) r

/-- The walks of a die that may start do. -/
def State.startWalks (s : State) (d : Fin 4) : State :=
  let (k, s) := s.fresh
  s.onDie d (fun di => { di with misses := Machine.startWalks s.merges (fun n => s.tick + 1 + Config.delay (k + n)) [] di.misses })

/-- A miss enters the queue of a die, unless the same agent's stands there already. -/
def State.enqueue (s : State) (d : Fin 4) (m : Miss) : State :=
  if (s.die d).misses.any (fun o => o.who == m.who && o.va == m.va && o.fw == m.fw && o.kind == m.kind) then s
  else ((s.onDie d (fun di => { di with misses := di.misses ++ [m] })).noteQueue d m.part).startWalks d

/-- Whose page a walk served: the key under which an agent finds that its own access has been walked (R142). -/
def walkKey (va : Addr) (k : AccKind) (fw : Bool) : Nat :=
  (va.toNat / 2 ^ 14 * 4 + (match k with | .fetch => 1 | .load => 0 | .store => 2 | .atomic => 3)) * 2 + fw.toNat

/-! ### Checks of an access (R131 to R133, R144) -/

/-- Permission and memory type (R131, R133, R134). -/
def permOk (k : AccKind) (worker : Bool) (size : Nat) (e : TlbEntry) : Bool :=
  (!worker || !e.s) &&
  (match k with
  | .fetch => e.x
  | .load => e.r && !(e.mt == 4 && decide (size < 4))
  | .store => e.w && !(e.mt == 4 && decide (size < 4))
  | .atomic => e.r && e.w && e.mt != 4)

/-- What a translation answers: an address with its entry; a walk to wait for, already asked for; or a trap cause. -/
inductive Xlate where
  | ok (pa : Nat) (e : TlbEntry) (s : State)
  | wait (s : State)
  | trap (code : Nat) (s : State)

/-- Ask for a walk (R140). -/
def State.queueMiss (s : State) (t : Nat) (fw : Bool) (va : Addr) (k : AccKind) : State :=
  (s.enqueue (dieOf t) ⟨.thread t, s.partOf t, fw, va, k, some t, none, none⟩).onThread t (fun th => th.waitFor .walk)

def leafPa (e : TlbEntry) (va : Addr) : Nat := e.pa + va.toNat % 2 ^ pageBits e.level

/-- Translate an access of a thread: L1 TLB, last-level TLB, walk, whose failure the access takes; permission with the one re-walk of R142. -/
def State.xlate (s : State) (t : Nat) (va : Addr) (k : AccKind) (size : Nat) : Xlate :=
  let th := s.thread t
  let fw := th.cur == .firmware
  let p := s.partOf t
  let key := walkKey va k fw
  let (found, s) : Option TlbEntry × State :=
    match tlbFind (s.core (coreOf t)).tlb p fw va with
    | some e => (some e, s)
    | none => match (s.die (dieOf t)).tlbFind p fw va with
      | some e => (some e, s.fillCore (coreOf t) e)
      | none => (none, s)
  if th.walked.contains (key, 1) then .trap 0x04 s
  else match found with
  | none => .wait (s.queueMiss t fw va k)
  | some e =>
    if permOk k (th.cur == .worker) size e then .ok (leafPa e va) e s
    else if th.walked.contains (key, 0) then .trap 0x05 s
    else .wait (s.queueMiss t fw va k)

/-- The rim tile's die. -/
def rimDie (rim : Nat) : Fin 4 := ⟨rim / 96 % 4, Nat.mod_lt _ (by decide)⟩

/-- What an engine's translation comes to: an address with its entry, a wait for its walk or for the walker, or the cause 0x04 or 0x05. -/
inductive EXlate where
  | ok (pa : Nat) (e : TlbEntry) (s : State)
  | wait (s : State)
  | error (code : Nat) (s : State)

/-- The outcome of the walk an engine has asked for is used up by the access it was asked for. -/
def State.rimDone (s : State) (who : Requester) (key : Nat) : State := { s with rimWalks := s.rimWalks.filter (fun e => e.1 != who || e.2.1 != key) }

/-- A miss of an engine's access. -/
def State.rimMiss (s : State) (who : Requester) (rim : Nat) (p : Fin 8) (fw : Bool) (va : Addr) (k : AccKind) : State :=
  s.enqueue (rimDie rim) ⟨who, p, fw, va, k, none, some rim, none⟩

/-- Translation by an engine through the stream TLB of a rim tile, the last-level TLB and the miss queue (R139, R140, R142, R146). -/
def State.xlateRim (s : State) (who : Requester) (rim : Nat) (p : Fin 8) (m : Mode) (va : Addr) (k : AccKind) (size : Nat) : EXlate :=
  let fw := m == .firmware
  let key := walkKey va k fw
  let walked := (s.rimWalks.find? (fun e => e.1 == who && e.2.1 == key)).map (fun e => e.2.2)
  let (found, s) : Option TlbEntry × State :=
    match tlbFind (tgetD s.rimTlb rim []) p fw va with
    | some e => (some e, s)
    | none => match (s.die (rimDie rim)).tlbFind p fw va with
      | some e => (some e, s.fillRim rim e)
      | none => (none, s)
  if walked = some 1 then .error 0x04 (s.rimDone who key)
  else match found with
  | none => .wait (s.rimMiss who rim p fw va k)
  | some e =>
    if permOk k (m == .worker) size e then .ok (leafPa e va) e (s.rimDone who key)
    else if walked = some 0 then .error 0x05 (s.rimDone who key)
    else .wait (s.rimMiss who rim p fw va k)

/-- The same with D set first for a store (R132); the walker acts for the engine's thread. -/
def State.xlateRimW (s : State) (who : Requester) (t rim : Nat) (p : Fin 8) (m : Mode) (va : Addr) (size : Nat) : EXlate :=
  match s.xlateRim who rim p m va .store size with
  | .ok pa e s => if e.d then .ok pa e s else .wait (s.askDirty t (some rim) p e)
  | r => r

end Sys2Proof.Machine
end

