-- ==== Sys2Proof/Machine/Access.lean ====
section
/-!
DEFINITION. Memory accesses of a thread (R126, R144 to R157, R332, R333, R337): checks, copies in the L1 cache, requests sent to homes, device
registers, acquires and the order of a thread's accesses.
-/
namespace Sys2Proof.Machine

/-- Low 64 bits of an address, as sr.tval holds them. -/
def lo64 (va : Addr) : Word := va.truncate 64

/-! ### Run-ahead entries (R91) -/

/-- Run-ahead entries in use: the lanes of one VLD share one (R126). -/
def Thread.aheadCount (th : Thread) : Nat :=
  let lanes := th.ahead.filterMap (fun e => match e.2 with | .lane r _ => some r.val | _ => none)
  th.ahead.length - lanes.length + lanes.eraseDups.length

/-- An access sent by the executing thread that returns a value later takes a run-ahead entry, and the thread goes on (R91). -/
def State.goAhead (s : State) (dst : Dst) : State :=
  s.onMe (fun th => { th with ahead := th.ahead ++ [(s.nextId - 1, dst)] }.advance)

/-- The value has been obtained at once. -/
def State.finishLoad (s : State) (dst : Dst) (v : Nat) (acq : Bool) : State :=
  let s := s.onMe (fun th => (th.writeDst dst v).advance)
  if acq then s.acquire s.cur else s

/-- A run-ahead entry writes its destination and is released. An entry older than an open likely path belongs to the checkpoint too
(R96). -/
def Thread.settle (th : Thread) (id : Nat) (dst : Dst) (v : Nat) : Thread :=
  let clean := List.filter (fun e : Nat × Dst => e.1 != id)
  let now := { th.writeDst dst v with ahead := clean th.ahead }
  match th.path with
  | none => now
  | some p =>
    if p.ahead.any (fun e => e.1 == id) then
      let q := ({ th with x := p.x, a := p.a, v := p.v } : Thread).writeDst dst v
      { now with path := some { p with x := q.x, a := q.a, v := q.v, ahead := clean p.ahead } }
    else now

/-! ### Checks (R144) -/

inductive Chk where
  | ok (pa : Nat) (e : TlbEntry) (s : State)
  | stop (s : State)

/-- Alignment, translation, permission and type, home; for a store the D bit, which the walker sets before the access leaves issue (R132). A
failing check traps; a walk is waited for. -/
def State.check (s : State) (va : Addr) (k : AccKind) (size : Nat) : Chk :=
  if va.toNat % size ≠ 0 then .stop (s.trapSync 0x03 (lo64 va))
  else match s.xlate s.cur va k size with
    | .wait s => .stop s
    | .trap c s => .stop (s.trapSync c (lo64 va))
    | .ok pa e s =>
      if s.homeLost pa then .stop (s.trapSync 0x0A (lo64 va))
      else if (k = .store ∨ k = .atomic) ∧ !e.d then
        if s.overlap s.cur e.leafAt 8 then .stop (s.waitFor .memory)
        else
          let s := s.askDirty s.cur none (s.partOf s.cur) e
          if s.busy (.walker s.cur none) then .stop (s.waitFor .walk) else .ok pa e s
      else .ok pa e s

/-! ### Loads (R148, R332, R333) -/

/-- The clock slot a thread holds for a domain. -/
def Thread.slotFor (th : Thread) (dom : Nat) : Option ClockSlot := th.dclk.toList.find? (fun k => k.v && k.dom == dom)

/-- The minimum round of a bounded access with a slot, or the view (R332). -/
def minRound (slot : Option ClockSlot) (bound : Option Nat) (view : Nat) : Nat :=
  match slot, bound with
  | some k, some b => max (k.clk - b) k.floor
  | _, _ => view

/-- A copy that a thread may read: current for its core, and not a leased one older than what the thread's reads stand for (R320, R345; log 45). -/
def State.copyUsable (s : State) (t : Nat) (e : L1Line) : Bool :=
  copyCurrent (s.core (coreOf t)) (s.gtimeOf t) e && (match e.kind with
  | .lease rts => decide ((s.thread t).seen ≤ rts)
  | _ => true)

/-- The hint .EF on a copy that the core holds: the line is kept as a first victim (R147). -/
def State.keepFirst (s : State) (pa : Nat) (mo : Mo) : State :=
  if mo = .ef then s.onCore (coreOf s.cur) (fun c => { c with l1 := c.l1.map (fun l => { l with evictFirst := l.evictFirst || l.line == lineOf pa }) })
  else s

/-- A fill of the thread to a line in a domain is on its way: a later read of the line finds the copy it brings (R91, R333). -/
def State.fillAwaited (s : State) (t pa : Nat) : Bool :=
  s.flight.any (fun r => r.ofThread t && lineOf r.pa == lineOf pa && r.fills && (match r.kind, r.stage with
    | .domain _ _ _ _ _ _ _, .arrived _ _ => false
    | .domain _ _ _ _ _ _ _, _ => true
    | _, _ => false))

/-- A domain read of the executing thread: served by a copy tagged at least min, or sent to the home at once (R333). -/
def State.domainRead (s : State) (dst : Dst) (va : Addr) (pa size : Nat) (e : TlbEntry) (dom : Nat) (bound : Option Nat) (mo : Mo) (pref : Bool) : State :=
  let t := s.cur
  let p := s.partOf t
  let w := (s.part p).view dom (dieOf t)
  let m := minRound (s.me.slotFor dom) bound w
  let hit := (l1Find (s.core (coreOf t)).l1 (lineOf pa)).filter (fun c => match c.kind with | .tag g => decide (m ≤ g) | _ => false)
  if s.fillAwaited t pa then if pref then s.onMe Thread.advance else s.waitFor .memory
  else match hit with
  | some c =>
    if pref then (s.onMe Thread.advance).bump p 0x1B0 127 96 1
    else if s.overlap t pa size || s.owesAcq t s.me.acqBar then s.waitFor .memory
    else (((s.keepFirst pa mo).saw t c.dlt).finishLoad dst (leNat (copyBytes c pa size)) false).bump p 0x1B0 127 96 1
  | none =>
    let kind : ReqKind := .domain p dom m w (s.gtimeOf t) (mo != .na) (mo == .ef)
    let s := s.bump p 0x1B0 95 64 1
    if pref then (s.sendReq (.pref t) kind va pa size e p .none false false false 0 .sent).onMe Thread.advance
    else
      let s := s.sendReq (.thread t) kind va pa size e p dst false false false 0 .sent
      if w < m then s.waitFor (.sync (s.nextId - 1)) else s.goAhead dst

/-- A load leaves for its home; a later access waits for one that acquires (R150). -/
def State.sendLoad (s : State) (k : ReqKind) (dst : Dst) (va : Addr) (pa size : Nat) (e : TlbEntry) (acq : Bool) : State :=
  ((s.sendReq (.thread s.cur) k va pa size e (s.partOf s.cur) dst acq false acq 0 .sent).goAhead dst).onMe
    (fun th => if acq then { th with acqBar := s.nextId + 1 } else th)

/-- A checked load: from the register of a device, from a usable copy, or from the home (R148). On an open likely path no copy serves it: it is
performed at its home once the entry has come (R173). -/
def State.loadFrom (s : State) (dst : Dst) (va : Addr) (pa size : Nat) (e : TlbEntry) (mo : Mo) (acq : Bool) (bound : Option Nat) : State :=
  let t := s.cur
  let p := s.partOf t
  let dom := if acq || decide (2 < e.mt) then none else (s.part p).domainOf va
  if s.me.path.isSome && decide (2 < e.mt) then s.waitFor .likely
  else if e.mt = 4 then
    if s.owesAcq t s.me.acqBar then s.waitFor .memory else s.finishLoad dst (s.devRead pa size) acq
  else if s.me.aheadCount ≥ 64 then s.waitFor .slot
  else match dom with
    | some d => s.domainRead dst va pa size e d bound mo false
    | none =>
      let plain := ((s.part p).domainOf va).isNone && e.mt != 3
      let hit := if plain then (l1Find (s.core (coreOf t)).l1 (lineOf pa)).filter (s.copyUsable t) else none
      match hit with
      | some c =>
        let s := s.keepFirst pa mo
        if s.me.path.isSome || s.overlap t pa size || s.owesAcq t s.me.acqBar then s.sendLoad (.load false false) dst va pa size e acq
        else (s.saw t c.dlt).finishLoad dst (leNat (copyBytes c pa size)) acq
      | none => s.sendLoad (.load (plain && mo != .na) (mo == .ef)) dst va pa size e acq

/-- The instruction in issue is a domain read whose reply is awaited (R333). -/
def State.awaitsReply (s : State) : Bool :=
  match s.me.wait with
  | some ⟨.sync id, _, _⟩ => s.flight.any (fun r => r.id == id)
  | _ => false

/-- A load instruction of any form. -/
def State.load (s : State) (d : Fin 32) (va : Addr) (z : Sz) (mo : Mo) (acq : Bool) (bound : Option Nat) : Out :=
  if s.awaitsReply then .next s
  else match s.check va .load z.bytes with
  | .stop s => .next s
  | .ok pa e s => .next (s.loadFrom (loadDst d z) va pa z.bytes e mo acq bound)

/-- LD (R148). -/
def execLd (d : Fin 32) (a : Fin 16) (z : Sz) (mo : Mo) (o : BitVec 12) (st : State) : Out :=
  st.load d (effAddr (st.me.getA a) o z.bytes) z mo false none

/-- LDACQ (R150): LD with an acquire of system scope. -/
def execLdacq (d : Fin 32) (a : Fin 16) (z : Sz) (mo : Mo) (o : BitVec 12) (st : State) : Out :=
  st.load d (effAddr (st.me.getA a) o z.bytes) z mo true none

/-- LDB (R337): a load with a bound on how many rounds old a domain copy may be. -/
def execLdb (d : Fin 32) (a : Fin 16) (z : Sz) (b : Fin 16) (o : BitVec 10) (st : State) : Out :=
  st.load d (effAddr (st.me.getA a) o z.bytes) z .normal false (some b.val)

/-! ### Stores (R149, R150) -/

/-- A store leaves issue once its checks are complete; a device store is performed at its register at once (R134). Hints are ignored on
stream-buffer lines (R133). -/
def State.store (s : State) (va : Addr) (size v : Nat) (mo : Mo) (rel : Bool) : Out :=
  match s.check va .store size with
  | .stop s => .next s
  | .ok pa e s =>
    let t := s.cur
    let bar := if rel then s.nextId else s.me.relBar
    if e.mt = 4 then
      if s.owes t bar || s.owesAcq t s.me.acqBar then .next (s.waitFor .memory)
      else .next ((s.devWrite pa size v s.me.cur).onMe Thread.advance)
    else
      let s := s.sendReq (.thread t) (.store v) va pa size e (s.partOf t) .none false rel false bar .sent
      let s :=
        if e.mt = 3 then s
        else if mo = .na then s.onCaches (coreOf t) (fun c => { c with l1 := l1Remove c.l1 (lineOf pa) })
        else s.keepFirst pa mo
      .next (s.onMe Thread.advance)

/-- ST (R149). -/
def execSt (d : Fin 32) (a : Fin 16) (z : Sz) (mo : Mo) (o : BitVec 12) (st : State) : Out :=
  st.store (effAddr (st.me.getA a) o z.bytes) z.bytes (st.me.storeVal d z) mo false

/-- STREL (R150): ST performed after every earlier access of the thread. -/
def execStrel (d : Fin 32) (a : Fin 16) (z : Sz) (mo : Mo) (o : BitVec 12) (st : State) : Out :=
  st.store (effAddr (st.me.getA a) o z.bytes) z.bytes (st.me.storeVal d z) mo true

/-! ### Atomics (R152 to R154) -/

def amoAcq : AMo → Bool
  | .acq | .ar => true
  | _ => false
def amoRel : AMo → Bool
  | .rel | .ar => true
  | _ => false

/-- A stream, pool or copy of the thread is at work, or may go on (R300, R311, R314). -/
def Thread.enginesRun (th : Thread) : Bool :=
  let on (x : SlotState) : Bool := x == .run || x == .paused || x == .fault
  th.ss.any (fun e => match e.2 with
    | .stream x => on x.state
    | .chain _ => false) || th.pools.any (fun e => on e.2.state) || th.copies.any (fun e => on e.2.state)

/-- Another thread that a test selects is there, with its engines. -/
def State.others (s : State) (f : Nat → Bool) : Bool := s.threads.any (fun e => e.1 != s.cur && f e.1 && (e.2.st != .off || e.2.enginesRun))

/-- An ordering edge of a scope orders memory accesses: an agent of the scope besides the thread observes memory (R154, R343, R344). Of scopes 000
and 001 these are the engines that the thread started; of 010 those and the other threads of its die with theirs, of 011 those of the
module; of 100 the host too, which is always there (log 17). -/
def State.scoped (s : State) (c : Scope) : Bool :=
  match c with
  | .thr | .rgn => s.me.enginesRun
  | .die => s.me.enginesRun || s.others (fun t => dieOf t == dieOf s.cur)
  | .mod => s.me.enginesRun || s.others (fun _ => true)
  | .sys => true

/-- Issue an atomic: it is performed at the home, and its old value comes back later. -/
def State.atomic (s : State) (d : Fin 32) (a : Fin 16) (c : Scope) (mo : AMo) (z : Sz) (k : ReqKind) : Out :=
  let va := s.me.getA a
  match s.check va .atomic z.bytes with
  | .stop s => .next s
  | .ok pa e s =>
    if s.me.aheadCount ≥ 64 then .next (s.waitFor .slot)
    else
      let bar := if amoRel mo && s.scoped c then s.nextId else s.me.relBar
      let dst : Dst := if d = 0 then .none else .x d z
      let bars := amoAcq mo && s.scoped c
      let s := s.sendReq (.thread s.cur) k va pa z.bytes e (s.partOf s.cur) dst (amoAcq mo) (amoRel mo) bars bar .sent
      .next ((s.goAhead dst).onMe (fun th => if bars then { th with acqBar := s.nextId } else th))

/-- AMO (R152). -/
def execAmo (d : Fin 32) (a : Fin 16) (r : Fin 32) (f : Afn) (c : Scope) (mo : AMo) (z : Sz) (st : State) : Out :=
  st.atomic d a c mo z (.amo f ((st.me.getX r).toNat % 256 ^ z.bytes))

/-- CAS (R153): x[rd] is both the expected value, read at issue, and the destination. -/
def execCas (d : Fin 32) (a : Fin 16) (r : Fin 32) (c : Scope) (mo : AMo) (z : Sz) (st : State) : Out :=
  st.atomic d a c mo z (.cas ((st.me.getX d).toNat % 256 ^ z.bytes) ((st.me.getX r).toNat % 256 ^ z.bytes))

/-! ### PREF (R155) -/

/-- PREF changes no register and no memory and never traps. -/
def execPref (h : Hint) (a : Fin 16) (o : BitVec 12) (st : State) : Out :=
  let va := st.me.getA a + simm80 o
  match st.xlate st.cur va .load 8 with
  | .wait s => .next s
  | .trap _ s => .next (s.onMe Thread.advance)
  | .ok pa e s =>
    let t := s.cur
    if decide (2 < e.mt) then
      if s.me.path.isSome then .next (s.waitFor .likely) else .next (s.onMe Thread.advance)
    else if s.homeLost pa then .next (s.onMe Thread.advance)
    else match h with
      | .fillTile => .next ((s.touchL2 pa false).onMe Thread.advance)
      | .fillL1 =>
        let line := lineOf pa * 128
        match (s.part (s.partOf t)).domainOf va with
        | some d => .next (s.domainRead .none va line 128 e d none .normal true)
        | none =>
          if ((l1Find (s.core (coreOf t)).l1 (lineOf pa)).filter (copyCurrent (s.core (coreOf t)) (s.gtimeOf t))).isSome then .next (s.onMe Thread.advance)
          else .next ((s.sendReq (.pref t) (.load true false) va line 128 e (s.partOf t) .none false false false 0 .sent).onMe Thread.advance)

/-! ### VLD (R126) -/

/-- Address of a lane. -/
def vldAddr (th : Thread) (b t : Fin 16) (i : Fin 8) : Addr := th.getA b + simm80 ((th.getV t).get i)

/-- Checks of the active lanes in ascending order: the first failing lane traps; all pass with their addresses. -/
def State.vldCheck (s : State) (b t : Fin 16) : List (Fin 8) → List (Fin 8 × Addr × Nat × TlbEntry) → Except State (List (Fin 8 × Addr × Nat × TlbEntry) × State)
  | [], acc => .ok (acc, s)
  | i :: r, acc =>
    let va := vldAddr s.me b t i
    match s.check va .load 8 with
    | .stop s => .error s
    | .ok pa e s => s.vldCheck b t r (acc ++ [(i, va, pa, e)])

/-- The domain a lane's access lies in (R329). -/
def State.laneDomain (s : State) (va : Addr) (e : TlbEntry) : Option Nat := if decide (2 < e.mt) then none else (s.part (s.partOf s.cur)).domainOf va

/-- The copy that serves a lane, earlier accesses apart: a usable one, but not on an open likely path (R173), or in a domain one tagged at least
the view (R332). -/
def State.laneCopy (s : State) (va : Addr) (pa : Nat) (e : TlbEntry) : Option L1Line :=
  let core := s.core (coreOf s.cur)
  if 2 < e.mt then none else
    (l1Find core.l1 (lineOf pa)).filter (fun c =>
      match s.laneDomain va e, c.kind with
      | some k, .tag g => decide ((s.part (s.partOf s.cur)).view k (dieOf s.cur) ≤ g)
      | some _, _ => false
      | none, _ => s.me.path.isNone && s.copyUsable s.cur c)

/-- No earlier access of the thread stands before a lane's. -/
def State.laneClear (s : State) (pa : Nat) : Bool := !(s.overlap s.cur pa 8 || s.owesAcq s.cur s.me.acqBar)

/-- One lane's load: as LD.D, its value kept with the other lanes' until all have come. The first state is that before the VLD's own lanes. -/
def State.vldLane (s0 s : State) (d : Fin 16) (l : Fin 8 × Addr × Nat × TlbEntry) : State :=
  let (i, va, pa, e) := l
  let t := s.cur
  let p := s.partOf t
  let dom := s.laneDomain va e
  let hit := if s0.laneClear pa then s0.laneCopy va pa e else none
  let w := match dom with
    | some k => (s.part p).view k (dieOf t)
    | none => 0
  let stage : Stage := match hit with
    | some c => .arrived (copyBytes c pa 8) false
    | none => if e.mt = 4 then .arrived (leBytes (s.devRead pa 8) 8) false else .sent
  let kind : ReqKind := match dom with
    | some k => .domain p k w w (s.gtimeOf t) true false
    | none => .load (decide (e.mt < 3)) false
  let s := if dom.isSome then (if hit.isSome then s.bump p 0x1B0 127 96 1 else s.bump p 0x1B0 95 64 1) else s
  let s := s.sendReq (.thread t) kind va pa 8 e p (.lane d i) false false false 0 stage
  let s := match hit with
    | some c => s.saw t c.dlt
    | none => s
  s.onMe (fun th => { th with ahead := th.ahead ++ [(s.nextId - 1, .lane d i)] })

/-- The lanes of a VLD in flight of a thread's v register. -/
def State.vldReqs (s : State) (t : Nat) (d : Fin 16) : List Req :=
  s.flight.filter (fun r => r.ofThread t && (match r.dst with | .lane q _ => q == d | _ => false))

/-- When every lane has come, the register is written whole, masked lanes zero; a poisoned lane leaves it as it was (R126, R145). -/
def State.vldFinish (s : State) (t : Nat) (d : Fin 16) : State :=
  let rs := s.vldReqs t d
  if rs.isEmpty || !rs.all (fun r => match r.stage with | .arrived _ _ => true | _ => false) then s
  else
    let gone := { s.onThread t (fun th => { th with ahead := th.ahead.filter (fun e => match e.2 with | .lane q _ => q != d | _ => true) }) with
      flight := s.flight.filter (fun r => !rs.any (fun q => q.id == r.id)) }
    match rs.find? (fun r => match r.stage with | .arrived _ p => p | _ => false) with
    | some r => gone.raise t 0x13 (lo64 r.va)
    | none =>
      let val : Vector Word 8 := Vector.ofFn (fun i =>
        match rs.find? (fun r => r.dst == .lane d i) with
        | some r => (match r.stage with | .arrived v _ => BitVec.ofNat 64 (leNat v) | _ => 0)
        | none => 0)
      gone.onThread t (fun th =>
        let old := match th.path with
          | some p => p.ahead.any (fun e => rs.any (fun r => r.id == e.1))
          | none => false
        { th.setV d val with path := if old then th.path.map (fun p => { p with v := p.v.set d.val val d.isLt }) else th.path })

/-- VLD (R126). -/
def execVld (d b t : Fin 16) (st : State) : Out :=
  let active := (List.finRange 8).filter (fun i => (st.me.getM 0).getLsbD i.val)
  match st.vldCheck b t active [] with
  | .error s => .next s
  | .ok (ls, s) =>
    if s.me.path.isSome && ls.any (fun l => decide (2 < l.2.2.2.mt)) then .next (s.waitFor .likely)
    else if ls.any (fun l => decide (l.2.2.2.mt = 4)) && s.owesAcq s.cur s.me.acqBar then .next (s.waitFor .memory)
    else if ls.any (fun l => (s.laneDomain l.2.1 l.2.2.2).isSome && s.fillAwaited s.cur l.2.2.1) then .next (s.waitFor .memory)
    else if ls.any (fun l => (s.laneDomain l.2.1 l.2.2.2).isSome && (s.laneCopy l.2.1 l.2.2.1 l.2.2.2).isSome && !s.laneClear l.2.2.1) then .next (s.waitFor .memory)
    else if s.me.aheadCount ≥ 64 then .next (s.waitFor .slot)
    else if ls.isEmpty then .next (s.onMe (fun th => (th.setV d (Vector.replicate 8 0)).advance))
    else
      let s := ls.foldl (fun t l => s.vldLane t d l) s
      .next ((s.vldFinish s.cur d).onMe Thread.advance)

/-! ### Cache and translation maintenance (R156, R157) -/

/-- Fills of a core still on their way install nothing. -/
def State.unfillCore (s : State) (c : Nat) (line : Option Nat) : State :=
  let sel (r : Req) : Bool := reqCore r == some c && (match line with | some l => lineOf r.pa == l | none => true)
  s.unfill sel

/-- L1DROP (R157). -/
def execL1drop (st : State) : Out :=
  .next (((st.unfillCore (coreOf st.cur) none).onCaches (coreOf st.cur) (fun c => { c with l1 := [] })).onMe Thread.advance)

/-- The physical line an address translates to, permission apart; none waits or finds nothing (R157). -/
def execL1dropLine (a : Fin 16) (st : State) : Out :=
  let va := st.me.getA a
  let t := st.cur
  let fw := st.me.cur == .firmware
  let p := st.partOf t
  match (tlbFind (st.core (coreOf t)).tlb p fw va).or ((st.die (dieOf t)).tlbFind p fw va) with
  | some e =>
    let line := lineOf (leafPa e va)
    .next (((st.unfillCore (coreOf t) (some line)).onCaches (coreOf t) (fun c => { c with l1 := l1Remove c.l1 line })).onMe Thread.advance)
  | none =>
    if st.me.walked.contains (walkKey va .load fw, 1) then .next (st.onMe Thread.advance)
    else .next (st.queueMiss t fw va .load)

/-- Dies within a reach. -/
def reachDies (r : Reach) (t : Nat) : List Nat :=
  match r with
  | .die => [(dieOf t).val]
  | .module => [0, 1, 2, 3]

/-- Remove the partition's entries that a test selects from every TLB within reach (R156). -/
def State.tlbRemove (s : State) (p : Fin 8) (dies : List Nat) (sel : TlbEntry → Bool) : State :=
  let f := List.filter (fun e => !(e.part == p && sel e))
  { s with
    cores := s.cores.map (fun (k, c) => if dies.contains (k / 48) then (k, { c with tlb := f c.tlb }) else (k, c))
    dies := Vector.ofFn (fun i => if dies.contains i.val then { s.dies.get i with tlb := f (s.dies.get i).tlb, tlbBig := f (s.dies.get i).tlbBig } else s.dies.get i)
    rimTlb := s.rimTlb.map (fun (k, l) => if dies.contains (k / 96) then (k, f l) else (k, l)) }

/-- A held write of a partition's stream, already translated, whose translation a test selects (R156, R295). -/
def State.heldUses (s : State) (p : Fin 8) (used : Nat × Nat → Bool) : Bool :=
  s.threads.any (fun e => s.partOf e.1 == p && e.2.ss.any (fun x => match x.2 with
    | .stream y => y.heldWrites.any (fun h => h.tlbs.any used)
    | .chain _ => false))

/-- A context save, a forced swap or a WPULL of a partition is under way with a page, already translated, whose translation a test selects (R156). -/
def State.areaUses (s : State) (p : Fin 8) (used : Nat × Nat → Bool) : Bool :=
  s.threads.any (fun e => s.partOf e.1 == p && (match e.2.wait with
    | some ⟨.pages l, _, _⟩ => l.any (fun g => used g.tlb)
    | some ⟨.claim _ _ _ _ g, _, _⟩ => used (g.level, g.vpn)
    | _ => false)) ||
  s.regions.any (fun e => e.2.part == p && e.2.swap.any (fun w => w.pages.any (fun g => used g.tlb)))

/-- TLBINV (R156): privilege; earlier stores performed; walks of the partition within reach finished; entries removed; accesses translated
by a removed entry performed. -/
def State.tlbinv (s : State) (word : Nat) (reach : Reach) (sel : TlbEntry → Bool) (used : Nat × Nat → Bool) : Out :=
  let t := s.cur
  let p := s.partOf t
  let dies := reachDies reach t
  if s.me.cur = .worker then .next (s.privTrap word)
  else if s.me.path.isSome then .next (s.waitFor .likely)
  else if s.flight.any (fun r => r.ofThread t && r.isStore && !r.performed) then .next (s.waitFor .memory)
  else if fin4s.any (fun d => dies.contains d.val && (s.die d).misses.any (fun m => m.part == p)) then .next (s.waitFor .walk)
  else
    let s := s.tlbRemove p dies sel
    if s.flight.any (fun r => r.part == p && !r.performed && used r.tlb) || s.heldUses p used || s.areaUses p used then .next (s.waitFor .memory)
    else .next (s.onMe Thread.advance)

/-- TLBINV.PG (R156). -/
def execTlbinvPg (a : Fin 16) (r : Reach) (st : State) : Out :=
  let va := (st.me.getA a).toNat
  st.tlbinv ((encode (.tlbinvPg a r)).getD 0) r (fun e => va / 2 ^ pageBits e.level == e.vpn) (fun q => va / 2 ^ pageBits q.1 == q.2)

/-- TLBINV.ALL (R156). -/
def execTlbinvAll (r : Reach) (st : State) : Out :=
  st.tlbinv ((encode (.tlbinvAll r)).getD 0) r (fun _ => true) (fun _ => true)

end Sys2Proof.Machine
end

