-- ==== Sys2Proof/Machine/Arith.lean ====
section
/-!
DEFINITION. Integer and address arithmetic of access threads (R109 to R117): each meaning writes its destination and goes on.
-/
namespace Sys2Proof.Machine

/-- Write an x register computed from the thread and go on. -/
def writeX (d : Fin 32) (f : Thread → Word) (s : State) : Out := .next (s.onMe (fun th => (th.setX d (f th)).advance))

/-- Write an a register computed from the thread and go on. -/
def writeA (d : Fin 16) (f : Thread → Addr) (s : State) : Out := .next (s.onMe (fun th => (th.setA d (f th)).advance))

/-- A two-source x operation. -/
def binX (d a b : Fin 32) (f : Word → Word → Word) (s : State) : Out := writeX d (fun th => f (th.getX a) (th.getX b)) s

/-- 1 or 0. -/
def bit01 (b : Bool) : Word := if b then 1 else 0

/-- The low six bits of a shift operand (R109). -/
def shamt (b : Word) : Nat := b.toNat % 64

/-- Leading zeros, trailing zeros and one bits of the low w bits of a value (R111, R222). -/
def clzN (w n : Nat) : Nat := if n % 2 ^ w = 0 then w else w - 1 - Nat.log2 (n % 2 ^ w)
def ctzN : Nat → Nat → Nat
  | 0, _ => 0
  | w + 1, n => if n % 2 = 1 then 0 else 1 + ctzN w (n / 2)
def popN : Nat → Nat → Nat
  | 0, _ => 0
  | w + 1, n => n % 2 + popN w (n / 2)

/-- ALU group, ADD (R109). -/
def execAdd (d s t : Fin 32) (st : State) : Out := binX d s t (fun a b => a + b) st

/-- ALU group, SUB (R109). -/
def execSub (d s t : Fin 32) (st : State) : Out := binX d s t (fun a b => a - b) st

/-- ALU group, AND (R109). -/
def execAnd (d s t : Fin 32) (st : State) : Out := binX d s t (fun a b => a &&& b) st

/-- ALU group, OR (R109). -/
def execOr (d s t : Fin 32) (st : State) : Out := binX d s t (fun a b => a ||| b) st

/-- ALU group, XOR (R109). -/
def execXor (d s t : Fin 32) (st : State) : Out := binX d s t (fun a b => a ^^^ b) st

/-- ALU group, SLL (R109). -/
def execSll (d s t : Fin 32) (st : State) : Out := binX d s t (fun a b => a <<< shamt b) st

/-- ALU group, SRL (R109). -/
def execSrl (d s t : Fin 32) (st : State) : Out := binX d s t (fun a b => a >>> shamt b) st

/-- ALU group, SRA (R109). -/
def execSra (d s t : Fin 32) (st : State) : Out := binX d s t (fun a b => a.sshiftRight (shamt b)) st

/-- ALU group, SLT (R109). -/
def execSlt (d s t : Fin 32) (st : State) : Out := binX d s t (fun a b => bit01 (a.slt b)) st

/-- ALU group, SLTU (R109). -/
def execSltu (d s t : Fin 32) (st : State) : Out := binX d s t (fun a b => bit01 (a.ult b)) st

/-- ALU group, MIN (R109). -/
def execMin (d s t : Fin 32) (st : State) : Out := binX d s t (fun a b => if a.slt b then a else b) st

/-- ALU group, MAX (R109). -/
def execMax (d s t : Fin 32) (st : State) : Out := binX d s t (fun a b => if a.slt b then b else a) st

/-- ALU group, MINU (R109). -/
def execMinu (d s t : Fin 32) (st : State) : Out := binX d s t (fun a b => if a.ult b then a else b) st

/-- ALU group, MAXU (R109). -/
def execMaxu (d s t : Fin 32) (st : State) : Out := binX d s t (fun a b => if a.ult b then b else a) st

/-- MULDIV group, MUL (R43, R110). -/
def execMul (d s t : Fin 32) (st : State) : Out := binX d s t (fun a b => a * b) st

/-- MULDIV group, MULH (R43, R110). -/
def execMulh (d s t : Fin 32) (st : State) : Out := binX d s t (fun a b => BitVec.ofInt 64 (a.toInt * b.toInt / 2 ^ 64)) st

/-- MULDIV group, MULHU (R43, R110). -/
def execMulhu (d s t : Fin 32) (st : State) : Out := binX d s t (fun a b => BitVec.ofNat 64 (a.toNat * b.toNat / 2 ^ 64)) st

/-- MULDIV group, DIV (R43, R110). -/
def execDiv (d s t : Fin 32) (st : State) : Out := binX d s t (fun a b => if b = 0 then BitVec.allOnes 64 else BitVec.ofInt 64 (a.toInt.tdiv b.toInt)) st

/-- MULDIV group, DIVU (R43, R110). -/
def execDivu (d s t : Fin 32) (st : State) : Out := binX d s t (fun a b => if b = 0 then BitVec.allOnes 64 else a / b) st

/-- MULDIV group, REM (R43, R110). -/
def execRem (d s t : Fin 32) (st : State) : Out := binX d s t (fun a b => if b = 0 then a else BitVec.ofInt 64 (a.toInt.tmod b.toInt)) st

/-- MULDIV group, REMU (R43, R110). -/
def execRemu (d s t : Fin 32) (st : State) : Out := binX d s t (fun a b => if b = 0 then a else a % b) st

/-- BITS group, CLZ (R111). -/
def execClz (d s : Fin 32) (st : State) : Out := writeX d (fun th => BitVec.ofNat 64 (clzN 64 (th.getX s).toNat)) st

/-- BITS group, CTZ (R111). -/
def execCtz (d s : Fin 32) (st : State) : Out := writeX d (fun th => BitVec.ofNat 64 (ctzN 64 (th.getX s).toNat)) st

/-- BITS group, POPC (R111). -/
def execPopc (d s : Fin 32) (st : State) : Out := writeX d (fun th => BitVec.ofNat 64 (popN 64 (th.getX s).toNat)) st

/-- BITS group, BSWAP (R111). -/
def execBswap (d s : Fin 32) (st : State) : Out := writeX d (fun th => BitVec.ofNat 64 (leNat (leBytes (th.getX s).toNat 8).reverse)) st

/-- ADDI (R52, R112). -/
def execAddi (d s : Fin 32) (i : BitVec 16) (st : State) : Out := writeX d (fun th => th.getX s + simm64 i) st

/-- ANDI (R52, R112). -/
def execAndi (d s : Fin 32) (i : BitVec 16) (st : State) : Out := writeX d (fun th => th.getX s &&& zimm64 i) st

/-- ORI (R52, R112). -/
def execOri (d s : Fin 32) (i : BitVec 16) (st : State) : Out := writeX d (fun th => th.getX s ||| zimm64 i) st

/-- XORI (R52, R112). -/
def execXori (d s : Fin 32) (i : BitVec 16) (st : State) : Out := writeX d (fun th => th.getX s ^^^ zimm64 i) st

/-- SLTI (R52, R112). -/
def execSlti (d s : Fin 32) (i : BitVec 16) (st : State) : Out := writeX d (fun th => bit01 ((th.getX s).slt (simm64 i))) st

/-- SLTIU (R52, R112). -/
def execSltiu (d s : Fin 32) (i : BitVec 16) (st : State) : Out := writeX d (fun th => bit01 ((th.getX s).ult (simm64 i))) st

/-- SLLI (R113). -/
def execSlli (d s : Fin 32) (h : BitVec 6) (st : State) : Out := writeX d (fun th => th.getX s <<< h.toNat) st

/-- SRLI (R113). -/
def execSrli (d s : Fin 32) (h : BitVec 6) (st : State) : Out := writeX d (fun th => th.getX s >>> h.toNat) st

/-- SRAI (R113). -/
def execSrai (d s : Fin 32) (h : BitVec 6) (st : State) : Out := writeX d (fun th => (th.getX s).sshiftRight h.toNat) st

/-- LUI (R114): SignExtend64(imm16 << 16). -/
def execLui (d : Fin 32) (i : BitVec 16) (st : State) : Out := writeX d (fun _ => simm64 i <<< 16) st

/-- AADD (R115). -/
def execAadd (d s : Fin 16) (t : Fin 32) (st : State) : Out := writeA d (fun th => th.getA s + simm80 (th.getX t)) st

/-- ASUB (R115). -/
def execAsub (d : Fin 32) (s t : Fin 16) (st : State) : Out := writeX d (fun th => (th.getA s - th.getA t).truncate 64) st

/-- AFROMX (R115). -/
def execAfromx (d : Fin 16) (s : Fin 32) (st : State) : Out := writeA d (fun th => (th.getX s).zeroExtend 80) st

/-- ATOX (R115). -/
def execAtox (d : Fin 32) (s : Fin 16) (st : State) : Out := writeX d (fun th => (th.getA s).truncate 64) st

/-- AHI (R115). -/
def execAhi (d : Fin 32) (s : Fin 16) (st : State) : Out := writeX d (fun th => BitVec.ofNat 64 ((th.getA s).toNat / 2 ^ 64)) st

/-- ASETHI (R115). -/
def execAsethi (d s : Fin 16) (t : Fin 32) (st : State) : Out :=
  writeA d (fun th => BitVec.ofNat 80 ((th.getX t).toNat % 2 ^ 16 * 2 ^ 64 + (th.getA s).toNat % 2 ^ 64)) st

/-- AADDI (R116). -/
def execAaddi (d s : Fin 16) (i : BitVec 16) (st : State) : Out := writeA d (fun th => th.getA s + simm80 i) st

/-- ADDPC (R117). -/
def execAddpc (d : Fin 16) (i : BitVec 22) (st : State) : Out := writeA d (fun th => relTarget th.pc i) st

/-- VIDX (R125). -/
def execVidx (d : Fin 16) (s t : Fin 32) (st : State) : Out :=
  .next (st.onMe (fun th => (th.setV d (Vector.ofFn (fun i => th.getX s + BitVec.ofNat 64 i.val * th.getX t))).advance))

/-- VADD (R125). -/
def execVadd (d s t : Fin 16) (st : State) : Out :=
  .next (st.onMe (fun th => (th.setV d (Vector.ofFn (fun i => (th.getV s).get i + (th.getV t).get i))).advance))

/-- VBCAST (R125). -/
def execVbcast (d : Fin 16) (s : Fin 32) (st : State) : Out :=
  .next (st.onMe (fun th => (th.setV d (Vector.replicate 8 (th.getX s))).advance))

/-- VCMP (R125). -/
def execVcmp (d : Fin 8) (s t : Fin 16) (st : State) : Out :=
  .next (st.onMe (fun th => (th.setM d (BitVec.ofNat 8 ((List.finRange 8).foldl
    (fun acc i => acc + (((th.getV s).get i).ult ((th.getV t).get i)).toNat * 2 ^ i.val) 0))).advance))

/-- VEXT (R125). -/
def execVext (d : Fin 32) (s : Fin 16) (t : Fin 32) (st : State) : Out :=
  writeX d (fun th => (th.getV s).get ⟨(th.getX t).toNat % 8, Nat.mod_lt _ (by decide)⟩) st

end Sys2Proof.Machine
end

