-- ==== Sys2Proof/Machine/RegionOps.lean ====
section
/-!
DEFINITION. Regions, their images and channels: names and look-ups (R69, R187, R188, R194, R205), bindings of ports (R164), channel buffers and the
way of tokens (R196, R403), ingress points and their buckets (R213, R430).
-/
namespace Sys2Proof.Machine

/-- Key of a region in the table: partition and handle (R188). -/
def rkey (p : Fin 8) (h : Nat) : Nat := p.val * 65536 + h

def Region.handle (r : Region) : Nat := r.die.val * 4096 + r.num
def Region.key (r : Region) : Nat := rkey r.part r.handle

/-- A region of the executing thread's partition. -/
def State.myRegion (s : State) (h : Nat) : Option Region := s.region (rkey (s.partOf s.cur) h)

/-- A region that a binding of a thread names is frozen (R368). -/
def State.frozenAt (s : State) (t : Nat) (h : BitVec 16) : Bool := (s.region (rkey (s.partOf t) h.toNat)).any Region.frozen

/-- The active image (R194). -/
def Region.image (r : Region) : Option Image := r.active.bind (fun k => r.slots.get k)

/-- Contexts run by an image: those of at least one block (R205). -/
def Image.runs (i : Image) (c : Nat) : Bool := i.blocks.any (fun b => b.ctxm.contains c)
def Region.runs (r : Region) (c : Nat) : Bool := r.image.any (fun i => i.runs c)

/-- Channel of a port, of an endpoint. -/
def Image.portChan (i : Image) (p : Nat) : Option Nat := i.chans.findIdx? (fun c => c.from' == .port p || c.to' == .port p)
def Image.chanFrom (i : Image) (b c : Nat) : Option Nat := i.chans.findIdx? (fun k => k.from' == .block b c)
def Image.chanTo (i : Image) (b c : Nat) : Option Nat := i.chans.findIdx? (fun k => k.to' == .block b c)

/-- The n-th instruction with K = 1 takes constant kn (R61): the index of an instruction's constant. -/
def kIndex (code : List Instr) (n : Nat) : Nat := ((code.take n).filter (fun i => match i.eSpec with | some (_, e) => e.k | none => false)).length

/-- The fixed constant an instruction of a block was loaded with. -/
def Block.loadedK (b : Block) (n : Nat) : Nat := ((b.loaded[kIndex b.code n]?).getD 0).toNat

/-- The constant of an instruction in a context, as ARGW left it. -/
def Block.constK (b : Block) (ctx n : Nat) : Word := ((tgetD b.consts ctx b.loaded)[kIndex b.code n]?).getD 0

def isPop : Instr → Bool
  | .pop _ => true
  | _ => false
def isPush : Instr → Bool
  | .push _ => true
  | _ => false
def isBqw : Instr → Bool
  | .bqw _ => true
  | _ => false

/-- Indices of a block's instructions that a test selects. -/
def Block.which (b : Block) (f : Instr → Bool) : List Nat := (b.code.zipIdx.filter (fun e => f e.1)).map (·.2)

/-- Endpoint of a channel instruction: the loaded constant (R179). -/
def Block.endpoint (b : Block) (n : Nat) : Nat := b.loadedK n % 16

/-- Channels that a block pops, and those it pushes or sends bq entries into. -/
def Image.pops (i : Image) (k : Nat) : List (Nat × Nat) :=
  match i.blocks[k]? with
  | some b => (b.which isPop).filterMap (fun n => (i.chanTo k (b.endpoint n)).map (fun c => (n, c)))
  | none => []
def Image.pushes (i : Image) (k : Nat) : List (Nat × Nat) :=
  match i.blocks[k]? with
  | some b => (b.which (fun x => isPush x || isBqw x)).filterMap (fun n => (i.chanFrom k (b.endpoint n)).map (fun c => (n, c)))
  | none => []

/-- A BQW of the image feeds the port (R179). -/
def Image.bqwPort (i : Image) (p : Nat) : Bool :=
  match i.portChan p with
  | none => false
  | some c => match (i.chans[c]?).map (fun k : Chan => k.from') with
    | some (Endpoint.block b e) => match i.blocks[b]? with
      | some bl => (bl.which isBqw).any (fun n => bl.endpoint n == e)
      | none => false
    | _ => false

/-! ### Bindings of a region's ports (R164) -/

/-- Who holds a (port, context): a queue, bq, a stream slot, a chain's send or receive port. -/
inductive Binding where
  | queue (t q : Nat) | bq (t : Nat) | stream (t slot : Nat) | chainS (t slot : Nat) | chainR (t slot : Nat) | pool (t slot : Nat) | copy (t slot : Nat)
  deriving DecidableEq, Repr

/-- Threads of a partition that may hold bindings to a region: those on its die. -/
def State.threadsOn (s : State) (p : Fin 8) (die : Fin 4) : List Nat :=
  (tkeys s.threads).filter (fun t => dieOf t == die && s.partOf t == p && (s.thread t).st != .off)

/-- A stream or chain that has ended holds no binding (R288, R387). -/
def liveSlot : SlotState → Bool
  | .run | .fault | .paused => true
  | _ => false

/-- The triple a pool or copy with TOKEN holds from its issue until its token is delivered (R310): region, port, context. -/
def Pool.triple (p : Pool) : Option (Nat × Nat × Nat) :=
  let ctl := bytesAt p.desc 95 1
  if bf ctl 2 2 = 1 then some (bytesAt p.desc 102 2, bytesAt p.desc 101 1, bf ctl 5 4) else none
def Copy.triple (c : Copy) : Option (Nat × Nat × Nat) :=
  let ctl := bytesAt c.desc 47 1
  if bf ctl 0 0 = 1 then some (bytesAt c.desc 44 2, bytesAt c.desc 46 1, bf ctl 2 1) else none
def Pool.holds (p : Pool) : Bool := p.tokenDue || p.state == .run || p.state == .fault
def Copy.holds (c : Copy) : Bool := c.tokenDue || c.state == .run || c.state == .fault

def Thread.bindings (t : Nat) (th : Thread) (rg : BitVec 16) : List (Nat × Nat × Binding) :=
  th.qs.filterMap (fun (k, q) => if q.region == rg then some (q.port, q.ctx.val, Binding.queue t k) else none) ++
  (match th.bq with
  | some b => if b.region == rg then [(b.port, b.ctx.val, .bq t)] else []
  | none => []) ++
  th.ss.flatMap (fun (k, x) =>
    match x with
    | .stream st => if st.region == rg && liveSlot st.state then [(st.port, st.ctx.val, Binding.stream t k)] else []
    | .chain c =>
      if c.region == rg && liveSlot c.state then
        (if c.sport == 0xFF then [] else [(c.sport, c.ctx.val, Binding.chainS t k)]) ++ (if c.rport == 0xFF then [] else [(c.rport, c.ctx.val, .chainR t k)]) ++
        ((c.map.filter (fun p => p != 0xFF)).map (fun p => (p, c.ctx.val, Binding.chainR t k)))
      else []) ++
  th.pools.filterMap (fun (k, p) => match p.triple with
    | some (h, port, c) => if p.holds && h == rg.toNat then some (port, c, Binding.pool t k) else none
    | none => none) ++
  th.copies.filterMap (fun (k, p) => match p.triple with
    | some (h, port, c) => if p.holds && h == rg.toNat then some (port, c, Binding.copy t k) else none
    | none => none)

/-- Every binding to a region, with its port and context. -/
def State.bindings (s : State) (r : Region) : List (Nat × Nat × Binding) :=
  (s.threadsOn r.part r.die).flatMap (fun t => (s.thread t).bindings t (BitVec.ofNat 16 r.handle))

def State.bindingAt (s : State) (r : Region) (port ctx : Nat) : Option Binding :=
  ((s.bindings r).find? (fun e => e.1 == port && e.2.1 == ctx)).map (·.2.2)

/-! ### Channels (R196, R403) -/

def chanKey (c ctx : Nat) : Nat := c * 4 + ctx
def Region.chan (r : Region) (c ctx : Nat) : ChanState := tgetD r.chans (chanKey c ctx) ChanState.empty
def Region.setChan (r : Region) (c ctx : Nat) (st : ChanState) : Region := { r with chans := tput r.chans (chanKey c ctx) st }

/-- Buffer slots of a channel free in a context: neither a token at hand, nor one on its way, nor a slot a round has claimed. -/
def Region.chanFree (r : Region) (c ctx : Nat) : Nat :=
  match r.image.bind (fun i => i.chans[c]?) with
  | some k => let st := r.chan c ctx; k.slots - (st.buf.length + st.reserved + st.transit.length)
  | none => 0

/-- A node of a die's fabric as (column, row), the rim tiles and access cores one step outside the grid (R13, R14). -/
abbrev Node := Int × Int

def coreNode (core : Nat) : Node := let n := core % 24; if core % 48 < 24 then (-1, 2 * n) else (48, 2 * n + 1)
def rimNode (rim : Nat) : Node := let n := rim % 48; if rim % 96 < 48 then (n, -1) else (n, 48)
def Region.ceNode (r : Region) (x y : Nat) : Node := (4 * r.bx + x, 4 * r.by' + y)
/-- Router of the memory tile (MU, MV) of a region (R13, R265). -/
def Region.mtNode (r : Region) (mu mv : Nat) : Node := (4 * r.bx + 2 * mu, 4 * r.by' + 4 * mv + 1)

/-- Links between two nodes, row then column; at least one cycle (R403). -/
def linkCount (a b : Node) : Nat := max 1 ((a.1 - b.1).natAbs + (a.2 - b.2).natAbs)

/-- Node of a coupler lane: it stands at the end of its row or column on its side, 0 N, 1 E, 2 S, 3 W (R11, R382, R430). -/
def laneNode (side lane : Nat) : Node :=
  match side with
  | 0 => (lane, -1)
  | 1 => (48, lane)
  | 2 => (lane, 48)
  | _ => (-1, lane)

/-- A hop field names a link port. -/
def viaLink (hop : Nat) : Bool := hop / 128 == 1

def Chain.first (c : Chain) : Bool := c.pos == 0
def Chain.last (c : Chain) : Bool := c.pos + 1 == c.npart

/-- Link hops of a chain, as ports; coupler hops, as sides. -/
def Chain.upLink (c : Chain) : Option Nat := if !c.first && viaLink c.up then some (c.up % 16) else none
def Chain.downLink (c : Chain) : Option Nat := if !c.last && viaLink c.down then some (c.down % 16) else none
def Chain.upSide (c : Chain) : Option Nat := if !c.first && !viaLink c.up then some (c.up % 16) else none
def Chain.downSide (c : Chain) : Option Nat := if !c.last && !viaLink c.down then some (c.down % 16) else none

/-- The die a coupler side faces (R9). -/
def neighbour (die side : Nat) : Option Nat :=
  match die, side with
  | 0, 1 => some 1
  | 0, 2 => some 3
  | 1, 3 => some 0
  | 1, 2 => some 2
  | 2, 0 => some 1
  | 2, 3 => some 3
  | 3, 1 => some 2
  | 3, 0 => some 0
  | _, _ => none

/-- The die that owns a link port (R9), and the outer edge of it on which the port stands: two on each edge that faces no other die (R10; which two is
DESIGN CHOICE, log 40). -/
def portDie (n : Nat) : Fin 4 := ⟨n / 4 % 4, Nat.mod_lt _ (by decide)⟩
def portSide (n : Nat) : Nat := ((List.range 4).filter (fun side => (neighbour (portDie n).val side).isNone)).getD (n % 4 / 2) 0

/-- The side by which a link port's tokens meet a die: the port's own edge, or on another die the side toward the port's die, the first with a
neighbour where that die lies diagonally across. -/
def linkSide (die n : Nat) : Nat :=
  if (portDie n).val = die then portSide n
  else (((List.range 4).find? (fun side => neighbour die side == some (portDie n).val)).or ((List.range 4).find? (fun side => (neighbour die side).isSome))).getD 0

/-- A bucket's number and its node (R213). -/
structure Point where
  key : Nat
  node : Node

/-- Bucket of a rim tile's entry, of a coupler lane's entry; those of queue ports stand below them (log 40). -/
def rimPoint (rim : Nat) : Point := ⟨2 ^ 17 + rim, rimNode rim⟩
def lanePoint (die side lane : Nat) : Point := ⟨2 ^ 18 + (die * 4 + side) * 48 + lane, laneNode side lane⟩
def queuePoint (t q : Nat) : Point := ⟨t * 64 + q, coreNode (coreOf t)⟩

/-- Bucket of a link port's entry to a die, at the node the model gives the port: the spec names none (DESIGN CHOICE, log 40). -/
def linkPoint (die n : Nat) : Point := ⟨2 ^ 19 + die * 16 + n, laneNode (linkSide die n) (24 * (n % 2))⟩

/-- Where a chain meets its region: on the receive path of its lane, where the adder stands (R382), else at its lane on the side of its downstream coupler
hop; a chain with link hops alone at its upstream link port, else its downstream one (DESIGN CHOICE, log 40). -/
def Chain.point (c : Chain) (die : Nat) : Point :=
  match c.upSide.or c.downSide with
  | some side => lanePoint die side c.lane
  | none => linkPoint die ((c.upLink.or c.downLink).getD 0)

/-- The node of a bucket and its die, from its number. -/
def pointNode (key : Nat) : Node × Fin 4 :=
  if 2 ^ 19 ≤ key then
    let die := (key - 2 ^ 19) / 16 % 4
    ((linkPoint die (key % 16)).node, ⟨die, Nat.mod_lt _ (by decide)⟩)
  else if 2 ^ 18 ≤ key then
    let n := (key - 2 ^ 18) / 48
    (laneNode (n % 4) (key - 2 ^ 18 - n * 48), ⟨n / 4 % 4, Nat.mod_lt _ (by decide)⟩)
  else if 2 ^ 17 ≤ key then (rimNode (key - 2 ^ 17), ⟨(key - 2 ^ 17) / 96 % 4, Nat.mod_lt _ (by decide)⟩)
  else (coreNode (coreOf (key / 64)), dieOf (key / 64))

/-- Node of a block's CE. -/
def Region.blockNode (r : Region) (b : Nat) : Node :=
  match r.image.bind (fun i => i.blocks[b]?) with
  | some bl => r.ceNode bl.cx bl.cy
  | none => (0, 0)

/-- Where a bound port's tokens enter or leave: completion tokens have an entry of their thread's own at its core's node (R310, R317). -/
def State.bindingPoint (s : State) : Binding → Point
  | .queue t q => queuePoint t q
  | .bq t | .pool t _ | .copy t _ => queuePoint t 32
  | .stream t k => match tget (s.thread t).ss k with
    | some (.stream st) => rimPoint st.rim
    | _ => queuePoint t 32
  | .chainS t k | .chainR t k => match tget (s.thread t).ss k with
    | some (.chain c) => c.point (dieOf t).val
    | _ => queuePoint t 32

def State.bindingNode (s : State) (b : Binding) : Node := (s.bindingPoint b).node

/-- Cycles a token needs along a channel. -/
def State.chanHops (s : State) (r : Region) (c ctx : Nat) : Nat :=
  match r.image.bind (fun i => i.chans[c]?) with
  | none => 1
  | some k =>
    let node : Endpoint → Option Node := fun e => match e with
      | .block b _ => some (r.blockNode b)
      | .port p => (s.bindingAt r p ctx).map s.bindingNode
    match node k.from', node k.to' with
    | some a, some b => linkCount a b
    | _, _ => 1

/-- Put a token on its way along a channel. -/
def State.sendChan (s : State) (r : Region) (c ctx : Nat) (t : Token) : Region :=
  let st := r.chan c ctx
  r.setChan c ctx { st with transit := st.transit ++ [(t, s.chanHops r c ctx)] }

/-! ### Ingress points (R205, R209, R213, R430) -/

/-- The bogie, of its die, whose bucket setting governs tokens entering at a node (R430). -/
def entryBogie (n : Node) : Nat :=
  let cl (v : Int) : Nat := min 47 v.toNat
  12 * (cl n.2 / 4) + cl n.1 / 4

/-- Rate and depth that govern an ingress point, the clamp and the thermal hold included (R430, R431). -/
def State.bucketAt (s : State) (die : Fin 4) (n : Node) : Nat × Nat :=
  let (d, r) := s.bucket die.val (entryBogie n)
  (min (min r.toNat 1024) (if s.power.hot then 0 else (s.die die).clamp), min 4096 (max 1 d.toNat))

/-- Credit of a bucket in units of 1/1,024 token; one that is not listed is full. -/
def State.creditAt (s : State) (die : Fin 4) (p : Point) : Nat := tgetD s.credit p.key ((s.bucketAt die p.node).2 * 1024)

/-- A port's point is closed for a context. -/
def Region.portClosed (r : Region) (port ctx : Nat) : Bool := r.frozen || r.closedPorts.contains (port, ctx)

def isMarker (t : Token) : Bool := t.stop.val == 7

/-- Counting of an armed trigger as a token enters through a port (R211). -/
def Region.countTrigger (r : Region) (port : Nat) (t : Token) : Region :=
  match r.trigger with
  | some g =>
    if g.port == port && !g.fired && (if g.markers then isMarker t else t.stop.val == 0) then
      if g.left ≤ 1 then { r with trigger := some { g with left := 0, fired := true }, closedPorts := r.closedPorts ++ [0, 1, 2, 3].map (fun c => (port, c)) }
      else { r with trigger := some { g with left := g.left - 1 } }
    else r
  | none => r

/-- A token has passed an ingress point: what it leaves behind it there (R209, R211, R213). -/
def Region.passed (r : Region) (port ctx : Nat) (t : Token) : Region :=
  let rest := r.midway.filter (fun e => e != (port, ctx))
  let r := { r with midway := if isMarker t then rest else (port, ctx) :: rest }
  let r := r.countTrigger port t
  match r.swap with
  | some w => if w.forced.isSome && isMarker t then { r with closedPorts := r.closedPorts ++ [(port, ctx)] } else r
  | none => r

/-- Why a token of a port and context may not enter its channel now, or how it enters. -/
inductive Entry where
  | blocked
  | noCredit
  | enters (s : State)

/-- A bucket holds a token back: it has not the credit for one, and its rate is a limit (R213). -/
def State.lacksCredit (s : State) (die : Fin 4) (p : Point) : Bool := decide ((s.bucketAt die p.node).1 < 1024) && decide (s.creditAt die p < 1024)

/-- A token at an ingress point: the point open, a free buffer slot, credit in the bucket (R161, R213). -/
def State.tryEnter (s : State) (r : Region) (port ctx : Nat) (p : Point) (t : Token) : Entry :=
  match r.image.bind (fun i => i.portChan port) with
  | none => .blocked
  | some c =>
    if r.portClosed port ctx || r.chanFree c ctx == 0 then .blocked
    else
      if s.lacksCredit r.die p then .noCredit
      else .enters ({ s with credit := tput s.credit p.key (s.creditAt r.die p - 1024) }.setRegion r.key ((s.sendChan r c ctx t).passed port ctx t))

/-- The entry by which a restored token goes in: its port's, or for a port that nothing is bound to that of the first queue of the partition's
first thread on the die (log 40). -/
def State.portPoint (s : State) (r : Region) (port ctx : Nat) : Point :=
  match s.bindingAt r port ctx with
  | some b => s.bindingPoint b
  | none => queuePoint ((s.threadsOn r.part r.die).headD 0) 0

/-- Restored tokens of a port and context go first (R378), and with one the port has delivered its token of the cycle (R161). -/
def Region.restored (r : Region) (port ctx : Nat) : Bool := r.ingress.any (fun e => e.1 == port && e.2.ctx.val == ctx) || r.entered.contains (port, ctx)

/-- Region counters (R207). -/
def Region.count (r : Region) (k : Fin 6) (n : Nat := 1) : Region := { r with cnt := r.cnt.set k.val (r.cnt.get k + BitVec.ofNat 32 n) k.isLt }

end Sys2Proof.Machine
end

