-- ==== Sys2Proof/Machine/Freeze.lean ====
section
/-!
DEFINITION. Execute-side faults: the record a fault makes and the freeze of its region (R366, R368, R370).
-/
namespace Sys2Proof.Machine

/-- A region is in matrix mode while its active slot holds K-step tasks (R246). -/
def isMma : Instr → Bool
  | .mma _ => true
  | _ => false
def Block.isKstep (b : Block) : Bool := (b.code[0]?).any isMma
def Region.isMatrix (r : Region) : Bool := r.image.any (fun i => i.blocks.any Block.isKstep)

/-- Order of records detected at one time: CE before MT, then row, then column (R370). -/
def recordBefore (a b : FaultRecord) : Bool :=
  a.gtime == b.gtime && (decide (a.unit < b.unit) || (a.unit == b.unit && (a.y.ult b.y || (a.y == b.y && a.x.ult b.x))))

/-- A record joins the records that wait at the region root. -/
def insertFault (f : RegionFault) : List RegionFault → List RegionFault
  | [] => [f]
  | g :: r => if !g.gone && recordBefore f.record g.record then f :: g :: r else g :: insertFault f r

/-- A record joins its region's root, which it leaves within 64 cycles and one for each record ahead (R370). -/
def State.rootRecord (s : State) (key : Nat) (f : FaultRecord) : State :=
  let (k, s) := s.fresh
  s.onRegion key (fun r =>
    let ahead := (r.faults.filter (fun f => !f.gone)).length
    { r with faults := insertFault ⟨f, 1 + Config.delay k % 64 + ahead, false, false, false⟩ r.faults })

/-- A fault is detected: its record, and the freeze unless the region is frozen already; it takes hold in the next cycle, so that what other nodes
detect in this one is recorded too (R366, R368, R370). -/
def State.execFault (s : State) (key : Nat) (kind : Fin 10) (unit : Fin 4) (x y slot : Nat) (ctx : Fin 4) (round info : Nat) : State :=
  match s.region key with
  | none => s
  | some r =>
    let s := s.rootRecord key ⟨kind, r.part, s.module, BitVec.ofNat 16 r.handle, ctx, unit, BitVec.ofNat 8 x, BitVec.ofNat 8 y,
      BitVec.ofNat 8 slot, BitVec.ofNat 15 round, 0, BitVec.ofNat 64 (s.gtime r.die), 0, BitVec.ofNat 64 info⟩
    if r.frozen || r.freezing then s else (s.onRegion key (fun r => { r with freezing := true })).bump r.part 0x3F0 95 64 1

/-- The freeze of a region takes hold (R368). -/
def State.freeze (s : State) (key : Nat) : State :=
  match s.region key with
  | some r =>
    if r.freezing then
      let s := s.setRegion key { r with freezing := false, frozen := true }
      if r.isMatrix then s.post [.brakeEngage key true] else s
    else s
  | none => s

/-! ### The way to the fault server (R370 to R372) -/

/-- Records that wait in the module's fault tree. -/
def State.treeCount (s : State) : Nat := fin8s.foldl (fun n p => n + (s.part p).records.length) 0

/-- A record arrives in the module of its server: it takes one of 64 places, or is lost (R372). -/
def State.recordArrives (s : State) (server : Fin 8) (lidx : BitVec 16) (f : FaultRecord) : State :=
  if 64 ≤ s.treeCount then s.bump server 0x3F0 127 96 1
  else s.onPart server (fun q => { q with records := q.records ++ [(lidx, f)] })

/-- The port a record crosses by: the partition's first that is up toward the module, else its first that is up. -/
def State.recordPort (s : State) (p : Fin 8) (module : BitVec 16) : Option Nat :=
  let mine := (List.range 16).filter (fun n => (s.part p).fld 0x1D0 15 0 / 2 ^ n % 2 == 1 && (s.link n).state == 2)
  (mine.find? (fun n => (s.link n).peer == module)).or mine.head?

/-- A record leaves the root thread's core for the fault server that PCTL_FAULT names (R370, R371). -/
def State.sendRecord (s : State) (p : Fin 8) (f : FaultRecord) : State :=
  let q := s.part p
  let server : Fin 8 := ⟨q.fld 0x3C0 98 96 % 8, Nat.mod_lt _ (by decide)⟩
  let lidx := BitVec.ofNat 16 (q.fld 0x3C0 95 80)
  let module := BitVec.ofNat 16 (q.fld 0x3C0 127 112)
  if q.fld 0x3C0 64 64 = 0 then s.bump p 0x3F0 127 96 1
  else if module = s.module then s.recordArrives server lidx f
  else match s.recordPort p module with
    | some n => s.onLink n (fun l => { l with outbox := l.outbox ++ [.control (.record server lidx f)] })
    | none => s.bump p 0x3F0 127 96 1

/-- A record of a lost die's items (R372): of a thread, or of no thread, whose LIDX is zero and whose time is die 0's. -/
def State.lossOf (s : State) (p : Fin 8) (t : Option Nat) (kind : Fin 10) (unit : Fin 4) (addr info : Nat) : State :=
  let lidx : Nat := match t with
    | some t => if unit = 2 then (s.part p).lidx t else 0
    | none => 0
  s.sendRecord p ⟨kind, p, s.module, 0, 0, unit, 0xFF, 0xFF, 0xFF, 0, BitVec.ofNat 16 lidx, BitVec.ofNat 64 (s.gtime ((t.map dieOf).getD 0)),
    BitVec.ofNat 128 addr, BitVec.ofNat 64 info⟩

def State.lossRecord (s : State) (t : Nat) (kind : Fin 10) (unit : Fin 4) (addr info : Nat) : State := s.lossOf (s.partOf t) (some t) kind unit addr info

/-- A fault of a round on a CE (R372): block and instruction in INFO. -/
def State.ceFault (s : State) (key ceKey : Nat) (kind : Fin 10) (block : Nat) (ctx : Fin 4) (round instr : Nat) : State :=
  let slot := match (s.region key).bind (fun r => r.image.bind (fun i => i.blocks[block]?)) with
    | some b => b.slot
    | none => 0xFF
  s.execFault key kind 0 (ceKey % 64) (ceKey / 64) slot ctx (round % 2 ^ 15) (block % 2 ^ 16 + instr * 2 ^ 16)

end Sys2Proof.Machine
end

