-- ==== Sys2Proof/Machine/Elem.lean ====
section
/-!
DEFINITION. How an element instruction executes: where it stands, its operands (R61, R214, R215), stop tokens (R218), predication
(R216, R217), the sideband of what it delivers (R219), latencies and unit cycles (R221, R255, R262, R263, R392).
-/
namespace Sys2Proof.Machine

/-- The executing element instruction: its region, CE, round, block and index. -/
structure ECtx where
  rgn : Region
  ce : Ce
  round : Round
  block : Block
  ref : ElemRef

/-- The element instruction of a reference. -/
def State.elemOf (s : State) (e : ElemRef) : Option ECtx :=
  match s.region e.rgn with
  | none => none
  | some r =>
    match tget r.ces e.ce with
    | none => none
    | some c =>
      match c.rounds[e.round]? with
      | none => none
      | some rd => (r.image.bind (fun i => i.blocks[rd.block]?)).map (fun b => ⟨r, c, rd, b, e⟩)

def State.elemAt (s : State) : Option ECtx := s.elemOf s.elem

/-- Replace the executing CE and round. -/
def ECtx.put (x : ECtx) (s : State) (c : Ce) (rd : Round) : State :=
  s.setRegion x.ref.rgn { x.rgn with ces := tput x.rgn.ces x.ref.ce { c with rounds := c.rounds.set x.ref.round rd } }

/-! ### Operands -/

/-- The constant of the instruction, as its round started with it (R61, R212). -/
def ECtx.k (x : ECtx) : Word := (x.round.consts[kIndex x.block.code x.ref.instr]?).getD 0

/-- A constant as a token: every lane valid, STOP 0, GEN 0 (R61, R219). -/
def constToken (k : Word) : Token := ⟨0, 0, 0, 0, .i8, 0, 0xFFFF, Vector.replicate 16 k⟩

/-- A value that stands at a slot of an instruction of the round. -/
def Round.val (rd : Round) (n : Nat) (sl : Slot) : Option Token := (rd.vals.find? (fun v => v.1 == n && v.2.1 == sl)).map (·.2.2)

/-- The operand token at a slot. -/
def ECtx.operand (x : ECtx) (e : EWord) (sl : Slot) : Token :=
  if sl = .r ∧ e.k then constToken x.k else (x.round.val x.ref.instr sl).getD Token.empty

/-- The slots an instruction uses that a constant does not fill, in the order L, R, T, P (R60, R61). -/
def Instr.tokenSlots (i : Instr) : List Slot :=
  match i.eSpec with
  | none => []
  | some (sp, e) =>
    (if sp.l then [Slot.l] else []) ++ (if sp.r && !e.k then [.r] else []) ++ (if sp.t then [.t] else []) ++ (if e.p = .none then [] else [.p])

/-- STOP values at the used slots (R218). -/
def ECtx.stops (x : ECtx) (i : Instr) (e : EWord) : List (Fin 8) := (Instr.tokenSlots i).map (fun sl => (x.operand e sl).stop)

/-- GEN of the first operand that is no constant (R219). -/
def ECtx.gen (x : ECtx) (i : Instr) (e : EWord) : BitVec 8 :=
  match (Instr.tokenSlots i).head? with
  | some sl => (x.operand e sl).gen
  | none => 0

/-- Whether predication keeps a lane (R216, R217). -/
def ECtx.keeps (x : ECtx) (e : EWord) (l : Fin 16) : Bool :=
  match e.p with
  | .none => true
  | .pos => (x.operand e .p).pred l == some true
  | .neg => (x.operand e .p).pred l == some false

/-- Predication of a result token. -/
def ECtx.mask (x : ECtx) (e : EWord) (t : Token) : Token :=
  if e.p = .none then t else t.ofLanes (fun l => if t.isValid l && x.keeps e l then some (t.lane l) else none)

/-- What RSH hashes for a result lane (R34). -/
def ECtx.rsh (x : ECtx) (l : Nat) : Rsh := ⟨l, x.round.num % 2 ^ 15, x.block.seed⟩

/-- The W type of the instruction and its width. -/
def wT (e : EWord) : EType := wType e.w.val
def wW (e : EWord) : Nat := etypeWidth (wT e)
def wFmt (e : EWord) : Fmt :=
  match etypeFmt (wT e) with
  | .ok f => f
  | .error _ => .fp32

/-- Bits of a lane read in a width. -/
def low (w : Nat) (v : Word) : Nat := v.toNat % 2 ^ w

/-! ### Latency and unit cycles (R221, R255, R262, R263, R392) -/

def isF64 (e : EWord) : Bool := wT e == .fp64
def isI64 (e : EWord) : Bool := wT e == .i64
def isFloatW (e : EWord) : Bool := match etypeFmt (wT e) with | .ok _ => true | .error _ => false

/-- Fabric cycles from an instruction's start to the filling of its targets. -/
def Instr.latency : Instr → Nat
  | .imul e | .imulh e | .imad e => if isI64 e then 4 else 3
  | .eFadd _ | .eFsub _ | .eFmul _ | .eFma _ | .fms _ | .fnma _ | .eFmin _ | .eFmax _ | .frnd _ => 4
  | .eFdiv e => if isF64 e then 16 else if wT e == .fp32 then 10 else 8
  | .eFsqrt e => if isF64 e then 20 else if wT e == .fp32 then 12 else 8
  | .eFcmpEq _ | .eFcmpNe _ | .eFcmpLt _ | .eFcmpLe _ | .eFcmpUn _ | .eFcmpOrd _ => 2
  | .exp2 _ | .log2 _ | .tanh _ | .sin _ | .cos _ => 8
  | .rcp e => if isF64 e then 16 else 8
  | .rsq e => if isF64 e then 20 else 8
  | .mxq _ | .mxdq _ | .cvt _ _ | .cvtSat _ _ => 3
  | .lperm _ | .lshf _ | .lbcast _ | .lidx _ | .lcnt _ | .join _ | .cmpct _ | .bnet _ | .bnetLoad _ => 2
  | .lred e | .lscan e => if isF64 e then 24 else if isFloatW e then 16 else 4
  | .accz _ | .accrd _ | .accwr _ | .accck _ | .accrs _ | .cmpx _ | .gmax _ => 2
  | .sorte _ => 10
  | .topk _ => 4
  | .renorm e => if isF64 e then 24 else 16
  | .pop _ | .push _ | .bqw _ | .mtgat _ | .mtsct _ | .mtsca _ | .mtamo _ | .mttas _ | .mtbin _ | .mtrule _ | .mma _ => 0
  | _ => 1

/-- Cycles an instruction holds the vector unit; src is the ETYPE of its L token, k its constant. -/
def Instr.unitCycles (i : Instr) (src : EType) (k : Word) : Nat :=
  match i with
  | .pop _ | .push _ | .bqw _ | .mtgat _ | .mtsct _ | .mtsca _ | .mtamo _ | .mttas _ | .mtbin _ | .mtrule _ | .mma _ => 0
  | .imul e | .imulh e | .imad e => if isI64 e then 2 else 1
  | .eFadd e | .eFsub e | .eFmul e | .eFma e | .fms e | .fnma e | .eFmin e | .eFmax e | .frnd e | .mxq e | .mxdq e | .lred e | .lscan e =>
    if isF64 e then 2 else 1
  | .eFdiv _ | .eFsqrt _ => Instr.latency i / 2
  | .rcp e => if isF64 e then 8 else 1
  | .rsq e => if isF64 e then 10 else 1
  | .cvt d _ | .cvtSat d _ => if src == .fp64 || d == .fp64 then 2 else 1
  | .cmpx e | .gmax e => if isF64 e || isI64 e then 2 else 1
  | .accrd _ => if wf k 5 4 = 1 then 2 else 1
  | .sorte _ => 5
  | .topk _ => 2
  | .renorm e => if isF64 e then 4 else 2
  | _ => 1

/-! ### Delivery -/

/-- Sideband of a delivered token (R219). -/
def ECtx.dress (x : ECtx) (i : Instr) (e : EWord) (t : Token) : Token :=
  { t with flags := 0, round := BitVec.ofNat 15 x.round.num, ctx := x.round.ctx, gen := x.gen i e }

/-- A stop token of a level (R65, R218). -/
def stopToken (level : Fin 8) (ty : EType) : Token := ⟨0, 0, 0, 0, ty, level, 0, Vector.replicate 16 0⟩

/-- A result on its way to a target, or in it already when the latency is zero. -/
def Round.send (rd : Round) (lat : Nat) (tg : Target) (t : Token) : Round :=
  match tg with
  | .none => rd
  | .to n sl => if lat = 0 then { rd with vals := rd.vals ++ [(n.val, sl, t)] } else { rd with inFlight := rd.inFlight ++ [(lat, n.val, sl, t)] }

/-- The instruction has started: its two results are on their way, its flags are noted, the unit is held (R220, R221). -/
def ECtx.finish (x : ECtx) (s : State) (i : Instr) (e : EWord) (t1 t2 : Token) (fl : FlagSet) : State :=
  let lat := Instr.latency i
  let rd := ((x.round.send lat e.t1 t1).send lat e.t2 t2)
  let rd := { rd with fired := rd.fired ++ [x.ref.instr], flags := rd.flags ||| fl }
  let u := Instr.unitCycles i (x.operand e .l).etype x.k
  x.put s { x.ce with busy := if u = 0 then x.ce.busy else u } rd

/-- A fault of the executing round (R366): it never commits, and the region freezes. -/
def ECtx.fault (x : ECtx) (s : State) (kind : Fin 10) : State :=
  (x.put s x.ce { x.round with bad := true }).ceFault x.ref.rgn x.ref.ce kind x.round.block x.round.ctx x.round.num x.ref.instr

/-- What one instruction computes from a data round: two result tokens and flags. -/
abbrev EResult := Token × Token × FlagSet

/-- An element instruction under the stop rule (R218): a data round computes, a stop is passed on with the result's ETYPE, and different
STOPs are a channel protocol violation. -/
def elem (i : Instr) (e : EWord) (ty : ECtx → EType × EType) (f : ECtx → EResult) (s : State) : Out :=
  match s.elemAt with
  | none => .next s
  | some x =>
    let st := x.stops i e
    match st.head? with
    | none => let r := f x; .next (x.finish s i e (x.dress i e (x.mask e r.1)) (x.dress i e (x.mask e r.2.1)) r.2.2)
    | some a =>
      if st.any (fun b => b != a) then .next (x.fault s 1)
      else if a = 0 then let r := f x; .next (x.finish s i e (x.dress i e (x.mask e r.1)) (x.dress i e (x.mask e r.2.1)) r.2.2)
      else .next (x.finish s i e (x.dress i e (stopToken a (ty x).1)) (x.dress i e (stopToken a (ty x).2)) 0)

/-- The same result at both targets. -/
def both (t : Token) (fl : FlagSet) : EResult := (t, t, fl)

/-- An element instruction with one result of a fixed type. -/
def elem1 (i : Instr) (e : EWord) (ty : EType) (f : ECtx → Token × FlagSet) (s : State) : Out :=
  elem i e (fun _ => (ty, ty)) (fun x => let r := f x; both r.1 r.2) s

/-- A result token of a type built lane by lane; a lane gives its pattern with its flags, or nothing. -/
def laneToken (ty : EType) (f : Fin 16 → Option Res) : Token × FlagSet :=
  let rs := lanes16.map f
  (({ Token.empty with etype := ty }).ofLanes (fun l => (f l).map (fun r : Res => BitVec.ofNat 64 r.bits)),
   rs.foldl (fun (fl : FlagSet) (r : Option Res) => match r with | some r => fl ||| r.flags | none => fl) 0)

/-- A lane computes when it is valid in every operand it uses and predication keeps it (R217). -/
def ECtx.active (x : ECtx) (e : EWord) (slots : List Slot) (l : Fin 16) : Bool :=
  slots.all (fun sl => (x.operand e sl).isValid l) && x.keeps e l

/-- Lane-wise operation on L alone, on L and R, on L, R and T, with the lane number. -/
def ECtx.map1 (x : ECtx) (e : EWord) (ty : EType) (f : Nat → Word → Res) : Token × FlagSet :=
  let a := x.operand e .l
  laneToken ty (fun l => if x.active e [.l] l then some (f l.val (a.lane l)) else none)
def ECtx.map2 (x : ECtx) (e : EWord) (ty : EType) (f : Nat → Word → Word → Res) : Token × FlagSet :=
  let a := x.operand e .l
  let b := x.operand e .r
  laneToken ty (fun l => if x.active e [.l, .r] l then some (f l.val (a.lane l) (b.lane l)) else none)
def ECtx.map3 (x : ECtx) (e : EWord) (ty : EType) (f : Nat → Word → Word → Word → Res) : Token × FlagSet :=
  let a := x.operand e .l
  let b := x.operand e .r
  let c := x.operand e .t
  laneToken ty (fun l => if x.active e [.l, .r, .t] l then some (f l.val (a.lane l) (b.lane l) (c.lane l)) else none)

/-- Data movement: the result carries L's ETYPE (R215, R218). -/
def elemMove (i : Instr) (e : EWord) (f : ECtx → EResult) (s : State) : Out :=
  elem i e (fun x => ((x.operand e .l).etype, (x.operand e .l).etype)) f s

end Sys2Proof.Machine
end

