-- ==== Sys2Proof/Machine/Special.lean ====
section
/-!
DEFINITION. The special functions EXP2, LOG2, RCP, RSQ, TANH, SIN and COS (R229): the exact value approximated from below in fixed
point with far more bits than any rounding of the three formats looks at, then rounded once with a sticky bit (log 13).
-/
namespace Sys2Proof.Machine

/-- Fraction bits of the fixed-point work. -/
def fixP : Nat := 300

/-- One in fixed point. -/
def fixOne : Nat := 2 ^ fixP

/-- Product of fixed-point numbers. -/
def fmulFix (a b : Nat) : Nat := a * b / fixOne

/-- Sum of y^k / k! for k from k up, the running term t = y^(k-1)/(k-1)!. -/
def expSeries (y : Nat) : Nat → Nat → Nat → Nat
  | 0, _, _ => 0
  | n + 1, k, t => t + expSeries y n (k + 1) (fmulFix t y / k)

/-- e^y for 0 ≤ y < 1 in fixed point. -/
def expFix (y : Nat) : Nat := expSeries y 80 1 fixOne

/-- Sum of z^(2k+1)/(2k+1): atanh of z in fixed point; with alternate signs, arctan. -/
def atanhSeries (zz : Nat) : Nat → Nat → Nat → Nat
  | 0, _, _ => 0
  | n + 1, k, t => t / k + atanhSeries zz n (k + 2) (fmulFix t zz)

/-- ln 2 = 2 atanh(1/3) in fixed point. -/
def ln2Fix : Nat := 2 * atanhSeries (fixOne / 9) 110 1 (fixOne / 3)

/-- arctan(1/n) with p fraction bits. -/
def atanInv (nn : Nat) : Nat → Nat → Nat → Int
  | 0, _, _ => 0
  | f + 1, k, t => (t / k : Nat) - atanInv nn f (k + 2) (t / nn)

/-- Fraction bits of π: enough to reduce the largest finite argument of FP32 and BF16. -/
def piP : Nat := 480

/-- π in fixed point with piP fraction bits (Machin). -/
def piFix : Int := 16 * atanInv 25 110 1 (2 ^ piP / 5) - 4 * atanInv 57121 40 1 (2 ^ piP / 239)

/-- 2^x for x = k + y / 2^fixP. -/
def exp2Exact (k : Int) (y : Nat) : Exact :=
  let v := expFix (fmulFix y ln2Fix)
  if k < 0 then ⟨false, v, fixOne * 2 ^ (-k).toNat, true⟩ else ⟨false, v * 2 ^ k.toNat, fixOne, true⟩

/-- ± m × 2^e in fixed point, rounded toward zero. -/
def toFix (m : Nat) (e : Int) : Nat :=
  let s := e + fixP
  if 0 ≤ s then m * 2 ^ s.toNat else m / 2 ^ (-s).toNat

/-- A magnitude just below m × 2^e. -/
def justBelow (neg : Bool) (m : Nat) (e : Int) : Exact := exactOf neg (m * 2 ^ 400 - 1) (e - 400) |> fun x => { x with sticky := true }

/-- EXP2 (R229). -/
def Fmt.exp2 (f : Fmt) (md : Rm) (rs : Rsh) (a : Nat) : Res :=
  match f.decode a with
  | .nan s => ⟨f.canonNan, if s then NV else 0⟩
  | .inf n => if n then ⟨0, 0⟩ else ⟨f.infBits false, 0⟩
  | .fin n m e =>
    if m = 0 then f.round md rs false ⟨false, 1, 1, false⟩
    else if 0 ≤ floorLog2 (exactOf n m e).num (exactOf n m e).den - 11 then
      f.round md rs false (if n then ⟨false, 1, 2 ^ 2000, true⟩ else ⟨false, 2 ^ 2000, 1, true⟩)
    else
      let x := exactOf n m e
      let whole := x.num / x.den
      let frac := toFix m e % fixOne
      if x.num % x.den = 0 then
        f.round md rs false (if n then ⟨false, 1, 2 ^ whole, false⟩ else ⟨false, 2 ^ whole, 1, false⟩)
      else if frac = 0 then
        f.round md rs false (if n then justBelow false 1 0 else ⟨false, 2 ^ 400 + 1, 2 ^ 400, true⟩)
      else f.round md rs false (if n then exp2Exact (-(whole : Int) - 1) (fixOne - frac) else exp2Exact whole frac)

/-- LOG2 (R229): x = 2^k z with 1 ≤ z < 2, log2 x = k + 2 atanh((z-1)/(z+1)) / ln 2. -/
def Fmt.log2 (f : Fmt) (md : Rm) (rs : Rsh) (a : Nat) : Res :=
  match f.decode a with
  | .nan s => ⟨f.canonNan, if s then NV else 0⟩
  | .inf n => if n then ⟨f.canonNan, NV⟩ else ⟨f.infBits false, 0⟩
  | .fin n m e =>
    if m = 0 then ⟨f.infBits true, DZ⟩
    else if n then ⟨f.canonNan, NV⟩
    else
      let b := Nat.log2 m
      let k : Int := e + b
      if m = 2 ^ b then if k = 0 then ⟨0, 0⟩ else f.round md rs false ⟨decide (k < 0), k.natAbs, 1, false⟩
      else
        let t := (m - 2 ^ b) * fixOne / (m + 2 ^ b)
        let l := 2 * atanhSeries (fmulFix t t) 110 1 t * fixOne / ln2Fix
        let v : Int := k * fixOne + l
        f.round md rs false ⟨decide (v < 0), v.natAbs, fixOne, true⟩

/-- RCP (R229). -/
def Fmt.rcp (f : Fmt) (md : Rm) (rs : Rsh) (a : Nat) : Res := f.divVals md rs (.fin false 1 0) (f.decode a)

/-- RSQ (R229). -/
def Fmt.rsq (f : Fmt) (md : Rm) (rs : Rsh) (a : Nat) : Res :=
  match f.decode a with
  | .nan s => ⟨f.canonNan, if s then NV else 0⟩
  | .inf n => if n then ⟨f.canonNan, NV⟩ else ⟨0, 0⟩
  | .fin n m e =>
    if m = 0 then ⟨f.infBits n, DZ⟩
    else if n then ⟨f.canonNan, NV⟩
    else
      let (p, h) := evenExp m e
      let s := isqrt (4 ^ 200 / p)
      f.round md rs false { exactOf false s (-200 - h) with sticky := s * s * p != 4 ^ 200 }

/-- TANH (R229). Below 2^-40 the value lies just below x; above 2^6 just below 1. -/
def Fmt.tanh (f : Fmt) (md : Rm) (rs : Rsh) (a : Nat) : Res :=
  match f.decode a with
  | .nan s => ⟨f.canonNan, if s then NV else 0⟩
  | .inf n => f.round md rs false ⟨n, 1, 1, false⟩
  | .fin n m e =>
    if m = 0 then ⟨f.signBit n, 0⟩
    else
      let k := (Nat.log2 m : Int) + e
      if k < -40 then f.round md rs false (justBelow n m e)
      else if 6 ≤ k then f.round md rs false (justBelow n 1 0)
      else
        let t := 2 * toFix m e * fixOne / ln2Fix
        let ex := exp2Exact (t / fixOne : Nat) (t % fixOne)
        f.round md rs false ⟨n, ex.num - ex.den, ex.num + ex.den, true⟩

/-- Alternating series of sine (k = 2, t = r) and cosine (k = 1, t = 1) in fixed point. -/
def trigSeries (rr : Nat) : Nat → Nat → Nat → Int
  | 0, _, _ => 0
  | n + 1, k, t => (t : Int) - trigSeries rr n (k + 2) (fmulFix t rr / (k * (k + 1)))

/-- |x| = m × 2^e as a quadrant and a remainder in [0, π/2) in fixed point. -/
def reduceArg (m : Nat) (e : Int) : Nat × Nat :=
  let s := e + piP
  let x := if 0 ≤ s then m * 2 ^ s.toNat else m / 2 ^ (-s).toNat
  let h := piFix.toNat / 2
  (x / h % 4, (x % h) / 2 ^ (piP - fixP))

/-- SIN or COS of a finite nonzero argument from its quadrant (R229). -/
def trigValue (cosine neg : Bool) (quad r : Nat) : Exact :=
  let rr := fmulFix r r
  let s := trigSeries rr 90 2 r
  let c := trigSeries rr 90 1 fixOne
  let q := if cosine then quad + 1 else quad
  let v := if q % 2 = 0 then s else c
  let flip := q / 2 % 2 == 1
  ⟨(decide (v < 0) != flip) != (neg && !cosine), v.natAbs, fixOne, true⟩

/-- SIN (R229). -/
def Fmt.sin (f : Fmt) (md : Rm) (rs : Rsh) (a : Nat) : Res :=
  match f.decode a with
  | .nan s => ⟨f.canonNan, if s then NV else 0⟩
  | .inf _ => ⟨f.canonNan, NV⟩
  | .fin n m e =>
    if m = 0 then ⟨f.signBit n, 0⟩
    else if (Nat.log2 m : Int) + e < -40 then f.round md rs false (justBelow n m e)
    else f.round md rs false (trigValue false n (reduceArg m e).1 (reduceArg m e).2)

/-- COS (R229). -/
def Fmt.cos (f : Fmt) (md : Rm) (rs : Rsh) (a : Nat) : Res :=
  match f.decode a with
  | .nan s => ⟨f.canonNan, if s then NV else 0⟩
  | .inf _ => ⟨f.canonNan, NV⟩
  | .fin n m e =>
    if m = 0 then f.round md rs false ⟨false, 1, 1, false⟩
    else if (Nat.log2 m : Int) + e < -40 then f.round md rs false (justBelow false 1 0)
    else f.round md rs false (trigValue true n (reduceArg m e).1 (reduceArg m e).2)

end Sys2Proof.Machine
end

