-- ==== Sys2Proof/Machine/ElemFp.lean ====
section
/-!
DEFINITION. Element floating point (R223 to R226), special functions (R229), conversions (R230) and block scales (R29 to R31, R231, R232),
reductions and scans (R47, R48, R235, R236).
-/
namespace Sys2Proof.Machine

/-- A float operation on the lanes' patterns in the W format, in the task mode (R223). -/
def float1 (i : Instr) (e : EWord) (f : Fmt → Rm → Rsh → Nat → Res) (s : State) : Out :=
  elem1 i e (wT e) (fun x => x.map1 e (wT e) (fun l a => f (wFmt e) x.block.tmode (x.rsh l) (low (wW e) a))) s
def float2 (i : Instr) (e : EWord) (f : Fmt → Rm → Rsh → Nat → Nat → Res) (s : State) : Out :=
  elem1 i e (wT e) (fun x => x.map2 e (wT e) (fun l a b => f (wFmt e) x.block.tmode (x.rsh l) (low (wW e) a) (low (wW e) b))) s
def float3 (i : Instr) (e : EWord) (f : Fmt → Rm → Rsh → Nat → Nat → Nat → Res) (s : State) : Out :=
  elem1 i e (wT e) (fun x => x.map3 e (wT e) (fun l a b c => f (wFmt e) x.block.tmode (x.rsh l) (low (wW e) a) (low (wW e) b) (low (wW e) c))) s

/-- FCMP of a condition (R226). -/
def fcmpE (i : Instr) (e : EWord) (c : Cmp) (s : State) : Out :=
  elem1 i e .i8 (fun x => x.map2 e .i8 (fun _ a b => (wFmt e).compare c (low (wW e) a) (low (wW e) b))) s

/-- FADD (R223). -/
def execEFadd (e : EWord) (st : State) : Out := float2 (.eFadd e) e Fmt.add st

/-- FSUB (R223). -/
def execEFsub (e : EWord) (st : State) : Out := float2 (.eFsub e) e Fmt.sub st

/-- FMUL (R223). -/
def execEFmul (e : EWord) (st : State) : Out := float2 (.eFmul e) e Fmt.mul st

/-- FDIV (R223). -/
def execEFdiv (e : EWord) (st : State) : Out := float2 (.eFdiv e) e Fmt.div st

/-- FSQRT (R223). -/
def execEFsqrt (e : EWord) (st : State) : Out := float1 (.eFsqrt e) e Fmt.sqrt st

/-- FMA (R223): a × b + c. -/
def execEFma (e : EWord) (st : State) : Out := float3 (.eFma e) e (fun f m r => f.fma m r false false) st

/-- FMS (R223): a × b − c. -/
def execFms (e : EWord) (st : State) : Out := float3 (.fms e) e (fun f m r => f.fma m r false true) st

/-- FNMA (R223): −(a × b) + c. -/
def execFnma (e : EWord) (st : State) : Out := float3 (.fnma e) e (fun f m r => f.fma m r true false) st

/-- FMIN (R225). -/
def execEFmin (e : EWord) (st : State) : Out := float2 (.eFmin e) e (fun f _ _ => f.minmax false) st

/-- FMAX (R225). -/
def execEFmax (e : EWord) (st : State) : Out := float2 (.eFmax e) e (fun f _ _ => f.minmax true) st

/-- FABS (R225): clears the sign bit. -/
def execFabs (e : EWord) (st : State) : Out := float1 (.fabs e) e (fun f _ _ a => ⟨a % 2 ^ (f.eb + f.fb), 0⟩) st

/-- FNEG (R225): inverts the sign bit. -/
def execFneg (e : EWord) (st : State) : Out := float1 (.fneg e) e (fun f _ _ a => ⟨Nat.xor a (2 ^ (f.eb + f.fb)), 0⟩) st

/-- FRND of one pattern (R224): an integral value of the format; the hash of RSH reads the encoding of the truncated value in the format. -/
def Fmt.integral (f : Fmt) (m : Rm) (rs : Rsh) (a : Nat) : Res :=
  match f.decode a with
  | .nan s => ⟨f.canonNan, if s then NV else 0⟩
  | .inf _ => ⟨a, 0⟩
  | .fin n mm e =>
    if mm = 0 ∨ 0 ≤ e then ⟨a, 0⟩
    else
      let x := exactOf n mm e
      let (q, r, d) := scaled x.num x.den 0
      let back (z : Nat) : Nat := if z = 0 then f.signBit n else (f.round .rtz Rsh.zero false ⟨n, z, 1, false⟩).bits
      let up := if m = .rsh then decide (r ≠ 0) && decide (rshHash rs (back q) < r * 2 ^ 32 / d) else roundsUp m n q r d false
      ⟨back (if up then q + 1 else q), if r = 0 then 0 else NX⟩

/-- FRND (R224). -/
def execFrnd (e : EWord) (st : State) : Out := float1 (.frnd e) e Fmt.integral st

/-- FCMP.EQ (R226). -/
def execEFcmpEq (e : EWord) (st : State) : Out := fcmpE (.eFcmpEq e) e .eq st

/-- FCMP.NE (R226). -/
def execEFcmpNe (e : EWord) (st : State) : Out := fcmpE (.eFcmpNe e) e .ne st

/-- FCMP.LT (R226). -/
def execEFcmpLt (e : EWord) (st : State) : Out := fcmpE (.eFcmpLt e) e .lt st

/-- FCMP.LE (R226). -/
def execEFcmpLe (e : EWord) (st : State) : Out := fcmpE (.eFcmpLe e) e .le st

/-- FCMP.UN (R226). -/
def execEFcmpUn (e : EWord) (st : State) : Out := fcmpE (.eFcmpUn e) e .un st

/-- FCMP.ORD (R226). -/
def execEFcmpOrd (e : EWord) (st : State) : Out := fcmpE (.eFcmpOrd e) e .ord st

/-- EXP2 (R229). -/
def execExp2 (e : EWord) (st : State) : Out := float1 (.exp2 e) e Fmt.exp2 st

/-- LOG2 (R229). -/
def execLog2 (e : EWord) (st : State) : Out := float1 (.log2 e) e Fmt.log2 st

/-- RCP (R229). -/
def execRcp (e : EWord) (st : State) : Out := float1 (.rcp e) e Fmt.rcp st

/-- RSQ (R229). -/
def execRsq (e : EWord) (st : State) : Out := float1 (.rsq e) e Fmt.rsq st

/-- TANH (R229). -/
def execTanh (e : EWord) (st : State) : Out := float1 (.tanh e) e Fmt.tanh st

/-- SIN (R229). -/
def execSin (e : EWord) (st : State) : Out := float1 (.sin e) e Fmt.sin st

/-- COS (R229). -/
def execCos (e : EWord) (st : State) : Out := float1 (.cos e) e Fmt.cos st

/-! ### Conversions (R40, R230) -/

/-- The rounding mode a CVT's W names: 110 is the task's. -/
def cvtMode (x : ECtx) (w : Nat) : Rm :=
  match w with
  | 0 => .rne
  | 1 => .rtz
  | 2 => .rup
  | 3 => .rdn
  | 4 => .rna
  | 5 => .rsh
  | _ => x.block.tmode

/-- A conversion of each lane from L's ETYPE. -/
def cvtE (i : Instr) (dest : EType) (sat : Bool) (e : EWord) (s : State) : Out :=
  elem1 i e dest (fun x => x.map1 e dest (fun l a =>
    convert dest sat (cvtMode x e.w.val) (x.rsh l) (decodeElem (x.operand e .l).etype (low (etypeWidth (x.operand e .l).etype) a)))) s

/-- CVT (R230). -/
def execCvt (dest : EType) (e : EWord) (st : State) : Out := cvtE (.cvt dest e) dest false e st

/-- CVT.SAT (R230). -/
def execCvtSat (dest : EType) (e : EWord) (st : State) : Out := cvtE (.cvtSat dest e) dest true e st

/-! ### Block scales (R29 to R31, R231, R232) -/
/-- A scale (R29): NaN, zero, or m × 2^e. -/
inductive Scale where
  | nan
  | zero
  | pos (m : Nat) (e : Int)
  deriving DecidableEq, Repr

def scaleOf (v : Nat) : Scale :=
  let e := bf v 19 12
  let m := bf v 11 0
  if e = 255 then .nan
  else if e = 0 then if m = 0 then .zero else .pos m (-138)
  else .pos (m + 4096) ((e : Int) - 139)

/-- The float value of an element (R31): an integer element is its value. -/
def Src.toVal : Src → FVal
  | .float v => v
  | .int z => .fin (decide (z < 0)) z.natAbs 0

/-- The value an element contributes under a scale (R31). Under a NaN scale every element reads as a quiet NaN, an E5M2 signalling NaN too, which then
raises no invalid flag (DESIGN CHOICE, log 43: R31 does not say which NaN is read). -/
def scaled1 (v : FVal) (s : Scale) : FVal :=
  match s with
  | .zero => .fin false 0 0
  | .nan => .nan false
  | .pos m e =>
    match v with
    | .fin n mm ee => .fin n (mm * m) (ee + e)
    | v => v

/-- Conversion of a nonzero exact value (R40). -/
def convertExact (dst : EType) (sat : Bool) (m : Rm) (rs : Rsh) (x : Exact) : Res :=
  match etypeFmt dst with
  | .ok f => f.round m rs sat x
  | .error sg =>
    let w := etypeWidth dst
    let (z, ch) := roundInteger m rs w x
    if z < intMin w sg then ⟨wrapInt w (intMin w sg), if sat then SA else NV⟩
    else if intMax w sg < z then ⟨wrapInt w (intMax w sg), if sat then SA else NV⟩
    else ⟨wrapInt w z, if ch then NX else 0⟩

/-- MxQuantise (R231). -/
def mxQuantise (dst : EType) (sat : Bool) (m : Rm) (rs : Rsh) (v : FVal) (s : Scale) : Res :=
  match s with
  | .nan => convert dst sat m rs (.float (.nan false))
  | .zero => ⟨0, 0⟩
  | .pos sm se =>
    match v with
    | .fin n mm e =>
      if mm = 0 then convert dst sat m rs (.float v)
      else
        let d := e - se
        convertExact dst sat m rs ⟨n, if 0 ≤ d then mm * 2 ^ d.toNat else mm, if 0 ≤ d then sm else sm * 2 ^ (-d).toNat, false⟩
    | v => convert dst sat m rs (.float v)

/-- The narrow element types of scaled blocks (R231). -/
def mxType : Nat → Option EType
  | 0 => some .i8
  | 7 => some .i4
  | 12 => some .e4m3
  | 13 => some .e5m2
  | 14 => some .e2m1
  | 15 => some .e3m2
  | _ => none

/-- DEST of the control word in R lane 0, and whether the word is well formed (R231). -/
def mxDest (r : Token) : Option EType := if r.isValid 0 then mxType (wf (r.lane 0) 27 24) else none
def mxWordOk (r : Token) : Bool :=
  let w := r.lane 0
  (mxDest r).isSome && decide (wf w 63 32 = 0 ∧ wf w 30 28 = 0 ∧ wf w 23 20 = 0)

/-- A result with no valid lane that raises NV once. -/
def noLanes (ty : EType) : Token × FlagSet := ({ Token.empty with etype := ty }, NV)

/-- MXQ (R231). -/
def execMxq (e : EWord) (st : State) : Out :=
  let ty (x : ECtx) : EType := (mxDest (x.operand e .r)).getD .i8
  elem (.mxq e) e (fun x => (ty x, ty x)) (fun x =>
    let r := x.operand e .r
    let t := if mxWordOk r then
        x.map2 e (ty x) (fun l a c =>
          mxQuantise (ty x) (wf (r.lane 0) 31 31 = 1) x.block.tmode (x.rsh l) ((wFmt e).decode (low (wW e) a)) (scaleOf (wf c 19 0)))
      else noLanes (ty x)
    both t.1 t.2) st

/-- MXDQ (R232). -/
def execMxdq (e : EWord) (st : State) : Out :=
  elem1 (.mxdq e) e (wT e) (fun x =>
    let src := (x.operand e .l).etype
    if (mxType src.code).isSome then
      x.map2 e (wT e) (fun l a c =>
        (wFmt e).deliver x.block.tmode (x.rsh l) false (scaled1 (decodeElem src (low (etypeWidth src) a)).toVal (scaleOf (wf c 19 0))))
    else noLanes (wT e)) st

/-! ### Reductions and scans (R47, R48, R235, R236) -/

/-- An operation of R235 on two patterns of a type; lane is what RSH hashes. -/
def redOp (ty : EType) (op : Nat) (m : Rm) (rs : Rsh) (a b : Nat) : Res :=
  let w := etypeWidth ty
  match etypeFmt ty with
  | .ok f =>
    match op with
    | 0 => f.add m rs a b
    | 1 => f.mul m rs a b
    | 2 => f.minmax false a b
    | _ => f.minmax true a b
  | .error _ =>
    let x := readInt w true a
    let y := readInt w true b
    match op with
    | 0 => ⟨(a + b) % 2 ^ w, 0⟩
    | 1 => ⟨(a * b) % 2 ^ w, 0⟩
    | 2 => ⟨if x < y then a else b, 0⟩
    | 3 => ⟨if x < y then b else a, 0⟩
    | 4 => ⟨Nat.land a b, 0⟩
    | 5 => ⟨Nat.lor a b, 0⟩
    | 6 => ⟨Nat.xor a b, 0⟩
    | 7 => ⟨Nat.min a b, 0⟩
    | _ => ⟨Nat.max a b, 0⟩

/-- Identity of an operation (R47). -/
def redIdentity (ty : EType) (op : Nat) : Nat :=
  let w := etypeWidth ty
  match etypeFmt ty with
  | .ok f =>
    match op with
    | 0 => f.signBit true
    | 1 => f.bias * 2 ^ f.fb
    | 2 => f.infBits false
    | _ => f.infBits true
  | .error _ =>
    match op with
    | 1 => 1
    | 2 => 2 ^ (w - 1) - 1
    | 3 => 2 ^ (w - 1)
    | 4 | 7 => 2 ^ w - 1
    | _ => 0

/-- Whether a constant selects an operation that the type accepts (R235). -/
def redOk (ty : EType) (k : Nat) : Bool :=
  match etypeFmt ty with
  | .ok _ => decide (k < 4)
  | .error _ => decide (k < 9)

/-- A node of the tree that covers 2^level lanes from lo (R47). -/
def redNode (op : Nat → Nat → Nat → Res) (leaf : Nat → Nat) : Nat → Nat → Res
  | 0, lo => ⟨leaf lo, 0⟩
  | k + 1, lo =>
    let a := redNode op leaf k lo
    let b := redNode op leaf k (lo + 2 ^ k)
    let r := op lo a.bits b.bits
    ⟨r.bits, a.flags ||| b.flags ||| r.flags⟩

/-- Combination of the aligned blocks of lanes 0 to l, largest first, each step at lane l (R48). -/
def scanFrom (op : Nat → Nat → Nat → Res) (leaf : Nat → Nat) (l : Nat) : Nat → Nat → Option Res → Option Res
  | 0, _, acc => acc
  | k + 1, lo, acc =>
    if (l + 1) / 2 ^ k % 2 = 1 then
      let b := redNode op leaf k lo
      let acc' : Res := match acc with
        | none => b
        | some a => let r := op l a.bits b.bits; ⟨r.bits, a.flags ||| b.flags ||| r.flags⟩
      scanFrom op leaf l k (lo + 2 ^ k) (some acc')
    else scanFrom op leaf l k lo acc

/-- A NaN that no combination has touched is delivered as R27 says. -/
def settleNan (ty : EType) (r : Res) : Res :=
  match etypeFmt ty with
  | .ok f => match f.decode r.bits with
    | .nan s => ⟨f.canonNan, if s then r.flags ||| NV else r.flags⟩
    | _ => r
  | .error _ => r

def ECtx.redFns (x : ECtx) (e : EWord) : (Nat → Nat → Nat → Res) × (Nat → Nat) :=
  let ty := wT e
  let op := wf x.k 3 0
  let t := x.operand e .l
  (fun l a b => redOp ty op x.block.tmode (x.rsh l) a b,
   fun l => match lanes16[l]? with
    | some f => if t.isValid f then low (wW e) (t.lane f) else redIdentity ty op
    | none => 0)

/-- LRED (R236): lane 0 holds the value, valid even when no lane of L is. -/
def execLred (e : EWord) (st : State) : Out :=
  elem1 (.lred e) e (wT e) (fun x =>
    if redOk (wT e) x.k.toNat then
      let fs := x.redFns e
      laneToken (wT e) (fun l => if l = 0 ∧ x.keeps e 0 then some (redNode fs.1 fs.2 4 0) else none)
    else noLanes (wT e)) st

/-- LSCAN (R236): lane l holds the combination of lanes 0 to l, valid when L lane l is. -/
def execLscan (e : EWord) (st : State) : Out :=
  elem1 (.lscan e) e (wT e) (fun x =>
    if redOk (wT e) x.k.toNat then
      let fs := x.redFns e
      laneToken (wT e) (fun l => if x.active e [.l] l then (scanFrom fs.1 fs.2 l.val 5 0 none).map (settleNan (wT e)) else none)
    else noLanes (wT e)) st

end Sys2Proof.Machine
end

