-- ==== Sys2Proof/Machine/Matrix.lean ====
section
/-!
DEFINITION. Matrix regions (R44 to R46, R246 to R256): beats, the K-step, accumulator banks, MMA and the ACC instructions.
-/
namespace Sys2Proof.Machine

/-! ### Beats (R30, R66) -/

/-- A token's payload as one number. -/
def beatBits (t : Token) : Nat := leNat t.payload

/-- Element e of a beat and its count of elements. -/
def beatElem (t : Token) (e : Nat) : Nat := (beatBits t) / 2 ^ (e * etypeWidth t.etype) % 2 ^ etypeWidth t.etype
def beatCount (ty : EType) : Nat := 768 / etypeWidth ty

/-- Row index of a beat. -/
def beatRow (t : Token) : Nat := bf (beatBits t) 889 888

/-- Whether beats of a type are scaled (R30). -/
def scaledBeat (ty : EType) (sint : Bool) : Bool :=
  match ty with
  | .e4m3 | .e5m2 | .e3m2 | .e2m1 => true
  | .i8 | .i4 => sint
  | _ => false

/-- The value element e of a beat contributes (R31). -/
def beatVal (t : Token) (sint : Bool) (e : Nat) : FVal :=
  let v := (decodeElem t.etype (beatElem t e)).toVal
  if scaledBeat t.etype sint then scaled1 v (scaleOf (bf (beatBits t) (787 + 20 * (e / 32)) (768 + 20 * (e / 32)))) else v

/-! ### The K-step (R45, R46) -/

/-- MBITS of a block (R68). -/
def Block.sint (b : Block) : Bool := b.mbits % 2 == 1
def Block.satBit (b : Block) : Bool := b.mbits / 2 % 2 == 1
def Block.acc64 (b : Block) : Bool := b.mbits / 4 % 2 == 1

/-- Accumulator type of an input type (R45): I32, FP32 or FP64. -/
def accType (b : Block) (ty : EType) : EType :=
  match ty with
  | .i8 | .i4 => if b.sint then (if b.acc64 then .fp64 else .fp32) else .i32
  | .fp64 => .fp64
  | _ => if b.acc64 then .fp64 else .fp32

/-- Exact integer product sum of two unscaled integer beats. -/
def intDot (a b : Token) : Int :=
  (List.range (beatCount a.etype)).foldl (fun (s : Int) e =>
    s + readInt (etypeWidth a.etype) true (beatElem a e) * readInt (etypeWidth b.etype) true (beatElem b e)) 0

/-- One accumulator element after a K-step. -/
def kElem (bl : Block) (rs : Rsh) (acc : Word) (a b : Token) : Res :=
  match accType bl a.etype with
  | .i32 =>
    let z := readInt 32 true acc.toNat + intDot a b
    if bl.satBit then clampInt 32 true z else ⟨wrapInt 32 z, 0⟩
  | ty =>
    let f : Fmt := if ty = .fp64 then .fp64 else .fp32
    f.sum bl.tmode rs (.val (f.decode (acc.toNat % 2 ^ f.width)) ::
      (List.range (beatCount a.etype)).map (fun e => mulTerm (beatVal a bl.sint e) (beatVal b bl.sint e)))

/-- KStep (R46): all sixteen elements, count advanced, with the flags raised. -/
def Bank.kstep (k : Bank) (bl : Block) (as bs : List Token) : Bank × FlagSet :=
  let one (l : Fin 16) : Res :=
    kElem bl ⟨l.val, k.count.toNat % 2 ^ 15, bl.seed⟩ (k.live.get l) (as.getD (l.val / 4) Token.empty) (bs.getD (l.val % 4) Token.empty)
  ({ k with live := Vector.ofFn (fun l => BitVec.ofNat 64 (one l).bits), count := k.count + 1 },
   lanes16.foldl (fun fl l => fl ||| (one l).flags) 0)

/-- A bank effect at commit (R253, R254, R256). -/
def BankOp.bank : BankOp → Fin 4
  | .zero b | .write b _ _ | .check b | .restore b | .kstep b _ _ => b

/-- Lane bits of a type as a bank stores and reads them (R252): TY 01 is 64 bits wide, the others 32. -/
def tyBits (ty : Nat) (w : Word) : Word := if ty = 1 then w else BitVec.ofNat 64 (w.toNat % 2 ^ 32)

def BankOp.apply (o : BankOp) (bl : Block) (ctx : Fin 4) (k : Bank) : Bank × FlagSet :=
  match o with
  | .zero _ => ({ k with live := Vector.replicate 16 0, count := 0 }, 0)
  | .write _ ty t => ({ k with live := Vector.ofFn (fun l => if t.isValid l then tyBits ty (t.lane l) else 0), count := 0 }, 0)
  | .check _ => ({ k with check := k.live, checkCount := k.count, owner := some ctx }, 0)
  | .restore _ => ({ k with live := k.check, count := k.checkCount }, 0)
  | .kstep _ as bs => k.kstep bl as bs

/-! ### MMA (R249, R250, R254) -/

/-- ATYPE, BTYPE and BANK of the MMA constant. -/
def mmaA (k : Word) : EType := EType.ofCode (wf k 11 8)
def mmaB (k : Word) : EType := EType.ofCode (wf k 15 12)
def bankOf (k : Word) : Fin 4 := ⟨wf k 1 0 % 4, Nat.mod_lt _ (by decide)⟩

/-- Accepted pairings (R254). -/
def mmaPair (a b : EType) : Bool :=
  match a with
  | .e4m3 | .e5m2 => b == .e4m3 || b == .e5m2
  | .fp16 | .bf16 => b == .fp16 || b == .bf16
  | .e3m2 | .e2m1 | .fp32 | .fp64 | .i8 | .i4 => a == b
  | _ => false
def mmaConstOk (k : Word) : Bool := decide (wf k 63 16 = 0 ∧ wf k 7 2 = 0) && mmaPair (mmaA k) (mmaB k)

/-- The beats a K-step or stop round took from a register: slot L for A, slot T for B. -/
def Round.group (rd : Round) (sl : Slot) : List Token := (rd.vals.filter (fun v => v.1 == 0 && v.2.1 == sl)).map (·.2.2)

/-- MMA (R250, R254): a K-step round will update the bank at its commit; a stop round delivers the stop or marker at once. -/
def execMma (e : EWord) (st : State) : Out :=
  match st.elemAt with
  | none => .next st
  | some x =>
    let as := x.round.group .l
    match x.round.kind with
    | .kstep =>
      .next (x.put st x.ce { x.round with fired := x.round.fired ++ [x.ref.instr], bank := x.round.bank ++ [.kstep (bankOf x.k) as (x.round.group .t)] })
    | _ =>
      let a := as.headD Token.empty
      let t2 := x.dress (.mma e) e { Token.empty with stop := a.stop, etype := a.etype }
      let t1 := if a.stop = 7 then t2
        else x.dress (.mma e) e ((Token.empty).ofLanes (fun l => if l = 0 then some (BitVec.ofNat 64 a.stop.val) else none))
      .next (x.finish st (.mma e) e t1 t2 0)

/-! ### ACC instructions (R255, R256) -/

/-- The constant of an ACC instruction is within its layout; TY is zero except in ACCRD and ACCWR. -/
def accOk (typed : Bool) (k : Word) : Bool :=
  decide (wf k 63 6 = 0 ∧ wf k 3 2 = 0 ∧ wf k 5 4 ≠ 3) && (typed || decide (wf k 5 4 = 0))

/-- An ACC instruction that passes L and changes a bank at commit: on a data token, and on a marker where it acts there too. -/
def accOp (i : Instr) (e : EWord) (typed onMarker : Bool) (f : ECtx → Token → BankOp) (s : State) : Out :=
  match s.elemAt with
  | none => .next s
  | some x =>
    let a := x.operand e .l
    let acts := a.stop == 0 || (onMarker && a.stop == 7)
    if accOk typed x.k then
      let rd := if acts then { x.round with bank := x.round.bank ++ [f x a] } else x.round
      .next ({ x with round := rd }.finish s i e a a 0)
    else .next (x.finish s i e a a NV)

/-- ACCZ (R256). -/
def execAccz (e : EWord) (st : State) : Out := accOp (.accz e) e false false (fun x _ => .zero (bankOf x.k)) st

/-- ACCWR (R256). -/
def execAccwr (e : EWord) (st : State) : Out := accOp (.accwr e) e true false (fun x a => .write (bankOf x.k) (wf x.k 5 4) a) st

/-- ACCCK (R256): acts on the marker too. -/
def execAccck (e : EWord) (st : State) : Out := accOp (.accck e) e false true (fun x _ => .check (bankOf x.k)) st

/-- ACCRS (R256). -/
def execAccrs (e : EWord) (st : State) : Out := accOp (.accrs e) e false false (fun x _ => .restore (bankOf x.k)) st

/-- ETYPE of ACCRD's block token. -/
def accEtype (ty : Nat) : EType := if ty = 0 then .fp32 else if ty = 1 then .fp64 else .i32

/-- ACCRD (R256): reads the bank as it starts. -/
def execAccrd (e : EWord) (st : State) : Out :=
  match st.elemAt with
  | none => .next st
  | some x =>
    let a := x.operand e .l
    if !accOk true x.k then .next (x.finish st (.accrd e) e a a NV)
    else if a.stop ≠ 0 then .next (x.finish st (.accrd e) e { a with etype := accEtype (wf x.k 5 4) } { a with etype := .i64 } 0)
    else
      let k := x.ce.banks.get (bankOf x.k)
      let ty := wf x.k 5 4
      let block : Token := ({ Token.empty with etype := accEtype ty }).ofLanes (fun l => some (tyBits ty (k.live.get l)))
      let count : Token := ({ Token.empty with etype := .i64 }).ofLanes (fun l => if l = 0 then some (BitVec.ofNat 64 k.count.toNat) else none)
      let t1 := { x.dress (.accrd e) e block with round := BitVec.ofNat 15 k.count.toNat }
      .next (x.finish st (.accrd e) e t1 (x.dress (.accrd e) e count) 0)

end Sys2Proof.Machine
end

