-- ==== Sys2Proof/Machine/ElemMove.lean ====
section
/-!
DEFINITION. Element instructions that move lanes and tokens (R227, R233, R234, R237 to R242), the bit network (R243, R244), the channel
instructions POP, PUSH and BQW (R179 to R182), sort cells (R261 to R263) and the gate instructions (R392 to R395).
-/
namespace Sys2Proof.Machine

/-- Lane of a token by number, if it exists and is valid. -/
def Token.at' (t : Token) (n : Int) : Option Word :=
  if n < 0 then none
  else match lanes16[n.toNat]? with
    | some l => if t.isValid l then some (t.lane l) else none
    | none => none

/-- Values packed into lanes 0 upward. -/
def packed (t : Token) (vs : List Word) : Token := t.ofLanes (fun l => vs[l.val]?)

/-- The valid lanes in ascending order. -/
def Token.values (t : Token) : List Word := lanes16.filterMap (fun l => if t.isValid l then some (t.lane l) else none)

/-- SEL (R227). -/
def execSel (e : EWord) (st : State) : Out :=
  elemMove (.sel e) e (fun x =>
    let a := x.operand e .l
    both (a.ofLanes (fun l => match (x.operand e .t).pred l with
      | some true => Token.at' a l.val
      | some false => Token.at' (x.operand e .r) l.val
      | none => none)) 0) st

/-- LPERM (R233). -/
def execLperm (e : EWord) (st : State) : Out :=
  elemMove (.lperm e) e (fun x =>
    let a := x.operand e .l
    both (a.ofLanes (fun l => (Token.at' (x.operand e .r) l.val).bind (fun c => Token.at' a (wf c 3 0)))) 0) st

/-- LSHF (R233). -/
def execLshf (e : EWord) (st : State) : Out :=
  elemMove (.lshf e) e (fun x =>
    let a := x.operand e .l
    both (a.ofLanes (fun l => (Token.at' (x.operand e .r) 0).bind (fun c =>
      let j : Int := (l.val : Int) - sext 5 (wf c 4 0)
      Token.at' a (if wf c 5 5 = 1 then j % 16 else j)))) 0) st

/-- LBCAST (R233). -/
def execLbcast (e : EWord) (st : State) : Out :=
  elemMove (.lbcast e) e (fun x =>
    let a := x.operand e .l
    both (a.ofLanes (fun _ => (Token.at' (x.operand e .r) 0).bind (fun c => Token.at' a (wf c 3 0)))) 0) st

/-- LIDX (R234). -/
def execLidx (e : EWord) (st : State) : Out :=
  elem1 (.lidx e) e (wT e) (fun x =>
    let a := x.operand e .l
    laneToken (wT e) (fun l => if a.isValid l then some ⟨(lanes16.filter (fun j => decide (j < l) && a.isValid j)).length, 0⟩ else none)) st

/-- LCNT (R234). -/
def execLcnt (e : EWord) (st : State) : Out :=
  elem1 (.lcnt e) e (wT e) (fun x =>
    laneToken (wT e) (fun l => if l = 0 then some ⟨(Token.values (x.operand e .l)).length, 0⟩ else none)) st

/-- CMPCT (R234). -/
def execCmpct (e : EWord) (st : State) : Out :=
  elemMove (.cmpct e) e (fun x => both (packed (x.operand e .l) (Token.values (x.operand e .l))) 0) st

/-- SPLIT (R237). -/
def execSplit (e : EWord) (st : State) : Out :=
  elemMove (.split e) e (fun x =>
    let a := x.operand e .l
    let part (b : Bool) : Token := a.ofLanes (fun l => if (x.operand e .r).pred l = some b then Token.at' a l.val else none)
    (part true, part false, 0)) st

/-- JOIN (R238). -/
def execJoin (e : EWord) (st : State) : Out :=
  elemMove (.join e) e (fun x =>
    let a := x.operand e .l
    let vs := Token.values a ++ Token.values (x.operand e .r)
    if 16 ≤ vs.length then (packed a (vs.take 16), packed a (vs.drop 16), 0) else (packed a [], packed a vs, 0)) st

/-- FAN (R239). -/
def execFan (e : EWord) (st : State) : Out := elemMove (.fan e) e (fun x => both (x.operand e .l) 0) st

/-! ### Stop levels (R240 to R242) -/

/-- An instruction that the stop rule does not govern. -/
def elemFree (i : Instr) (e : EWord) (f : ECtx → Token) (s : State) : Out :=
  match s.elemAt with
  | none => .next s
  | some x => let t := x.dress i e (x.mask e (f x)); .next (x.finish s i e t t 0)

/-- R lane 0, an invalid one reading as 0. -/
def ECtx.r0 (x : ECtx) (e : EWord) : Nat := ((Token.at' (x.operand e .r) 0).getD 0).toNat

/-- STOPQ (R240). -/
def execStopq (e : EWord) (st : State) : Out :=
  elemFree (.stopq e) e (fun x =>
    let a := x.operand e .l
    let z : Token := { a with etype := .i8, stop := 0 }
    if a.stop = 7 then a
    else if a.stop = 0 then z.ofLanes (fun l => if a.isValid l then some 0 else none)
    else z.ofLanes (fun _ => some (if bf (x.r0 e) 2 0 ≤ a.stop.val then 1 else 0))) st

/-- STOPG (R241). -/
def execStopg (e : EWord) (st : State) : Out :=
  elemFree (.stopg e) e (fun x =>
    let a := x.operand e .l
    let v := bf (x.r0 e) 2 0
    if a.stop = 0 ∧ 1 ≤ v ∧ v ≤ 6 then stopToken ⟨v % 8, Nat.mod_lt _ (by decide)⟩ a.etype else a) st

/-- MARK (R242): the stop token it makes carries no lane (R65). -/
def execMark (e : EWord) (st : State) : Out :=
  elemFree (.mark e) e (fun x =>
    let a := x.operand e .l
    if a.stop = 0 ∨ a.stop = 7 then a
    else
      let n : Int := a.stop.val + sext 4 (bf (x.r0 e) 3 0)
      if n ≤ 0 then { Token.empty with etype := a.etype }
      else stopToken ⟨(Nat.min 6 n.toNat) % 8, Nat.mod_lt _ (by decide)⟩ a.etype) st

/-! ### Bit network (R243, R244) -/

/-- One result bit: a pattern byte selects a bit of the pair, or zero. -/
def bnetBit (pair : Nat) (p : Byte) : Nat := if p.getLsbD 7 then 0 else pair / 2 ^ (p.toNat % 128) % 2

/-- BNET in its apply form (R243). -/
def bnetApply (e : EWord) (st : State) : Out :=
  elem1 (.bnet e) e (wT e) (fun x =>
    let a := x.operand e .l
    let pat := x.ce.bn.get ⟨wf x.k 2 0 % 8, Nat.mod_lt _ (by decide)⟩
    laneToken (wT e) (fun l =>
      if x.active e [.l] l then
        let pair := (a.lane l).toNat + ((Token.at' a ((l.val + 1) % 16 : Nat)).getD 0).toNat * 2 ^ 64
        some ⟨(List.range (wW e)).foldl (fun n b => n + bnetBit pair (pat.getD b 0) * 2 ^ b) 0, 0⟩
      else none)) st

/-- BNET in its load form (R244): the patterns are written when the round commits; a stop round loads nothing. -/
def bnetLoad (e : EWord) (x : ECtx) (st : State) : Out :=
  let a := x.operand e .l
  let j := 2 * wf x.k 1 0
  let rd := if a.stop = 0 then { x.round with loads := x.round.loads ++ [(j, a.payload.take 64), (j + 1, a.payload.drop 64)] } else x.round
  elemMove (.bnet e) e (fun x => both (x.operand e .l) 0) (x.put st x.ce rd)

/-- BNET by bit 3 of its constant. -/
def State.bnet (s : State) (e : EWord) : Out :=
  match s.elemAt with
  | none => .next s
  | some x => if wf x.k 3 3 = 1 then bnetLoad e x s else bnetApply e s

/-- BNET (R243). -/
def execBnet (e : EWord) (st : State) : Out := st.bnet e

/-- BNET with bit 3 of its constant set (R244). -/
def execBnetLoad (e : EWord) (st : State) : Out := st.bnet e

/-! ### Channel instructions (R179 to R182) -/

/-- POP (R180): the token its round claimed, its sideband unchanged. Where the predicate token is a stop and the popped token is data, every lane is masked
and the popped token's STOP stays (DESIGN CHOICE, log 28). -/
def execPop (e : EWord) (st : State) : Out :=
  match st.elemAt with
  | none => .next st
  | some x =>
    let t := x.mask e ((x.round.val x.ref.instr .l).getD Token.empty)
    .next (x.finish st (.pop e) e t t 0)

/-- The channel an instruction of the executing block sends into. -/
def ECtx.outChan (x : ECtx) : Nat := ((x.rgn.image.bind (fun i => i.chanFrom x.round.block (x.block.endpoint x.ref.instr)))).getD 0

/-- An instruction that takes its operands for the round's commit: the stop rule holds. -/
def elemSink (i : Instr) (e : EWord) (f : ECtx → Round) (s : State) : Out :=
  match s.elemAt with
  | none => .next s
  | some x =>
    let st := x.stops i e
    if st.any (fun a => st.any (fun b => a != b)) then .next (x.fault s 1)
    else .next ({ x with round := f x }.finish s i e Token.empty Token.empty 0)

/-- PUSH (R181): the token leaves when the round commits. -/
def execPush (e : EWord) (st : State) : Out :=
  elemSink (.push e) e (fun x => { x.round with pushes := x.round.pushes ++ [(x.outChan, x.mask e (x.operand e .l))] }) st

/-- BQW (R182): one entry for a data token, nothing for a stop. -/
def execBqw (e : EWord) (st : State) : Out :=
  elemSink (.bqw e) e (fun x =>
    let t := x.mask e (x.operand e .l)
    let v : Option Word := if t.stop = 0 then some ((Token.values t).head?.getD 0) else none
    { x.round with bqws := x.round.bqws ++ [(x.outChan, v)] }) st

/-! ### Sort cells (R261 to R263) -/

/-- Order of keys: signed integers; floats with NaNs last and equal (R261). -/
def keyLt (e : EWord) (a b : Word) : Bool :=
  match etypeFmt (wT e) with
  | .ok f =>
    let x := f.decode (low (wW e) a)
    let y := f.decode (low (wW e) b)
    if x.isNan then false else if y.isNan then true else x.ltz y
  | .error _ => decide (readInt (wW e) true a.toNat < readInt (wW e) true b.toNat)

/-- Order of lanes: an invalid lane after every valid one. -/
def laneLt (e : EWord) : Option Word → Option Word → Bool
  | some a, some b => keyLt e a b
  | some _, none => true
  | none, _ => false

/-- CMPX (R262). -/
def execCmpx (e : EWord) (st : State) : Out :=
  elemMove (.cmpx e) e (fun x =>
    let a := x.operand e .l
    let b := x.operand e .r
    let swap (l : Fin 16) : Bool := laneLt e (Token.at' b l.val) (Token.at' a l.val)
    (a.ofLanes (fun l => Token.at' (if swap l then b else a) l.val), a.ofLanes (fun l => Token.at' (if swap l then a else b) l.val), 0)) st

/-- Stable insertion by key. -/
def insertKey (e : EWord) (v : Word) : List Word → List Word
  | [] => [v]
  | a :: r => if keyLt e v a then v :: a :: r else a :: insertKey e v r

/-- SORTE (R263). -/
def execSorte (e : EWord) (st : State) : Out :=
  elemMove (.sorte e) e (fun x =>
    let a := x.operand e .l
    both (packed a ((Token.values a).foldl (fun acc v => insertKey e v acc) [])) 0) st

/-! ### Gate instructions (R393 to R395) -/

/-- Greatest of two patterns of the W type, quiet NaNs ignored (R120, R392). -/
def greater (e : EWord) (a b : Nat) : Res :=
  match etypeFmt (wT e) with
  | .ok f => f.minmax true a b
  | .error _ => ⟨if readInt (wW e) true a < readInt (wW e) true b then b else a, 0⟩

/-- GMAX (R393). -/
def execGmax (e : EWord) (st : State) : Out :=
  elem1 (.gmax e) e (wT e) (fun x =>
    let a := x.operand e .l
    let g := 2 ^ Nat.min 4 (wf ((x.operand e .r).lane 0) 2 0)
    laneToken (wT e) (fun l =>
      let vs := (lanes16.filter (fun j => decide (j.val / g = l.val / g) && a.isValid j)).map (fun j => low (wW e) (a.lane j))
      match vs with
      | [] => none
      | v :: r => if x.keeps e l then
          some (r.foldl (fun (acc : Res) b => let m := greater e acc.bits b; ⟨m.bits, acc.flags ||| m.flags⟩) (settleNan (wT e) ⟨v, 0⟩))
        else none)) st

/-- Candidates ranked greatest first, equal values the lower lane first (R394). -/
def rankIn (e : EWord) (a : Token) (l : Fin 16) : List (Fin 16) → List (Fin 16)
  | [] => [l]
  | j :: r => if keyLt e (a.lane j) (a.lane l) then l :: j :: r else j :: rankIn e a l r

def laneNan (e : EWord) (w : Word) : Bool × Bool :=
  match etypeFmt (wT e) with
  | .ok f => let v := f.decode (low (wW e) w); (v.isNan, v.isSig)
  | .error _ => (false, false)

/-- TOPK (R394). -/
def execTopk (e : EWord) (st : State) : Out :=
  elem (.topk e) e (fun _ => (wT e, .i8)) (fun x =>
    let a := x.operand e .l
    let k := Nat.min 16 (wf ((x.operand e .r).lane 0) 4 0)
    let cand := lanes16.filter (fun l => a.isValid l && !(laneNan e (a.lane l)).1)
    let chosen := (cand.foldl (fun acc l => rankIn e a l acc) []).take k
    let nv := lanes16.any (fun l => a.isValid l && x.keeps e l && (laneNan e (a.lane l)).2)
    ({ a with etype := wT e }.ofLanes (fun l => if chosen.contains l then some (BitVec.ofNat 64 (low (wW e) (a.lane l))) else none),
     packed { Token.empty with etype := .i8 } (chosen.map (fun l => BitVec.ofNat 64 l.val)), if nv then NV else 0)) st

/-- Exact sum of finite values as an integer in units of 2^q. -/
def exactSum (vs : List FVal) : Int × Int :=
  let q := minExp (vs.map Term.val)
  (sumAt q (vs.map Term.val), q)

/-- What RENORM does with a token: nothing valid, dropped for a NaN or infinity, 1/n, or the quotients (R395). -/
inductive Renorm where
  | empty | drop | fallback | divide (s : FVal)

def renormCase (e : EWord) (a : Token) : Renorm :=
  let vs := (Token.values a).map (fun w => (wFmt e).decode (low (wW e) w))
  if vs.isEmpty then .empty
  else if vs.any (fun v => match v with | .fin _ _ _ => false | _ => true) then .drop
  else
    let (s, q) := exactSum vs
    let small := decide (s ≤ 0) || (if 0 ≤ q + 126 then false else decide (s < 2 ^ (-(q + 126)).toNat))
    if small then .fallback else .divide (.fin false s.toNat q)

/-- RENORM (R395): counted on the partition's PCTL_ROUTE. -/
def execRenorm (e : EWord) (st : State) : Out :=
  let s := match st.elemAt with
    | some x =>
      if (x.stops (.renorm e) e).all (fun a => a == 0) then
        match renormCase e (x.operand e .l) with
        | .drop => st.bump x.rgn.part 0x400 95 64 1
        | .fallback => st.bump x.rgn.part 0x400 127 96 1
        | _ => st
      else st
    | none => st
  elem1 (.renorm e) e (wT e) (fun x =>
    let a := x.operand e .l
    let n := (Token.values a).length
    match renormCase e a with
    | .empty => ({ Token.empty with etype := wT e }, 0)
    | .drop => noLanes (wT e)
    | .fallback => x.map1 e (wT e) (fun _ _ => (wFmt e).divVals .rne Rsh.zero (.fin false 1 0) (.fin false n 0))
    | .divide t => x.map1 e (wT e) (fun l v => (wFmt e).divVals x.block.tmode (x.rsh l) ((wFmt e).decode (low (wW e) v)) t)) s

end Sys2Proof.Machine
end

