-- ==== Sys2Proof/Machine/MemEvent.lean ====
section
/-!
DEFINITION. The steps of the memory system: requests at their homes and their replies (R145, R148, R149, R152 to R154, R320, R325, R327, R333,
R334), invalidations, host accesses (R326), page walks (R141), logical and global time (R321, R361).
-/
namespace Sys2Proof.Machine

/-! ### LOAD_AT_HOME -/

/-- LOAD_AT_HOME (R320). -/
def execLoadAtHome (id : Nat) (st : State) : Out :=
  match st.findReq id with
  | none => .next st
  | some r =>
    match r.kind with
    | .load fill ef =>
      if !st.mayPerform r then .next st
      else
        let fill := fill && !st.writePending (lineOf r.pa)
        let r := { r with kind := .load fill ef }
        let poison := st.isPoisoned r.pa
        let s := if poison then st.countUncorr r.part r.pa else st
        let wts := (s.home (lineOf r.pa)).wts
        let v := memBytes s.mem r.pa r.size
        let (k, s) := match reqCore r with
          | some c => if fill && !poison then s.grant r.part c r.mt r.pa else (.dir, s)
          | none => (.dir, s)
        let s := (s.touchL2 r.pa false).reply r v poison k wts
        match r.thread? with
        | some t => if r.acq then .next (s.acquire t) else .next s
        | none => .next s
    | _ => .next st

/-! ### Replies -/

/-- Install the copy a reply brings, if it still may. -/
def State.installReply (s : State) (r : Req) : State :=
  match r.stage, reqCore r with
  | .replied _ poison k wts line, some c =>
    let keep (ef : Bool) : State := s.install c ⟨lineOf r.pa, line, k, ef, wts, (s.die (dieOfCore c)).dlt⟩
    if poison then s
    else match r.kind with
      | .load true ef | .domain _ _ _ _ _ true ef => keep ef
      | _ => s
  | _, _ => s

/-- A copy after its own core's write of some of its bytes (R320, R334). A leased copy that was current until the write takes the bytes and
the write time as its lease end; one that misses an earlier write of another core must not become current again, and goes (R318, R321; log 38).
A tagged copy keeps its tag. -/
def L1Line.written (e : L1Line) (pa : Nat) (bs : List Byte) (prev wts dlt : Nat) : Option L1Line :=
  let put : L1Line := { e with data := e.data.take (pa % 128) ++ bs ++ e.data.drop (pa % 128 + bs.length), dlt := dlt }
  if e.line ≠ lineOf pa then some e
  else match e.kind with
    | .lease _ => if e.ver = prev then some { put with kind := .lease wts, ver := wts } else none
    | _ => some put

/-- The issuing core after its own write has been acknowledged: logical time and copies (R320, R334). -/
def State.updateCopy (s : State) (c : Nat) (r : Req) (bs : List Byte) (wts : Nat) : State :=
  s.onCore c (fun co =>
    let f := List.filterMap (fun e : L1Line => e.written r.pa bs r.prev wts (s.die (dieOfCore c)).dlt)
    { co with lt := if onLeases c r.mt r.pa then max co.lt wts else co.lt, l1i := f co.l1i, l1 := f co.l1 })

/-- A read performed at the home that brings no copy: a tagged copy of its line, which may be older, is given up (R334). -/
def Req.outdates (r : Req) : Bool :=
  match r.kind with
  | .load fill _ | .domain _ _ _ _ _ fill _ => !fill
  | _ => false

/-- A read that moves its core's logical time: LoadAtCore of R320, not a domain read. -/
def Req.onLease (r : Req) (c : Nat) : Bool :=
  match r.kind with
  | .load _ _ => onLeases c r.mt r.pa
  | _ => false

/-- LOAD_REPLY (R91, R145, R148, R320, R333): the copy is installed, the destination written, the run-ahead entry released. -/
def execLoadReply (id : Nat) (st : State) : Out :=
  match st.findReq id with
  | none => .next st
  | some r =>
    match r.stage with
    | .replied v poison _ wts line =>
      if st.tick < r.due || !st.inTurn r then .next st
      else
        let s := st.installReply r
        let s := match reqCore r with
          | some c =>
            (match r.kind with
            | .amo _ _ | .cas _ _ => if poison then s else s.updateCopy c r ((line.drop (r.pa % 128)).take r.size) wts
            | _ =>
              let s := if r.onLease c then s.onCore c (fun co => { co with lt := max co.lt wts }) else s
              if r.outdates then s.onCore c (fun co => co.keepCopies (fun e => e.line != lineOf r.pa || notTag e.kind)) else s)
          | none => s
        match r.thread? with
        | none => .next (s.dropReq id)
        | some t =>
          let th := s.thread t
          match r.dst with
          | .lane d _ => .next ((s.setReq { r with stage := .arrived v poison }).vldFinish t d)
          | dst =>
            let s := s.dropReq id
            let held : Bool := match th.wait with
              | some w => w.kind == .sync id
              | none => false
            if poison then
              let s := s.onThread t (fun th => if held then th.advance else th.settle id .none 0)
              .next (s.raise t 0x13 (lo64 r.va))
            else if held then .next (s.onThread t (fun th => (th.writeDst dst (leNat v)).advance))
            else if th.ahead.any (fun e => e.1 == id) then .next (s.onThread t (fun th => th.settle id dst (leNat v)))
            else .next s
    | _ => .next st

/-! ### Writes at the home -/

/-- STORE_AT_HOME (R149, R318, R320). -/
def execStoreAtHome (id : Nat) (st : State) : Out :=
  match st.findReq id with
  | some r => if r.isStore && st.mayPerform r then .next (st.beginWrite r) else .next st
  | none => .next st

/-- ATOMIC_AT_HOME (R152 to R154). -/
def execAtomicAtHome (id : Nat) (st : State) : Out :=
  match st.findReq id with
  | some r => if !r.isStore && !r.isLoad && st.mayPerform r then .next (st.beginWrite r) else .next st
  | none => .next st

/-- STORE_ACKNOWLEDGEMENT (R320). -/
def execStoreAcknowledgement (id : Nat) (st : State) : Out :=
  match st.findReq id with
  | some r =>
    match r.stage, r.kind with
    | .acked wts, .store v =>
      if st.tick < r.due || !st.inTurn r then .next st
      else
        let s := st.dropReq id
        match reqCore r with
        | some c => .next (s.updateCopy c r (leBytes v r.size) wts)
        | none => .next s
    | _, _ => .next st
  | none => .next st

/-- The answers still missing to a write's invalidations; the last one lets it go on and frees the entry (R325). -/
def State.answered (s : State) (r : Req) (dies : List Nat) (host : Bool) : State :=
  if dies.isEmpty && !host then (s.dirFreeLine (homeDie r.pa) (lineOf r.pa)).beginWrite r
  else s.setReq { r with stage := .inval dies host }

/-- INVALIDATION_ACK (R325). -/
def execInvalidationAck (id : Nat) (die : Fin 4) (st : State) : Out :=
  match st.findReq id with
  | some r => match r.stage with
    | .inval dies host => .next (st.answered r (dies.filter (fun d => d != die.val)) host)
    | _ => .next st
  | none => .next st

/-- BACK_INVALIDATE_RESPONSE (R326): the host's answer to a snoop, or to a write of its own memory. -/
def execBackInvalidateResponse (id : Nat) (st : State) : Out :=
  match st.findReq id with
  | some r => match r.stage with
    | .inval dies _ => .next (st.answered r dies false)
    | .host => .next (st.performWrite r)
    | _ => .next st
  | none => .next st

/-- L1_INVALIDATION (R325): the die's copies of the line go, and every write that waits for the die is answered. -/
def execL1Invalidation (die : Fin 4) (line : Nat) (st : State) : Out :=
  let s := st.dropCopies die.val line notTag
  .next (s.flight.foldl (fun (s : State) r =>
    match r.stage with
    | .inval dies _ => if lineOf r.pa == line && dies.contains die.val then let (dl, s) := s.delay; s.postAt dl (.invalidationAck r.id die) else s
    | _ => s) s)

/-- CXL_LEASE_WAIT_END (R327): the greatest lease and the guard band have passed. -/
def execCxlLeaseWaitEnd (id : Nat) (st : State) : Out :=
  match st.findReq id with
  | some r => match r.stage with
    | .lease u => if u < st.gtime (homeDie r.pa) then .next (st.finishWrite r) else .next st
    | _ => .next st
  | none => .next st

/-! ### Domain reads (R333, R334, R340) -/

/-- A domain read that waits is told that its thread's instruction traps: STALE_WAIT or HOME_LOST, with no effect. -/
def State.domainTrap (s : State) (r : Req) (code : Nat) : State :=
  match r.thread? with
  | some t => ((s.dropReq r.id).onThread t (fun th => { th with ahead := th.ahead.filter (fun e => e.1 != r.id) })).enterTrap t code false (lo64 r.va) (s.thread t).pc
  | none => s.dropReq r.id

/-- DOMAIN_READ_AT_HOME (R333). -/
def execDomainReadAtHome (id : Nat) (st : State) : Out :=
  match st.findReq id with
  | none => .next st
  | some r =>
    match r.kind with
    | .domain p dom m w _ f ef =>
      if !st.mayPerform r then .next st
      else
        let t := max ((st.part p).view dom (homeDie r.pa)) w
        if t < m then
          if (st.die ⟨dom % 4, Nat.mod_lt _ (by decide)⟩).lost then .next (st.domainTrap r 0x0A)
          else if r.stalled then .next st
          else
            let s := (st.setReq { r with stalled := true }).bump p 0x1B0 63 32 1
            .next (match r.thread? with
              | some t => if (s.thread t).rwait = 0 then (s.domainTrap r 0x09).bump p 0x1B0 31 16 1 else s
              | none => s)
        else
          let poison := st.isPoisoned r.pa
          let s := if poison then st.countUncorr r.part r.pa else st
          let r := { r with kind := .domain p dom m w 0 (f && !st.writePending (lineOf r.pa)) ef }
          .next ((s.touchL2 r.pa false).reply r (memBytes s.mem r.pa r.size) poison (.tag t) (s.home (lineOf r.pa)).wts)
    | _ => .next st

/-- STALE_WAIT (R333, R334): the wait since issue exceeds sr.rwait. -/
def execStaleWait (id : Nat) (st : State) : Out :=
  match st.findReq id with
  | none => .next st
  | some r =>
    match r.kind, r.thread? with
    | .domain p _ _ _ issued _ _, some t =>
      let lim := (st.thread t).rwait.toNat
      if r.isSent && r.stalled && (lim == 0 || decide (issued + lim < st.gtimeOf t)) then .next ((st.domainTrap r 0x09).bump p 0x1B0 31 16 1)
      else .next st
    | _, _ => .next st

/-! ### The host (R326) -/

/-- Device memory offered to the host: HBM and capacity tier. -/
def hostMem (pa : Nat) : Bool :=
  match prange pa with
  | .hbm | .capacity => true
  | _ => false

/-- HOST_READ (R326): the home copy is returned; the host bit is set if the host may cache the line. -/
def execHostRead (pa size : Nat) (cache : Bool) (st : State) : Out :=
  if !hostMem pa || decide (128 < pa % 128 + size) then .next st
  else
    let s := st.touchL2 pa false
    if cache && !st.writePending (lineOf pa) then .next (s.dirMark (homeDie pa) (lineOf pa) none true) else .next s

/-- HOST_WRITE (R326): a store from outside the die, at its home at once; or the host's write of its own memory. -/
def execHostWrite (pa size v : Nat) (st : State) : Out :=
  if !(hostMem pa || hostLine (lineOf pa)) || decide (128 < pa % 128 + size) then .next st
  else
    let mt := match prange pa with
      | .hbm => 0
      | .capacity => 1
      | _ => 2
    let r := st.request .other (.store v) 0 pa size { physEntry 0 with mt := mt } 0 st.tick
    let s := st.putReq r
    .next (if s.mayPerform r then s.beginWrite r else s)

/-- HOST_SNOOP (R326, R327): answered once every lease on the line has expired on every die, the guard band past its end; the home drops its own
copy. -/
def execHostSnoop (line : Nat) (st : State) : Out :=
  let h := st.home line
  let d := homeDie (line * 128)
  if 0 < h.gmax ∧ st.gtime d ≤ h.gmax + st.guardBand then .next (st.postAt 1 (.hostSnoop line))
  else .next (st.dropL2 (line * 128))

/-! ### PAGE_WALK (R140 to R143) -/

/-- The thread whose walk this is has a store on its way: the walk sees it, or is checked again against it before it installs its result (R141). -/
def State.walkHeld (s : State) (m : Miss) : Bool :=
  match m.owner with
  | some t => s.flight.any (fun r => r.ofThread t && !r.isLoad && !r.performed)
  | none => false

/-- A walk of a die's queue is over: its time has come, and what it must see has been performed. -/
def State.walkReady (s : State) (d : Fin 4) (m : Miss) : Bool :=
  m.due.any (fun u => decide (u ≤ s.tick)) && !((s.die d).misses.any (fun n => s.merges m n && s.walkHeld n))

/-- What a walk leaves to one whose miss it serves: the translation in its L1 or stream TLB, or none there; and the word that the walk is over
(R142). A miss whose instruction was interrupted is served for no one. -/
def State.walkServe (s : State) (res : Option TlbEntry) (n : Miss) : State :=
  let gone := List.filter (fun e => !tlbHit n.part n.fw n.va e)
  let code := if res.isSome then 0 else 1
  let key := walkKey n.va n.kind n.fw
  match n.who with
  | .thread t =>
    let s := match res with
      | some e => s.fillCore (coreOf t) e
      | none => s.onCore (coreOf t) (fun c => { c with tlb := gone c.tlb })
    s.onThread t (fun th => { th with walked := (key, code) :: th.walked.filter (fun e => e.1 != key) })
  | .other => s
  | who =>
    match n.rim with
    | some r =>
      let s := match res with
        | some e => s.fillRim r e
        | none => { s with rimTlb := tput s.rimTlb r (gone (tgetD s.rimTlb r [])) }
      { s with rimWalks := (who, key, code) :: (s.rimDone who key).rimWalks }
    | none => s

/-- The oldest walk that is over serves every miss to its page, partition and root; walks that waited may start. -/
def execPageWalk (die : Fin 4) (st : State) : Out :=
  match (st.die die).misses.find? (st.walkReady die) with
  | none => .next st
  | some m =>
    let served := (st.die die).misses.filter (st.merges m)
    let s := st.onDie die (fun d => { d with misses := d.misses.filter (fun n => !st.merges m n) })
    let res := s.walk m.part m.fw m.va
    let s := s.countWalk m.part res.isNone
    let s := match res with
      | some e => s.fillDie die e
      | none =>
        let gone := List.filter (fun e => !tlbHit m.part m.fw m.va e)
        s.onDie die (fun d => { d with tlb := gone d.tlb, tlbBig := gone d.tlbBig })
    .next ((served.foldl (fun (s : State) n => s.walkServe res n) s).startWalks die)

/-! ### Time (R321, R327, R361) -/

/-- LT_TICK (R321). -/
def execLtTick (core : Nat) (st : State) : Out := .next (st.onCore core (fun c => { c with lt := c.lt + 1 }))

/-- ACTIVE threads of a die. -/
def State.activeOn (s : State) (die : Fin 4) : List Nat :=
  (tkeys s.threads).filter (fun t => dieOf t == die && (s.thread t).st == .active)

/-- DRIFT_BEYOND_GUARD (R327, R361). -/
def execDriftBeyondGuard (die : Fin 4) (drift : Nat) (st : State) : Out :=
  let far (line : Nat) : Bool := match prange (line * 128) with
    | .cxl _ => true
    | _ => false
  let s : State := { st with
    sync := false
    drift := BitVec.ofNat 32 (max st.drift.toNat (min drift (2 ^ 32 - 1)))
    cores := st.cores.map (fun (k, c) => if k / 48 = die.val then (k, c.keepCopies (fun e => !far e.line)) else (k, c))
    flight := st.flight.map (unfillReq (fun r => r.mt == 2 && reqDie r == some die)) }
  .next ((s.activeOn die).foldl (fun s t => s.raise t 0x16 (BitVec.ofNat 64 (min drift (2 ^ 64 - 1)))) s)

/-- A drift that the monitor has measured (R361). -/
def State.noteDrift (s : State) (n : Nat) : State := { s with drift := BitVec.ofNat 32 (max s.drift.toNat (min n (2 ^ 32 - 1))) }

/-- TIME_DISCIPLINE (R361): the drift of a die's count from the master's is to be slewed away; the record of drift starts again when SYNC
becomes 1. -/
def execTimeDiscipline (die : Fin 4) (drift : Int) (sync : Bool) (st : State) : Out :=
  let s := (st.noteDrift drift.natAbs).onDie die (fun d => { d with slew := drift })
  .next { s with sync := sync, drift := if sync && !st.sync then 0 else s.drift }

end Sys2Proof.Machine
end

