-- ==== Sys2Proof/Machine/MemTile.lean ====
section
/-!
DEFINITION. Memory tiles (R264 to R285): requests from elements, the arrival sequence, lane accesses, tables, responses, owned windows and
barriers, and the SYNC instructions of access threads.
-/
namespace Sys2Proof.Machine

/-- Bytes of a scratch. -/
def scratchSize : Nat := 524288

/-! ### The memory-tile constant (R266, R267) -/

def mtBase (k : Word) : Nat := wf k 42 24
def mtType (k : Word) : EType := EType.ofCode (wf k 23 20)
def mtV (k : Word) : Nat := wf k 16 13
def mtU (k : Word) : Nat := wf k 12 8
def mtCh (k : Word) : Nat := wf k 3 0
def mtKey (mu mv : Nat) : Nat := mv * 32 + mu

/-- Number of a memory-tile instruction: 0 MTGAT to 6 MTRULE. -/
def mtOp : Instr → Option Nat
  | .mtgat _ => some 0
  | .mtsct _ => some 1
  | .mtsca _ => some 2
  | .mtamo _ => some 3
  | .mttas _ => some 4
  | .mtbin _ => some 5
  | .mtrule _ => some 6
  | _ => none

/-- ETYPE codes an instruction accepts. -/
def mtTypeOk (op : Nat) (k : Word) : Bool :=
  let c := wf k 23 20
  match op with
  | 0 | 1 => decide (c ≤ 6) || decide (8 ≤ c ∧ c ≤ 13)
  | 2 => decide (c ≤ 6) || decide (8 ≤ c ∧ c ≤ 11)
  | 3 => if wf k 51 48 = 9 then decide (c = 9 ∨ c = 8) else decide (c = 4 ∨ c = 5 ∨ c = 6)
  | _ => decide (c = 0)

/-- Element size of the address computation. -/
def mtSize (op : Nat) (k : Word) : Nat := if op < 4 then etypeBytes (mtType k) else 1

/-- The constant keeps the layout of R266 and the types of R267, whatever tile it names. -/
def mtConstOk (op : Nat) (k : Word) : Bool :=
  decide (wf k 63 52 = 0 ∧ wf k 47 43 = 0 ∧ wf k 19 17 = 0 ∧ wf k 7 4 = 0) && (if op = 3 then decide (wf k 51 48 ≤ 9) else decide (wf k 51 48 = 0)) &&
  mtTypeOk op k && decide (mtBase k % (if 5 ≤ op then 8 else mtSize op k) = 0)

/-- Response type (R267). -/
def mtResponseType (op : Nat) (k : Word) : EType := if op < 4 then mtType k else if op = 4 then .i8 else .i64

/-- A tile that the region has (R265). -/
def Region.hasTile (r : Region) (mu mv : Nat) : Bool := decide (mu < 2 * r.w) && decide (mv < r.h)

/-! ### Requests of elements (R267 to R269) -/

/-- A memory-tile instruction takes its lanes for the round's commit. -/
def mtInstr (i : Instr) (e : EWord) (op : Nat) (s : State) : Out :=
  elemSink i e (fun x =>
    let a := x.operand e .l
    let sp := Instr.tokenSlots i
    let valid := maskOf (fun l => x.active e (sp.filter (fun z => z != .p)) l)
    let stop := match (x.stops i e).head? with
      | some v => v
      | none => 0
    let work : MtWork := if stop = 0 then .lanes op x.k (wW e) a (x.operand e .t) valid else .stop op x.k stop
    let req : MtReq := ⟨work, 0, x.round.ctx, x.gen i e, BitVec.ofNat 15 x.round.num, x.ref.ce, x.ref.instr,
      (x.rgn.image.bind (fun im => im.chanFrom x.round.block (x.block.endpoint x.ref.instr))).getD 0,
      if stop = 0 then lanes16.filter (fun l => valid.getLsbD l.val) else if stop = 7 ∧ 5 ≤ op then [0] else [], { Token.empty with etype := mtResponseType op x.k, valid := valid }, 0, 0, false⟩
    { x.round with reqs := x.round.reqs ++ [(req, mtKey (mtU x.k) (mtV x.k))] }) s

/-- MTGAT (R267). -/
def execMtgat (e : EWord) (st : State) : Out := mtInstr (.mtgat e) e 0 st
/-- MTSCT (R267). -/
def execMtsct (e : EWord) (st : State) : Out := mtInstr (.mtsct e) e 1 st
/-- MTSCA (R267). -/
def execMtsca (e : EWord) (st : State) : Out := mtInstr (.mtsca e) e 2 st
/-- MTAMO (R267). -/
def execMtamo (e : EWord) (st : State) : Out := mtInstr (.mtamo e) e 3 st
/-- MTTAS (R267). -/
def execMttas (e : EWord) (st : State) : Out := mtInstr (.mttas e) e 4 st
/-- MTBIN (R267, R276). -/
def execMtbin (e : EWord) (st : State) : Out := mtInstr (.mtbin e) e 5 st
/-- MTRULE (R267, R277). -/
def execMtrule (e : EWord) (st : State) : Out := mtInstr (.mtrule e) e 6 st

/-! ### Lanes at the tile (R267, R275 to R277) -/

/-- Read and write a field of the scratch. -/
def Mt.rd (m : Mt) (off n : Nat) : Nat := memRead m.scratch off n
def Mt.wr (m : Mt) (off n v : Nat) : Mt := { m with scratch := memWrite m.scratch off (leBytes v n) }

/-- A no-placement answer. -/
def allOnes : Nat := 2 ^ 64 - 1

/-- Where a pillar table's records start, and where its cells stand (R275). -/
def pillarAt (m : Mt) (base k : Nat) : Nat := base + 32 + 8 * ((2 * m.rd base 4 + 7) / 8) + k * (8 + 8 * m.rd (base + 6) 2)
def cellAt (base cell : Nat) : Nat := base + 32 + 2 * cell

/-- Bytes of a pillar table, of a rule book. -/
def pillarSize (m : Mt) (base : Nat) : Nat := pillarAt m base (m.rd (base + 4) 2) - base
def bookSize (m : Mt) (base : Nat) : Nat := 16 + 8 * m.rd (base + 4) 4

def Mt.inc4 (m : Mt) (off : Nat) : Mt := m.wr off 4 (m.rd off 4 + 1)

/-- Place a point in pillar v − 1 of a table (R276). -/
def placePoint (m : Mt) (h v pt : Nat) : Mt × Nat :=
  let at' := pillarAt m h (v - 1)
  let n := m.rd at' 2
  if n = m.rd (h + 6) 2 then (m.inc4 (h + 12), allOnes)
  else ((m.wr (at' + 8 + 8 * n) 8 pt).wr at' 2 (n + 1), (v - 1) * 2 ^ 16 + n)

/-- Bin (R276). -/
def binPoint (m : Mt) (h cell pt : Nat) : Mt × Nat :=
  if m.rd h 4 ≤ cell then (m.inc4 (h + 12), allOnes)
  else
    let v := m.rd (cellAt h cell) 2
    if v = 0xFFFF then (m.inc4 (h + 12), allOnes)
    else if v = 0 then
      let used := m.rd (h + 8) 4
      if used = m.rd (h + 4) 2 then (((m.wr (cellAt h cell) 2 0xFFFF).inc4 (h + 16)).inc4 (h + 12), allOnes)
      else
        let m := (m.wr (h + 8) 4 (used + 1)).wr (cellAt h cell) 2 (used + 1)
        let at' := pillarAt m h used
        placePoint ((m.wr (at' + 4) 4 cell).wr at' 2 0) h (used + 1) pt
    else placePoint m h v pt

/-- Rule (R277). -/
def ruleEntry (m : Mt) (r cell t : Nat) : Mt × Nat :=
  let h := m.rd r 4
  let v := m.rd (cellAt h cell) 2
  if m.rd h 4 ≤ cell ∨ v = 0 ∨ v = 0xFFFF then (m, allOnes)
  else
    let used := m.rd (r + 8) 4
    if used = m.rd (r + 4) 4 then (m.inc4 (r + 12), allOnes - 1)
    else ((m.wr (r + 16 + 8 * used) 8 (t % 2 ^ 16 + (v - 1) * 2 ^ 16 + bf t 23 16 * 2 ^ 32)).wr (r + 8) 4 (used + 1), used)

/-- Sum of two elements, integers wrapping and floats rounded RNE in their own format (R267). -/
def addElem (ty : EType) (a b : Nat) : Res :=
  match etypeFmt ty with
  | .ok f => f.add .rne Rsh.zero a b
  | .error _ => ⟨(a + b) % 2 ^ etypeWidth ty, 0⟩

def afnOf (n : Nat) : Afn := Afn.ofCode n

/-- One lane of a request: the scratch after it, the response lane and the flags raised. -/
def Mt.lane (m : Mt) (op : Nat) (k : Word) (idx t : Nat) : Mt × Nat × FlagSet :=
  let n := mtSize op k
  let e := mtBase k + idx * n
  match op with
  | 0 => (m, m.rd e n, 0)
  | 1 => (m.wr e n t, 0, 0)
  | 2 => let r := addElem (mtType k) (m.rd e n) (t % 256 ^ n); (m.wr e n r.bits, 0, r.flags)
  | 3 => let old := m.rd e n; (m.wr e n (amoValue (afnOf (wf k 51 48)) n old (t % 256 ^ n)), old, 0)
  | 4 =>
    let b := mtBase k + idx / 8
    let old := m.rd b 1
    (m.wr b 1 (Nat.lor old (2 ^ (idx % 8))), old / 2 ^ (idx % 8) % 2, 0)
  | 5 => let r := binPoint m (mtBase k) idx t; (r.1, r.2, 0)
  | _ => let r := ruleEntry m (mtBase k) idx t; (r.1, r.2, 0)

/-- Index of a lane, read unsigned in the index type (R267). -/
def laneIdx (w : Nat) (l : Token) (i : Fin 16) : Nat := low w (l.lane i)

/-! ### Checks on arrival (R270, R273, R275) -/

/-- The window as a request leaves it to those behind it. -/
def MtReq.windowAfter (q : MtReq) (win : Option (Nat × Nat)) : Option (Nat × Nat) :=
  match q.work with
  | .window _ off len => if len = 0 then none else some (off, len)
  | _ => win

/-- The window a request that arrives now is judged by: as the requests ahead of it leave it. -/
def Mt.windowAhead (m : Mt) : Option (Nat × Nat) :=
  m.queue.foldl (fun w r => r.windowAfter w) m.win

def inWindow (w : Option (Nat × Nat)) (off n : Nat) : Bool :=
  match w with
  | some (b, len) => decide (b ≤ off ∧ off + n ≤ b + len)
  | none => false

/-- A range that touches the window. -/
def touchesWindow (w : Option (Nat × Nat)) (off n : Nat) : Bool :=
  match w with
  | some (b, len) => decide (off < b + len ∧ b < off + n)
  | none => false

/-- Bytes a lane names; of a table, its header. -/
def laneRange (op : Nat) (k : Word) (idx : Nat) : Nat × Nat :=
  if op < 4 then (mtBase k + idx * mtSize op k, mtSize op k) else if op = 4 then (mtBase k + idx / 8, 1) else (mtBase k, if op = 5 then 32 else 16)

/-- The fault a request of elements raises as it arrives at the tile: kind 3 out of range, kind 4 owner conflict. -/
def Mt.judge (m : Mt) (r : MtReq) : Option (Fin 10) :=
  match r.work with
  | .lanes op k w l _ _ =>
    let win := m.windowAhead
    let ranges := r.todo.map (fun i => laneRange op k (laneIdx w l i))
    if ranges.any (fun x => decide (scratchSize < x.1 + x.2)) then some 3
    else
      let bad := match op with
        | 0 => false
        | 1 | 2 => ranges.any (fun x => touchesWindow win x.1 x.2)
        | _ => ranges.any (fun x => !inWindow win x.1 x.2)
      if bad then some 4 else none
  | _ => none

/-- The fault of a table that a request is about to reach, every earlier request performed (R270, R275): a lane's cell past the scratch, or a
table or rule book that does not lie wholly in the window. -/
def Mt.judgeTable (m : Mt) (op : Nat) (k : Word) (idxs : List Nat) : Option (Fin 10) :=
  let b := mtBase k
  let h := if op = 5 then b else m.rd b 4
  if op < 5 then none
  else if scratchSize < h + 32 ∨ idxs.any (fun c => decide (c < m.rd h 4 ∧ scratchSize < cellAt h c + 2)) then some 3
  else if !inWindow m.win h 32 || !inWindow m.win h (pillarSize m h) || (op == 6 && !inWindow m.win b (bookSize m b)) then some 4
  else none

/-! ### Barriers and windows at the tile (R281 to R284) -/

def isBarrier (m : Mt) (off : Nat) : Bool := m.barriers.contains off

/-- An answer on its way back to a thread: refused answers carry their reason above 64 bits. -/
def refusedAnswer (reason : Nat) : Nat := 2 ^ 64 + reason

/-- A SYNC answer starts its way back. -/
def Mt.answer (m : Mt) (r : MtReq) (v : Nat) (hops : Nat) : Mt :=
  { m with respond := m.respond ++ [{ r with off := v, hops := hops }] }

/-- Waiters on an object that ceases are refused (R284). -/
def Mt.refuseWaiters (m : Mt) (p : Nat → Bool) (reason : Nat) : Mt :=
  let out := m.waiting.filter (fun r => p r.off)
  out.foldl (fun (m : Mt) r => m.answer r (refusedAnswer reason) r.chan) { m with waiting := m.waiting.filter (fun r => !p r.off) }

/-- BWAIT's condition (R283). -/
def bwaitDone (phase p : Nat) : Bool := let d := (phase + 2 ^ 32 - p % 2 ^ 32) % 2 ^ 32; decide (1 ≤ d ∧ d ≤ 2 ^ 31)

/-- Waiters whose condition a new phase meets are answered. -/
def Mt.wakeWaiters (m : Mt) (off : Nat) : Mt :=
  let phase := m.rd (off + 4) 4
  let ok (r : MtReq) : Bool := match r.work with | .bwait _ p => r.off == off && bwaitDone phase p | _ => false
  (m.waiting.filter ok).foldl (fun (m : Mt) r => m.answer r phase r.chan) { m with waiting := m.waiting.filter (fun r => !ok r) }

/-- Every waiter whose condition its barrier's phase meets now is answered, whatever has written the phase (R283). -/
def Mt.wakeAll (m : Mt) : Mt := m.barriers.foldl Mt.wakeWaiters m

/-- ARRIVE at the tile (R282): the tile after it, the answer, and whether it was an overrun. -/
def Mt.arrive (m : Mt) (off q : Nat) : Mt × Nat × Bool :=
  if !isBarrier m off then (m, refusedAnswer 23, false)
  else
    let phase := m.rd (off + 4) 4
    let expect := m.rd off 4
    let count := m.rd (off + 8) 4
    let bits := m.rd (off + 12) 4
    let credited (m : Mt) (c : Nat) : Mt × Nat × Bool :=
      if (count + 1) % 2 ^ 32 = expect then (((m.wr (off + 4) 4 (phase + 1)).wr (off + 8) 4 0).wakeWaiters off, c, false)
      else (m.wr (off + 8) 4 (count + 1), c, false)
    if q = phase then credited m q
    else if q = (phase + 2 ^ 32 - 1) % 2 ^ 32 then credited (m.wr (off + 12) 4 (setBf bits 30 30 1)) phase
    else (m.wr (off + 12) 4 (setBf bits 31 31 1), allOnes, true)

/-- BINIT of a window at the tile (R281): barriers outside it cease. -/
def Mt.setWindow (m : Mt) (off len : Nat) : Mt × Nat :=
  let win := if len = 0 then none else some (off, len)
  let gone (b : Nat) : Bool := !inWindow win b 32
  (({ m with win := win, barriers := m.barriers.filter (fun b => !gone b) }).refuseWaiters (fun b => m.barriers.contains b && gone b) 23, 0)

/-- BINIT of a barrier at the tile (R281): offsets are kept ascending. -/
def Mt.initBarrier (m : Mt) (off expect : Nat) : Mt × Nat :=
  if !inWindow m.win off 32 || (!isBarrier m off && decide (64 ≤ m.barriers.length)) then (m, refusedAnswer 23)
  else
    let m := if isBarrier m off then m.refuseWaiters (fun b => b == off) 23 else m
    let m := { m with barriers := insertNat off m.barriers }
    ((((m.wr off 8 expect).wr (off + 8) 8 0).wr (off + 16) 8 0).wr (off + 24) 8 0, 0)

/-- WPULL's claim at a counter in the window (R359): all ones when none is published; where the counter has moved on from the index asked for, WPULL
begins again. -/
def Mt.claim (m : Mt) (off tail want : Nat) : Mt × Nat :=
  if !inWindow m.win off 8 then (m, refusedAnswer 23)
  else
    let c := m.rd off 8
    if c < tail ∧ c ≠ want then (m, claimAgain) else if c < tail then (m.wr off 8 (c + 1), c) else (m, allOnes)

/-! ### Events (R270 to R273) -/

/-- The class in which a request of a cycle enters a tile's sequence (R272): the access core, the CE of the shared router, then north,
east, south and west; a channel's way runs along the row first (R403). -/
def Region.arrivalClass (r : Region) (mt : Nat) (q : MtReq) : Nat :=
  let m := r.mtNode (mt % 32) (mt / 32)
  let c := r.ceNode (q.ce % 64) (q.ce / 64)
  match q.work with
  | .lanes .. | .stop .. =>
    if c = m then 1 else if c.2 < m.2 then 2 else if m.2 < c.2 then 4 else if m.1 < c.1 then 3 else 5
  | _ => 0

/-- Insertion of a request by class, behind those of its class. -/
def insertBy (f : MtReq → Nat) (q : MtReq) : List MtReq → List MtReq
  | [] => [q]
  | a :: r => if f q < f a then q :: a :: r else a :: insertBy f q r

/-- MT_REQUEST_ARRIVAL (R270, R272): requests whose way is over enter the queue while it has room, those that
stand at a full queue before later ones (R274); a frozen region's tiles hold them. -/
def execMtRequestArrival (rgn mt : Nat) (st : State) : Out :=
  match st.region rgn with
  | none => .next st
  | some r =>
    match tget r.mts mt with
    | none => .next st
    | some m =>
      if r.frozen then .next st
      else
        let come := m.arriving.filter (fun q => q.hops == 0)
        let here := come.filter (fun q => q.age != 0) ++ (come.filter (fun q => q.age == 0)).foldl (fun acc q => insertBy (r.arrivalClass mt) q acc) []
        let room := 64 - m.queue.length
        let held := (here.drop room).map (fun q => { q with age := 1 })
        let (m, faults) := (here.take room).foldl (fun (acc : Mt × List (MtReq × Fin 10)) q =>
          let (m, fs) := acc
          let q := { q with age := 0 }
          match m.judge q with
          | some k => ({ m with queue := m.queue ++ [{ q with bad := true }] }, fs ++ [(q, k)])
          | none => ({ m with queue := m.queue ++ [q] }, fs)) ({ m with arriving := held ++ m.arriving.filter (fun q => q.hops != 0) }, [])
        let s := st.setRegion rgn { r with mts := tput r.mts mt m }
        .next (faults.foldl (fun (s : State) e => s.execFault rgn e.2 1 (mt % 32) (mt / 32) 0xFF e.1.ctx e.1.round.toNat 0) s)

/-- The resource a lane takes: its bank, or the one update a cycle of the window as the requests ahead of it leave that (R272, R273). -/
def laneUnit (win : Option (Nat × Nat)) (op : Nat) (k : Word) (idx : Nat) : Nat :=
  let x := laneRange op k idx
  if 3 ≤ op || touchesWindow win x.1 x.2 then 16 else bf x.1 6 3

/-- What one pass over the held requests does: the tile, the units used in this cycle, the overruns and the table faults found. -/
structure MtPass where
  m : Mt
  used : List Nat
  overruns : List MtReq
  faults : List (MtReq × Fin 10)

/-- Lanes of one request in lane order, as far as their units are free. The flags they raise stay with the request until it is answered, so that a
marker ahead of it does not report them (R39, R271). -/
def runLanes (win : Option (Nat × Nat)) (op : Nat) (k : Word) (w : Nat) (l t : Token) : List (Fin 16) → MtPass → MtReq → MtPass × MtReq
  | [], p, q => (p, q)
  | i :: rest, p, q =>
    let u := laneUnit win op k (laneIdx w l i)
    if p.used.contains u then runLanes win op k w l t rest p q
    else
      let (m, v, fl) := p.m.lane op k (laneIdx w l i) (t.lane i).toNat
      runLanes win op k w l t rest { p with m := m, used := u :: p.used }
        { q with todo := q.todo.filter (fun j => j != i), resp := { q.resp with lanes := q.resp.lanes.set i.val (BitVec.ofNat 64 v) i.isLt, flags := q.resp.flags ||| fl } }

/-- One SYNC request, when the window's unit is free: the pass, and whether it is done. -/
def runSync (p : MtPass) (q : MtReq) : MtPass × Bool :=
  if p.used.contains 16 then (p, false)
  else
    let p := { p with used := 16 :: p.used }
    match q.work with
    | .arrive _ _ ph =>
      let (m, v, ovr) := p.m.arrive q.off ph
      ({ p with m := m.answer q v q.chan, overruns := if ovr then p.overruns ++ [q] else p.overruns }, true)
    | .bwait _ ph =>
      if !isBarrier p.m q.off then ({ p with m := p.m.answer q (refusedAnswer 23) q.chan }, true)
      else if bwaitDone (p.m.rd (q.off + 4) 4) ph then ({ p with m := p.m.answer q (p.m.rd (q.off + 4) 4) q.chan }, true)
      else ({ p with m := { p.m with waiting := p.m.waiting ++ [q] } }, true)
    | .window _ off len => let (m, v) := p.m.setWindow off len; ({ p with m := m.answer q v q.chan }, true)
    | .barrier _ off ex => let (m, v) := p.m.initBarrier off ex; ({ p with m := m.answer q v q.chan }, true)
    | .claim _ off tail want => let (m, v) := p.m.claim off tail want; ({ p with m := m.answer q v q.chan }, true)
    | _ => (p, true)

/-- The status token ahead of an MTBIN or MTRULE marker (R278). -/
def statusToken (m : Mt) (op : Nat) (k : Word) : Token :=
  let h := mtBase k
  let vs := if op = 5 then [m.rd (h + 8) 4, m.rd (h + 12) 4, m.rd (h + 16) 4] else [m.rd (h + 8) 4, m.rd (h + 12) 4, 0]
  packed { Token.empty with etype := .i64 } (vs.map (BitVec.ofNat 64))

/-- A marker of MTBIN or MTRULE reads the counts in its place among the window's accesses (R273, R278). -/
def runStatus (op : Nat) (k : Word) (p : MtPass) (q : MtReq) : MtPass × MtReq :=
  if q.todo.isEmpty || p.used.contains 16 then (p, q)
  else ({ p with used := 16 :: p.used }, { q with todo := [], resp := { q.resp with lanes := (statusToken p.m op k).lanes } })

/-- One pass over the requests in arrival order, with the window as those ahead leave it. A lane or SYNC request that finds its unit taken keeps it from
every later one; a table is judged before the first lane of its request. -/
def runQueue (win : Option (Nat × Nat)) : List MtReq → List MtReq → MtPass → MtPass
  | [], kept, p => { p with m := { p.m with queue := kept.reverse } }
  | q :: rest, kept, p =>
    if q.bad then runQueue win rest (q :: kept) p
    else match q.work with
      | .lanes op k w l t valid =>
        let first := q.todo == lanes16.filter (fun i => valid.getLsbD i.val) && !q.todo.isEmpty && !p.used.contains 16
        match (if first then p.m.judgeTable op k (q.todo.map (laneIdx w l)) else none) with
        | some f => runQueue win rest ({ q with bad := true } :: kept) { p with faults := p.faults ++ [(q, f)] }
        | none =>
          let (p', q') := runLanes win op k w l t q.todo p q
          runQueue win rest (q' :: kept) p'
      | .stop op k _ =>
        let (p', q') := runStatus op k p q
        runQueue win rest (q' :: kept) p'
      | _ =>
        let (p', done) := runSync p q
        runQueue (q.windowAfter win) rest (if done then kept else q :: kept) p'

/-- The record of a barrier overrun (R282, R372), which goes by its region's root (R370). -/
def State.overrun (s : State) (r : Region) (mt : Nat) (q : MtReq) : State :=
  match q.work with
  | .arrive t _ ph =>
    let name := r.handle * 2 ^ 32 + mt % 32 * 2 ^ 27 + mt / 32 * 2 ^ 23 + q.off
    let phase := match tget r.mts mt with
      | some m => m.rd (q.off + 4) 4
      | none => 0
    let p := s.partOf t
    s.rootRecord r.key ⟨7, p, s.module, BitVec.ofNat 16 r.handle, 0, 1, BitVec.ofNat 8 (mt % 32), BitVec.ofNat 8 (mt / 32), 0xFF, 0,
      BitVec.ofNat 16 ((s.part p).lidx t), BitVec.ofNat 64 (s.gtime r.die), BitVec.ofNat 128 name, BitVec.ofNat 64 (ph + phase * 2 ^ 32)⟩
  | _ => s

/-- MT_BANK_ACCESS (R272, R273, R282, R283): one cycle of a tile's banks and window, after which a BWAIT whose phase has come is answered. -/
def execMtBankAccess (rgn mt : Nat) (st : State) : Out :=
  match st.region rgn with
  | none => .next st
  | some r =>
    match tget r.mts mt with
    | none => .next st
    | some m =>
      let p := runQueue m.win m.queue [] ⟨m, [], [], []⟩
      let r := { r with mts := tput r.mts mt p.m.wakeAll }
      let s := p.overruns.foldl (fun (s : State) q => s.overrun r mt q) (st.setRegion rgn r)
      .next (p.faults.foldl (fun (s : State) e => s.execFault rgn e.2 1 (mt % 32) (mt / 32) 0xFF e.1.ctx e.1.round.toNat 0) s)

/-- Send a response token along a channel from a tile's router (R271, R403): it takes a reserved slot. -/
def State.respondChan (s : State) (r : Region) (mt c : Nat) (ctx : Fin 4) (t : Token) : Region :=
  let st := r.chan c ctx.val
  let to' : Option Node := match (r.image.bind (fun i => i.chans[c]?)).map (fun k : Chan => k.to') with
    | some (.block b _) => some (r.blockNode b)
    | some (.port p) => (s.bindingAt r p ctx.val).map s.bindingNode
    | none => none
  let hops := match to' with
    | some n => linkCount (r.mtNode (mt % 32) (mt / 32)) n
    | none => 1
  r.setChan c ctx.val { st with reserved := st.reserved - 1, transit := st.transit ++ [(t, hops)] }

/-- Sideband of a response (R271). -/
def MtReq.dress (q : MtReq) (t : Token) : Token := { t with flags := 0, round := q.round, ctx := q.ctx, gen := q.gen }

/-- The responses of a finished request (R271, R278) and the tile after them: flags that its lanes raised are its context's from now on (R39). -/
def Mt.responses (m : Mt) (q : MtReq) : List Token × Mt :=
  match q.work with
  | .stop op k lv =>
    let t := q.dress { Token.empty with stop := lv, etype := mtResponseType op k }
    if lv = 7 then
      let t := { t with flags := m.flags.get q.ctx ||| q.resp.flags }
      ((if 5 ≤ op then [q.dress { statusToken m op k with lanes := q.resp.lanes }] else []) ++ [t], { m with flags := m.flags.set q.ctx.val 0 q.ctx.isLt })
    else ([t], m)
  | _ => ([q.dress q.resp], { m with flags := m.flags.set q.ctx.val (m.flags.get q.ctx ||| q.resp.flags) q.ctx.isLt })

/-- Whether a request of elements has been performed. -/
def MtReq.finished (q : MtReq) : Bool :=
  match q.work with
  | .lanes .. | .stop .. => q.todo.isEmpty && !q.bad
  | _ => false

/-- MT_RESPONSE (R271, R272): the oldest element request, once performed, is answered; SYNC answers whose way is over reach their threads. -/
def execMtResponse (rgn mt : Nat) (st : State) : Out :=
  match st.region rgn with
  | none => .next st
  | some r =>
    match tget r.mts mt with
    | none => .next st
    | some m =>
      let back := m.respond.filter (fun q => q.hops == 0)
      let m := { m with respond := m.respond.filter (fun q => q.hops != 0) }
      let elems := m.queue.filter (fun q => !q.bad && (match q.work with | .lanes .. | .stop .. => true | _ => false))
      let (m, ts, ch) : Mt × List Token × Option (Nat × Fin 4) :=
        match elems with
        | q :: _ =>
          if q.finished then
            let (ts, m) := m.responses q
            ({ m with queue := m.queue.erase q }, ts, some (q.chan, q.ctx))
          else (m, [], none)
        | [] => (m, [], none)
      let r := { r with mts := tput r.mts mt m }
      let r := match ch with
        | some (c, ctx) => ts.foldl (fun (r : Region) t => st.respondChan r mt c ctx t) r
        | none => r
      .next (back.foldl (fun (s : State) q =>
        match q.work with
        | .arrive t _ _ | .bwait t _ | .window t _ _ | .barrier t _ _ | .claim t _ _ _ => s.onThread t (fun th => { th with reply := some q.off })
        | _ => s) (st.setRegion rgn r))

end Sys2Proof.Machine
end

