-- ==== Sys2Proof/Machine/Fire.lean ====
section
/-!
DEFINITION. Firing of rounds (R196 to R206, R248 to R251): readiness, selection, starts, the vector unit, commits, the context counter, channel
heads, buckets, quiet, and the sequencer timeout (R367). The order of a fabric cycle is the schedule's (log 8).
-/
namespace Sys2Proof.Machine

/-! ### Tasks of a CE -/

def ceKeyOf (b : Block) : Nat := b.cy * 64 + b.cx

/-- Tasks of a CE in the active image, with their block indices. -/
def Image.tasksOn (i : Image) (key : Nat) : List (Nat × Block) := (i.blocks.zipIdx.filter (fun e => ceKeyOf e.1 == key)).map (fun e => (e.2, e.1))
def Region.tasksOn (r : Region) (key : Nat) : List (Nat × Block) := (r.image.map (fun i => i.tasksOn key)).getD []
def Region.ce (r : Region) (key : Nat) : Ce := tgetD r.ces key Ce.new

/-- A memory-tile instruction, and whether its marker takes two slots (R269). -/
def isMt (i : Instr) : Bool := (mtOp i).isSome
def isTable (i : Instr) : Bool := mtOp i == some 5 || mtOp i == some 6

/-- Endpoint an instruction sends through: a PUSH's or BQW's constant, a memory-tile instruction's CH (R179, R268). -/
def Image.outChan (i : Image) (b : Nat) (n : Nat) : Option Nat := i.blocks[b]?.bind (fun bl => i.chanFrom b (bl.endpoint n))

/-- Output channels of a block with the buffer slots a round claims in each (R199, R201, R269). -/
def Image.claims (i : Image) (b : Nat) (marker : Bool) : List (Nat × Nat) :=
  match i.blocks[b]? with
  | none => []
  | some bl => (bl.code.zipIdx.filter (fun e => isPush e.1 || isBqw e.1 || isMt e.1)).filterMap (fun e =>
      (i.outChan b e.2).map (fun c => (c, if marker && isTable e.1 then 2 else 1)))

/-- A load-form BNET stands in the block with the constants of a context (R244). -/
def isBnet : Instr → Bool
  | .bnet _ => true
  | _ => false
def Block.loadsPatterns (b : Block) (k : Nat → Word) : Bool := (b.which isBnet).any (fun n => wf (k n) 3 3 == 1)

/-- The highest priority that a task has (R200). -/
def Image.eff (i : Image) (b : Nat) (bl : Block) : Nat :=
  (i.pops b).foldl (fun p e => max p (((i.chans[e.2]?).map Chan.prio).getD 0)) bl.prio

/-! ### Groups of a matrix region (R248 to R251) -/

def isData (g : List Token) : Bool := match g with | t :: _ => t.stop == 0 | [] => false
def isStopGroup (g : List Token) : Bool := match g with | t :: _ => t.stop != 0 | [] => false

/-- Registers east and south of a CE are free, or the CE is at the edge (R249). -/
def Region.forwards (r : Region) (key : Nat) : Bool :=
  let x := key % 64
  let y := key / 64
  (decide (4 * r.w ≤ x + 1) || (r.ce (key + 1)).aReg.isEmpty) && (decide (4 * r.h ≤ y + 1) || (r.ce (key + 64)).bReg.isEmpty)

/-- The groups of a CE pass east and south; groups leaving the region are dropped. -/
def Region.passGroups (r : Region) (key : Nat) : Region :=
  let c := r.ce key
  let set (r : Region) (k : Nat) (f : Ce → Ce) : Region := { r with ces := tput r.ces k (f (r.ce k)) }
  let r := set r key (fun c => { c with aReg := [], bReg := [] })
  let r := if key % 64 + 1 < 4 * r.w then set r (key + 1) (fun n => { n with aReg := c.aReg }) else r
  if key / 64 + 1 < 4 * r.h then set r (key + 64) (fun n => { n with bReg := c.bReg }) else r

/-- A group at the head of a port's channel: a stop alone, or four beats, cut short behind a stop. -/
def takeGroup (buf : List Token) : Option (List Token × List Token) :=
  match buf with
  | [] => none
  | t :: rest =>
    if t.stop ≠ 0 then some ([t], rest)
    else
      let pre := buf.takeWhile (fun t => t.stop == 0)
      if 4 ≤ pre.length then some (buf.take 4, buf.drop 4)
      else if pre.length < buf.length then some (buf.take (pre.length + 1), buf.drop (pre.length + 1))
      else none

/-- Fill a register from its port's channel, the task's own context first. -/
def Region.portGroup (r : Region) (b e ctx : Nat) : Option (List Token × Region) :=
  match r.image.bind (fun i => i.chanTo b e) with
  | none => none
  | some c =>
    (ctx :: [0, 1, 2, 3]).findSome? (fun k => (takeGroup (r.chan c k).buf).map (fun g => (g.1, r.setChan c k { r.chan c k with buf := g.2 })))

/-- The registers at the region's west and north edges take the next group of their ports (R248), unless the brake or a freeze holds them (R258,
R368). -/
def Region.refill (r : Region) (key : Nat) : Region :=
  match (if r.brake || r.frozen then none else (r.tasksOn key).find? (fun e => e.2.isKstep)) with
  | none => r
  | some (b, bl) =>
    let ctx := bl.ctxm.headD 0
    let r := if key % 64 = 0 ∧ (r.ce key).aReg.isEmpty then
        match r.portGroup b 0 ctx with
        | some (g, r) => { r with ces := tput r.ces key { r.ce key with aReg := g } }
        | none => r
      else r
    if key / 64 = 0 ∧ (r.ce key).bReg.isEmpty then
      match r.portGroup b 1 ctx with
      | some (g, r) => { r with ces := tput r.ces key { r.ce key with bReg := g } }
      | none => r
    else r

/-- Beats in row order, whole, of the task's context and the port's type (R251). -/
def beatsOk (ctx : Nat) (ty : EType) (g : List Token) : Bool :=
  g.length == 4 && (g.zipIdx.all (fun e => beatRow e.1 == e.2 && e.1.valid == 0xFFFF && e.1.ctx.val == ctx && e.1.etype == ty && e.1.stop == 0))

/-! ### Readiness (R198, R199, R203, R244, R250) -/

/-- Why a task may not start now, or that it may and with what round; a fault names its kind and instruction. -/
inductive Ready where
  | no
  | yes (kind : RoundKind)
  | noRound
  | noFrame
  | faulty (kind : Fin 10) (instr : Nat)
  deriving DecidableEq

/-- Frames free beyond the guaranteed ones (R196). -/
def Region.freeFrames (r : Region) (key : Nat) : Nat :=
  let tasks := r.tasksOn key
  let held := ((r.ce key).rounds.filter (fun rd => rd.frame)).foldl (fun n rd =>
    n + ((tasks.find? (fun e => e.1 == rd.block)).map (fun e => e.2.frame)).getD 0) 0
  96 - tasks.foldl (fun n e => n + e.2.frame) 0 - held

/-- The task's guaranteed frame is taken by a round in flight (R197). -/
def Ce.firstFrameUsed (c : Ce) (b : Nat) : Bool := c.rounds.any (fun rd => rd.block == b && !rd.frame && rd.kind != .kstep)

/-- R198: a round entry and a frame; a task that lacks both waits for neither alone. -/
def Region.roomFor (r : Region) (key b : Nat) (bl : Block) (kind : RoundKind) : Ready :=
  let c := r.ce key
  let full := decide (8 ≤ c.rounds.length)
  let frameless := c.firstFrameUsed b && decide (r.freeFrames key < bl.frame)
  if full && frameless then .no else if full then .noRound else if frameless then .noFrame else .yes kind

/-- A block that is in flight on a CE loads its bit-network patterns (R244). -/
def Region.loading (r : Region) (key : Nat) : Bool :=
  (r.ce key).rounds.any (fun rd => match r.image.bind (fun i => i.blocks[rd.block]?) with
    | some o => o.loadsPatterns (fun n => (rd.consts[kIndex o.code n]?).getD 0)
    | none => false)

/-- The two readiness rules of R244, for a task in a context. -/
def Region.patternsFree (r : Region) (key : Nat) (bl : Block) (ctx : Nat) : Bool :=
  !(bl.loadsPatterns (bl.constK ctx) && !(r.ce key).rounds.isEmpty) && !r.loading key

/-- STOP of the group in a register. -/
def groupLevel (g : List Token) : Fin 8 := (g.headD Token.empty).stop

/-- A task in a context (R199). -/
def Region.taskReady (r : Region) (key b : Nat) (bl : Block) (ctx : Nat) : Ready :=
  match r.image with
  | none => .no
  | some i =>
    let c := r.ce key
    let pops := i.pops b
    let heads := pops.filterMap (fun e => ((r.chan e.2 ctx).buf.head?).map (fun t => (e.1, t)))
    let markers := heads.filter (fun e => isMarker e.2)
    let stops := isStopGroup c.aReg && isStopGroup c.bReg
    if r.frozen || !bl.ctxm.contains ctx then .no
    else if bl.isKstep && !(stops && !r.brake && r.forwards key && !c.rounds.any (fun rd => rd.block == b && rd.kind == .kstep)) then .no
    else if !markers.isEmpty && decide (markers.length < heads.length) then .faulty 2 ((markers.map (·.1)).headD 0)
    else if heads.length < pops.length then .no
    else
      let marker := !markers.isEmpty || (bl.isKstep && groupLevel c.aReg == 7)
      if (i.claims b marker).any (fun e => decide (r.chanFree e.1 ctx < e.2)) then .no
      else if !r.patternsFree key bl ctx then .no
      else r.roomFor key b bl (if marker then .marker else if bl.isKstep then .stop else .ordinary)

def Ready.isYes : Ready → Bool
  | .yes _ => true
  | _ => false

/-- What is wrong with the stop groups of a K-step task, or with them and the heads of its channels, where a stop round would start (R203, R250,
R251): the kind of fault. -/
def Region.stopFault (r : Region) (key b : Nat) (bl : Block) (ctx : Nat) : Option (Fin 10) :=
  let c := r.ce key
  let heads := ((r.image.map (fun i => i.pops b)).getD []).filterMap (fun e => (r.chan e.2 ctx).buf.head?)
  let la := groupLevel c.aReg
  let lb := groupLevel c.bReg
  if !bl.isKstep then none
  else if la != lb then some (if la = 7 ∨ lb = 7 then 2 else 1)
  else if !heads.isEmpty && (la == 7) != heads.any isMarker then some 2
  else none

/-! ### ROUND_START (R200 to R204, R212, R250) -/

def rcKey (slot ctx : Nat) : Nat := slot * 4 + ctx

/-- Pending argument writes of a task and context that are not applied yet are applied in issue order (R212). -/
def applyArgs (args : List ArgWrite) (slot b ctx : Nat) (bl : Block) : Block :=
  args.foldl (fun (bl : Block) a =>
    if a.slot == slot && a.block == b && a.ctx == ctx && !a.done then
      { bl with consts := tput bl.consts ctx ((tgetD bl.consts ctx bl.loaded).set a.kidx a.v) }
    else bl) bl

def Region.setBlock (r : Region) (slot : Fin 4) (b : Nat) (bl : Block) : Region :=
  match r.slots.get slot with
  | some i => { r with slots := r.slots.set slot.val (some { i with blocks := i.blocks.set b bl }) slot.isLt }
  | none => r

/-- A marker round applies the writes that govern the next invocation; they stay pending until it commits. -/
def Region.markArgs (r : Region) (b ctx : Nat) (bl : Block) : Region :=
  match r.active with
  | none => r
  | some k =>
    let r := r.setBlock k b (applyArgs r.args k.val b ctx bl)
    { r with args := r.args.map (fun a => if a.slot == k.val && a.block == b && a.ctx == ctx then { a with done := true } else a) }

/-- A round starts with everything it claims (R201). -/
def Region.startRound (r : Region) (key b : Nat) (bl : Block) (ctx : Fin 4) (kind : RoundKind) : Region :=
  match r.image with
  | none => r
  | some i =>
    let c := r.ce key
    let marker := kind == .marker
    let pops := i.pops b
    let num := tgetD c.rc (rcKey bl.slot ctx.val) 0
    let popped := pops.map (fun e => (e.1, Slot.l, ((r.chan e.2 ctx.val).buf.headD Token.empty)))
    let groups := if bl.isKstep then c.aReg.map (fun t => (0, Slot.l, t)) ++ c.bReg.map (fun t => (0, Slot.t, t)) else []
    let rd : Round := ⟨b, ctx, num, kind, c.firstFrameUsed b, popped ++ groups, [], [], 0, [], [], [], [], [], pops.map (·.2), 0,
      tgetD bl.consts ctx.val bl.loaded, false⟩
    let r := if bl.isKstep then r.passGroups key else r
    let r := pops.foldl (fun (r : Region) e =>
      let st := r.chan e.2 ctx.val
      r.setChan e.2 ctx.val { st with buf := st.buf.tail, reserved := st.reserved + 1 }) r
    let r := (i.claims b marker).foldl (fun (r : Region) e =>
      let st := r.chan e.1 ctx.val
      r.setChan e.1 ctx.val { st with reserved := st.reserved + e.2 }) r
    let c := r.ce key
    let k := rcKey bl.slot ctx.val
    let c := { c with
      rounds := c.rounds ++ [rd]
      rc := tput c.rc k (num + 1)
      started := if marker then c.started.filter (fun e => e != k) else insertNat k c.started }
    let r := { r with ces := tput r.ces key c }
    if marker then r.markArgs b ctx.val bl else r

/-- A K-step task has all it needs for a K-step round but for the round entry (R244, R249). -/
def Region.kstepAwake (r : Region) (key : Nat) (bl : Block) (ctx : Nat) : Bool :=
  let c := r.ce key
  !(r.frozen || r.brake || !r.forwards key || c.aReg.isEmpty || c.bReg.isEmpty || (isStopGroup c.aReg && isStopGroup c.bReg)) && r.patternsFree key bl ctx

/-- A K-step task of a CE waits for a round entry alone; the cycle has been counted with its K-step round (R198). -/
def Region.kstepWaits (r : Region) (key : Nat) : Bool :=
  decide (8 ≤ (r.ce key).rounds.length) && (r.tasksOn key).any (fun e => e.2.isKstep && r.kstepAwake key e.2 (e.2.ctxm.headD 0 % 4))

/-- SelectTask (R200): the task chosen among the ready ones, and the CE's counts after it. -/
def selectTask (i : Image) (c : Ce) (ready : List (Nat × Block)) : Option ((Nat × Block) × Ce × Bool) :=
  let passed (bl : Block) : Nat := tgetD c.passed bl.slot 0
  let aged := ready.filter (fun e => decide (64 ≤ passed e.2))
  let top := ready.foldl (fun p e => max p (i.eff e.1 e.2)) 0
  let pool := if aged.isEmpty then ready.filter (fun e => i.eff e.1 e.2 == top) else aged
  let order := (List.range 16).map (fun n => (c.last + 1 + n) % 16)
  match order.findSome? (fun sl => pool.find? (fun e => e.2.slot == sl)) with
  | none => none
  | some t =>
    let p := ready.foldl (fun (p : Tbl Nat) e => tput p e.2.slot (if e.1 = t.1 then 0 else tgetD p e.2.slot 0 + 1)) c.passed
    some (t, { c with passed := p, last := t.2.slot }, !aged.isEmpty)

/-- ROUND_START (R200): one cycle of a CE's selection in the named context, then the refill of its registers. A task's passed count returns to 0 when
the task is ready in no context, not when it is merely not ready in the one that is named (DESIGN CHOICE, log 28: the rule does not say
which). -/
def execRoundStart (rgn ce : Nat) (st : State) : Out :=
  match st.region rgn with
  | none => .next st
  | some r =>
    let tasks := r.tasksOn ce
    let idleTasks := tasks.filter (fun e => [0, 1, 2, 3].all (fun c => !(r.taskReady ce e.1 e.2 c).isYes))
    let c := r.ce ce
    let c := { c with passed := idleTasks.foldl (fun (p : Tbl Nat) e => tdel p e.2.slot) c.passed }
    let r := { r with ces := tput r.ces ce c }
    match r.named, r.image with
    | some ctx, some i =>
      let rs := tasks.map (fun e => (e, r.taskReady ce e.1 e.2 ctx.val))
      let r := if rs.any (fun e => e.2 == .noRound) && !r.kstepWaits ce then r.count 3 else r
      let r := if rs.any (fun e => e.2 == .noFrame) then r.count 2 else r
      let faults := rs.filterMap (fun e => match e.2 with | .faulty k n => some (e.1, k, n) | _ => none)
      let (r, faults) : Region × List ((Nat × Block) × Fin 10 × Nat) :=
        match selectTask i (r.ce ce) ((rs.filter (fun e => e.2.isYes)).map (·.1)) with
        | none => (r, faults)
        | some ((b, bl), c, aged) =>
          let r := { r with ces := tput r.ces ce c }
          let r := if aged then r.count 1 else r
          match r.taskReady ce b bl ctx.val, r.stopFault ce b bl ctx.val with
          | .yes _, some k => (r, faults ++ [((b, bl), k, 0)])
          | .yes kind, none => (r.startRound ce b bl ctx kind, faults)
          | _, _ => (r, faults)
      let s := st.setRegion rgn (r.refill ce)
      .next (faults.foldl (fun (s : State) f =>
        s.ceFault rgn ce f.2.1 f.1.1 ctx (tgetD (r.ce ce).rc (rcKey f.1.2.slot ctx.val) 0) f.2.2) s)
    | _, _ => .next (st.setRegion rgn (r.refill ce))

/-! ### K_STEP_ROUND (R249, R251, R254) -/

/-- The fault that groups of a K-step task raise where a K-step round would start on them. -/
def groupFault (bl : Block) (ctx : Nat) (a b : List Token) (k : Word) : Option (Fin 10) :=
  let mk (g : List Token) : Bool := isMarker (g.headD Token.empty)
  if isStopGroup a != isStopGroup b then
    if mk a || mk b then some 2 else some 1
  else
    let lk := BitVec.ofNat 64 (bl.loadedK 0)
    if beatsOk ctx (mmaA lk) a && beatsOk ctx (mmaB lk) b && mmaConstOk k && mmaA k == mmaA lk && mmaB k == mmaB lk then none else some 1

/-- K_STEP_ROUND (R249): a K-step starts on the groups in the registers, which pass on; its effect on the bank comes at commit. -/
def execKStepRound (rgn ce : Nat) (st : State) : Out :=
  match st.region rgn with
  | none => .next st
  | some r =>
    let c := r.ce ce
    match (r.tasksOn ce).find? (fun e => e.2.isKstep) with
    | none => .next st
    | some (b, bl) =>
      let ctx : Fin 4 := ⟨bl.ctxm.headD 0 % 4, Nat.mod_lt _ (by decide)⟩
      let consts := tgetD bl.consts ctx.val bl.loaded
      if !r.kstepAwake ce bl ctx.val then .next st
      else if 8 ≤ c.rounds.length then .next (st.setRegion rgn (r.count 3))
      else match groupFault bl ctx.val c.aReg c.bReg (consts.headD 0) with
        | some k => .next (st.ceFault rgn ce k b ctx (tgetD c.rc (rcKey bl.slot ctx.val) 0) 0)
        | none =>
          let rd : Round := ⟨b, ctx, tgetD c.rc (rcKey bl.slot ctx.val) 0, .kstep, false,
            c.aReg.map (fun t => (0, Slot.l, t)) ++ c.bReg.map (fun t => (0, Slot.t, t)), [], [(4, 128, .l, Token.empty)], 0, [], [], [], [], [], [], 0, consts, false⟩
          let r := r.passGroups ce
          let c := r.ce ce
          .next (st.setRegion rgn { r with ces := tput r.ces ce { c with
            rounds := c.rounds ++ [rd], started := insertNat (rcKey bl.slot ctx.val) c.started } })

/-! ### VECTOR_UNIT_START (R221) -/

/-- An instruction of a round that has its operands and has not started. -/
def Round.ready (rd : Round) (bl : Block) (n : Nat) (i : Instr) : Bool :=
  !rd.bad && !rd.fired.contains n && (rd.kind != .kstep || n == 0) && (Instr.tokenSlots i).all (fun sl => (rd.val n sl).isSome) &&
  (!isPop i || (rd.val n .l).isSome) && decide (n < bl.code.length)

/-- Whether an instruction needs the vector unit. -/
def needsUnit (i : Instr) : Bool := Instr.unitCycles i .i8 0 != 0

/-- The instruction that starts next on a CE, as (round, index): those that need no unit first, then one for a free unit. -/
def Region.nextElem (r : Region) (key : Nat) : Option (Nat × Nat) :=
  match r.image with
  | none => none
  | some i =>
    let c := r.ce key
    let cands := c.rounds.zipIdx.flatMap (fun (e : Round × Nat) =>
      match i.blocks[e.1.block]? with
      | some bl => (bl.code.zipIdx.filter (fun x => e.1.ready bl x.2 x.1)).map (fun x => (e.2, x.2, x.1))
      | none => [])
    match cands.find? (fun x => !needsUnit x.2.2) with
    | some x => some (x.1, x.2.1)
    | none => if c.busy = 0 then (cands.head?).map (fun x => (x.1, x.2.1)) else none

/-- VECTOR_UNIT_START (R221): the next instruction is put up to execute, and the event looks again behind it. -/
def execVectorUnitStart (rgn ce : Nat) (st : State) : Out :=
  match (st.region rgn).bind (fun r => r.nextElem ce) with
  | none => .next st
  | some (rd, n) => .next { st with turn := .elem ⟨rgn, ce, rd, n⟩, agenda := .vectorUnitStart rgn ce :: st.agenda }

/-! ### ROUND_COMMIT (R201, R202, R204, R212, R244, R253) -/

/-- Every instruction has started; a K-step has had its four cycles. -/
def Round.complete (rd : Round) (bl : Block) : Bool :=
  !rd.bad && (if rd.kind = .kstep then rd.fired.contains 0 && rd.inFlight.isEmpty else (List.range bl.code.length).all (fun n => rd.fired.contains n))

/-- The constant of an instruction as the round holds it. -/
def Round.constOf (rd : Round) (bl : Block) (n : Nat) : Word := (rd.consts[kIndex bl.code n]?).getD 0

/-- What keeps a complete round from committing (R179, R268): the kind of fault and the instruction. -/
def Region.commitFault (r : Region) (rd : Round) (bl : Block) : Option (Fin 10 × Nat) :=
  if rd.kind = .kstep then none
  else bl.code.zipIdx.findSome? (fun (e : Instr × Nat) =>
    let k := rd.constOf bl e.2
    let lk := BitVec.ofNat 64 (bl.loadedK e.2)
    if isPop e.1 || isPush e.1 || isBqw e.1 then if k = lk then none else some (1, e.2)
    else match mtOp e.1 with
      | some op =>
        if !r.hasTile (mtU k) (mtV k) then some (3, e.2)
        else if !mtConstOk op k || mtCh k != mtCh lk then some (1, e.2)
        else none
      | none => none)

/-- FLAGS that markers of the round carry: the context's set and those of the markers it consumed (R39). -/
def Round.markerFlags (rd : Round) (set : FlagSet) : FlagSet :=
  rd.vals.foldl (fun fl v => if isMarker v.2.2 then fl ||| v.2.2.flags else fl) set

/-- A pushed token as it enters its channel (R181). -/
def Round.dressPush (rd : Round) (fl : FlagSet) (t : Token) : Token :=
  { t with round := BitVec.ofNat 15 rd.num, ctx := rd.ctx, flags := if isMarker t then rd.markerFlags fl else 0 }

/-- Release one reserved slot of a channel. -/
def Region.release (r : Region) (c ctx n : Nat) : Region := let st := r.chan c ctx; r.setChan c ctx { st with reserved := st.reserved - n }

/-- The effects of a commit, all at once (R201). -/
def State.commitRound (s : State) (r : Region) (key : Nat) (rd : Round) (bl : Block) : Region :=
  let ctx := rd.ctx.val
  let c := r.ce key
  -- banks and flags
  let (banks, fl) := rd.bank.foldl (fun (acc : Vector Bank 4 × FlagSet) o =>
    let b := o.bank
    let (k, f) := o.apply bl rd.ctx (acc.1.get b)
    (acc.1.set b.val k b.isLt, acc.2 ||| f)) (c.banks, c.flags.get rd.ctx ||| rd.flags)
  let bn := rd.loads.foldl (fun (v : Vector (List Byte) 8) e => if h : e.1 < 8 then v.set e.1 e.2 h else v) c.bn
  let marker := rd.kind == .marker
  let c := { c with
    rounds := c.rounds.tail
    rc := if marker then tput c.rc (rcKey bl.slot ctx) 0 else c.rc
    banks := banks
    bn := bn
    flags := c.flags.set ctx (if marker then 0 else fl) rd.ctx.isLt }
  let r := { r with ces := tput r.ces key c }
  let r := rd.pops.foldl (fun (r : Region) p => r.release p ctx 1) r
  let r := rd.pushes.foldl (fun (r : Region) p => s.sendChan (r.release p.1 ctx 1) p.1 ctx (rd.dressPush fl p.2)) r
  let r := rd.bqws.foldl (fun (r : Region) p =>
    let r := r.release p.1 ctx 1
    match p.2 with
    | some v => s.sendChan r p.1 ctx { Token.empty with ctx := rd.ctx, valid := 1, lanes := Vector.ofFn (fun l => if l = 0 then v else 0) }
    | none => r) r
  let r := rd.reqs.foldl (fun (r : Region) p =>
    let m := tgetD r.mts p.2 Mt.new
    let q := { p.1 with
      hops := linkCount (r.ceNode (key % 64) (key / 64)) (r.mtNode (p.2 % 32) (p.2 / 32))
      resp := { p.1.resp with flags := rd.markerFlags fl } }
    { r with mts := tput r.mts p.2 { m with arriving := m.arriving ++ [q] } }) r
  let r := r.count 0
  if marker then
    { r with args := r.args.filter (fun a => !(a.done && a.block == rd.block && a.ctx == ctx && r.active == some ⟨a.slot % 4, Nat.mod_lt _ (by decide)⟩)) }
  else r

/-- ROUND_COMMIT (R201): the oldest round of a CE commits once it is complete; the next may follow in the same cycle. -/
def execRoundCommit (rgn ce : Nat) (st : State) : Out :=
  match st.region rgn with
  | none => .next st
  | some r =>
    match (r.ce ce).rounds with
    | [] => .next st
    | rd :: rest =>
      match r.image.bind (fun i => i.blocks[rd.block]?) with
      | none => .next st
      | some bl =>
        if !rd.complete bl then .next st
        else match r.commitFault rd bl with
          | some (k, n) =>
            let r := { r with ces := tput r.ces ce { r.ce ce with rounds := { rd with bad := true } :: rest } }
            .next ((st.setRegion rgn r).ceFault rgn ce k rd.block rd.ctx rd.num n)
          | none =>
            let s := st.setRegion rgn (st.commitRound r ce rd bl)
            .next { s with agenda := .roundCommit rgn ce :: s.agenda }

/-! ### Channels, contexts, quiet (R205, R206, R403) -/

/-- Tokens whose way is over reach their channel's head, in order (R403). -/
def ChanState.land (st : ChanState) : ChanState :=
  let here := st.transit.takeWhile (fun e => e.2 == 0)
  { st with buf := st.buf ++ here.map (·.1), transit := st.transit.drop here.length }

/-- CHANNEL_HEAD_ARRIVAL (R403). -/
def execChannelHeadArrival (rgn chan : Nat) (st : State) : Out :=
  .next (st.onRegion rgn (fun r => [0, 1, 2, 3].foldl (fun (r : Region) c => r.setChan chan c (r.chan chan c).land) r))

/-- A holder of a port has a deliverable token for it: a bound input queue, a stream feeding it, a chain's receive port, an engine. -/
def State.holdsToken (s : State) (port : Nat) (b : Binding) : Bool :=
  match b with
  | .queue t q => match tget (s.thread t).qs q with
    | some x => !x.out && x.toks.any (fun k => !k.2.2)
    | none => false
  | .stream t k => match tget (s.thread t).ss k with
    | some (.stream x) => !x.store && !x.out.isEmpty
    | _ => false
  | .chainR t k => match tget (s.thread t).ss k with
    | some (.chain c) => c.outbox.any (fun o => o.1 == port)
    | _ => false
  | .pool t k => ((tget (s.thread t).pools k).map (fun p => p.tokenDue)).getD false
  | .copy t k => ((tget (s.thread t).copies k).map (fun p => p.tokenDue)).getD false
  | _ => false

/-- A deliverable token of a context waits at an ingress port, a restored one included (R205). -/
def State.waitsAtIngress (s : State) (r : Region) (ctx : Nat) : Bool :=
  r.ingress.any (fun e => e.2.ctx.val == ctx) || (s.bindings r).any (fun e => e.2.1 == ctx && s.holdsToken e.1 e.2.2)

def Region.roundsOf (r : Region) (ctx : Nat) : Bool := r.ces.any (fun e => e.2.rounds.any (fun rd => rd.ctx.val == ctx))

/-- Groups stand in the registers of a K-step task of a context. -/
def Region.groupsOf (r : Region) (ctx : Nat) : Bool :=
  r.ces.any (fun e => (!e.2.aReg.isEmpty || !e.2.bReg.isEmpty) && (r.tasksOn e.1).any (fun t => t.2.isKstep && t.2.ctxm.contains ctx))

/-- A context is idle (R205); the groups of a matrix region count as its tokens, and a token on its way to its slot of a buffer counts as there (log 18). -/
def State.idleCtx (s : State) (r : Region) (ctx : Nat) : Bool :=
  !s.waitsAtIngress r ctx && !r.roundsOf ctx && !r.groupsOf ctx && r.chans.all (fun e => e.1 % 4 != ctx || (e.2.buf.isEmpty && e.2.transit.isEmpty))

/-- NextContext (R205): contexts tried in turn, idle ones counted. -/
def nextContext (s : State) (r : Region) : Nat → Nat → Nat → Option (Fin 4) × Nat
  | 0, _, skips => (none, skips)
  | n + 1, step, skips =>
    let c : Fin 4 := r.cur + ⟨step % 4, Nat.mod_lt _ (by decide)⟩
    if r.runs c.val then
      if s.idleCtx r c.val then nextContext s r n (step + 1) (skips + 1) else (some c, skips)
    else nextContext s r n (step + 1) skips

/-- CONTEXT_COUNTER (R205). -/
def execContextCounter (rgn : Nat) (st : State) : Out :=
  match st.region rgn with
  | none => .next st
  | some r =>
    let (c, skips) := nextContext st r 4 1 0
    .next (st.setRegion rgn ({ r with named := c, cur := c.getD r.cur }.count 4 skips))

/-- A context is quiet: no node holds a token or round of it, and none crosses a link (R206). -/
def Region.quiet (r : Region) (ctx : Nat) : Bool :=
  !r.roundsOf ctx && !r.groupsOf ctx && !r.ingress.any (fun e => e.2.ctx.val == ctx) &&
  r.chans.all (fun e => e.1 % 4 != ctx || (e.2.buf.isEmpty && e.2.transit.isEmpty)) &&
  r.mts.all (fun e => (e.2.arriving ++ e.2.queue).all (fun q => match q.work with | .lanes .. | .stop .. => q.ctx.val != ctx | _ => true))

def Region.allQuiet (r : Region) : Bool := [0, 1, 2, 3].all r.quiet

/-- QUIET_REPORT (R206, R207): contexts found quiet since a DRAIN WAIT issued are ticked off. -/
def execQuietReport (rgn : Nat) (st : State) : Out :=
  .next (st.onRegion rgn (fun r => { r with waiters := r.waiters.map (fun w => (w.1, w.2.filter (fun c => !r.quiet c))) }))

/-! ### Ingress buckets (R213) -/

/-- A token is held for want of credit alone: its point is open and its channel has room (R207, R213). -/
def State.wantsCredit (s : State) (r : Region) : Bool :=
  let held (port ctx : Nat) (p : Point) : Bool := !r.portClosed port ctx && s.lacksCredit r.die p &&
    (match r.image.bind (fun i => i.portChan port) with
    | some c => decide (0 < r.chanFree c ctx)
    | none => false)
  (s.bindings r).any (fun e => s.holdsToken e.1 e.2.2 && held e.1 e.2.1 (s.bindingPoint e.2.2)) ||
  r.ingress.any (fun e => held e.1 e.2.ctx.val (s.portPoint r e.1 e.2.ctx.val))

/-- One cycle's credit of the buckets of a die. -/
def State.addCredit (s : State) (die : Fin 4) : State :=
  { s with credit := s.credit.filterMap (fun e =>
      let (node, d) := pointNode e.1
      let (rate, depth) := s.bucketAt die node
      if d ≠ die then some e else if depth * 1024 ≤ e.2 + rate then none else some (e.1, e.2 + rate)) }

/-- BUCKET_CREDIT (R213): every bucket of a die that is not full gains, and a cycle in which a token still wants credit is counted in its region. -/
def execBucketCredit (die : Fin 4) (st : State) : Out :=
  let s := st.addCredit die
  .next { s with regions := s.regions.map (fun (e : Nat × Region) => (e.1, if e.2.die == die && s.wantsCredit e.2 then e.2.count 5 else e.2)) }

/-! ### The sequencer timeout (R367) -/

/-- The egress point of an output port is closed: by the region, with its binding after a swap (R210), or with its link port (R385). -/
def State.egressClosed (s : State) (r : Region) (port ctx : Nat) : Bool :=
  r.portClosed port ctx ||
  (match s.bindingAt r port ctx with
  | none => false
  | some (.queue t q) => (tget (s.thread t).qs q).any (fun x => x.closed || x.remote.any (fun k => k.dead))
  | some (.bq t) => (s.thread t).bq.any (fun b => b.closed)
  | some (.stream t k) => match tget (s.thread t).ss k with
    | some (.stream x) => x.closed
    | _ => false
  | some (.chainS t k) => match tget (s.thread t).ss k with
    | some (.chain c) => c.closed || c.downLink.any (fun n => (s.link n).state != 2)
    | _ => false
  | some _ => false)

/-- Cycles of a region count toward the timeout: not frozen, not braked, and no closed egress point that holds a token. -/
def State.timed (s : State) (r : Region) : Bool :=
  !r.frozen && !r.brake && !(r.image.any (fun i => i.ports.zipIdx.any (fun e => e.1.out && [0, 1, 2, 3].any (fun c =>
    (match i.portChan e.2 with | some k => !(r.chan k c).buf.isEmpty | none => false) && s.egressClosed r e.2 c))))

/-- SEQUENCER_TIMEOUT (R367): a round or a tile's request has been held too long. -/
def execSequencerTimeout (rgn : Nat) (mt : Bool) (unit : Nat) (st : State) : Out :=
  match st.region rgn with
  | none => .next st
  | some r =>
    let lim := (st.part r.part).fld 0x3C0 63 32 * 1024
    if lim = 0 then .next st
    else if mt then
      match tget r.mts unit with
      | none => .next st
      | some m =>
        match m.queue.find? (fun q => !q.bad && decide (lim ≤ q.age)) with
        | none => .next st
        | some q =>
          let m := { m with queue := m.queue.map (fun o => if o == q then { o with bad := true } else o) }
          .next ((st.setRegion rgn { r with mts := tput r.mts unit m }).execFault rgn 5 1 (unit % 32) (unit / 32) 0xFF q.ctx q.round.toNat 0)
    else
      let c := r.ce unit
      match c.rounds.zipIdx.find? (fun e => !e.1.bad && decide (lim ≤ e.1.age)) with
      | none => .next st
      | some (rd, n) =>
        let c := { c with rounds := c.rounds.set n { rd with bad := true } }
        .next ((st.setRegion rgn { r with ces := tput r.ces unit c }).ceFault rgn unit 5 rd.block rd.ctx rd.num 0)

end Sys2Proof.Machine
end

