-- ==== Sys2Proof/Machine/Shake.lean ====
section
/-!
DEFINITION. SHAKE256 (R70, R426): Keccak-f[1600] on 25 lanes, rate 136 bytes, suffix 1111.
-/
namespace Sys2Proof.Machine

/-- Round constants of Keccak-f[1600]. -/
def keccakRC : List Word :=
  [0x1, 0x8082, 0x800000000000808a, 0x8000000080008000, 0x808b, 0x80000001] ++
  [0x8000000080008081, 0x8000000000008009, 0x8a, 0x88, 0x80008009, 0x8000000a] ++
  [0x8000808b, 0x800000000000008b, 0x8000000000008089, 0x8000000000008003, 0x8000000000008002, 0x8000000000000080] ++
  [0x800a, 0x800000008000000a, 0x8000000080008081, 0x8000000000008080, 0x80000001, 0x8000000080008008]

/-- Rotation offsets of lane x + 5y. -/
def keccakRho : List Nat := [0, 1, 62, 28, 27, 36, 44, 6, 55, 20, 3, 10, 43, 25, 39, 41, 45, 15, 21, 8, 18, 2, 61, 56, 14]

/-- A lane of a state of 25. -/
def lane (a : List Word) (i : Nat) : Word := a.getD i 0

/-- One round: theta, rho and pi, chi, iota. -/
def keccakRound (a : List Word) (rc : Word) : List Word :=
  let c := (List.range 5).map fun x => lane a x ^^^ lane a (x + 5) ^^^ lane a (x + 10) ^^^ lane a (x + 15) ^^^ lane a (x + 20)
  let d := (List.range 5).map fun x => lane c ((x + 4) % 5) ^^^ (lane c ((x + 1) % 5)).rotateLeft 1
  let t := (List.range 25).map fun i => lane a i ^^^ lane d (i % 5)
  -- lane (x, y) moves to (y, 2x + 3y): the lane that lands at (X, Y) comes from x = X + 3Y, y = X
  let b := (List.range 25).map fun i =>
    let x := (i % 5 + 3 * (i / 5)) % 5
    let y := i % 5
    (lane t (x + 5 * y)).rotateLeft (keccakRho.getD (x + 5 * y) 0)
  let e := (List.range 25).map fun i =>
    let y := i / 5 * 5
    lane b i ^^^ (~~~(lane b (y + (i + 1) % 5)) &&& lane b (y + (i + 2) % 5))
  match e with
  | h :: r => (h ^^^ rc) :: r
  | [] => []

def keccakF (a : List Word) : List Word := keccakRC.foldl keccakRound a

/-- Eight bytes, lowest first, as a word. -/
def wordOfBytes (bs : List Byte) : Word := BitVec.ofNat 64 (bs.foldr (fun b n => b.toNat + 256 * n) 0)

def bytesOfWord (w : Word) : List Byte := (List.range 8).map fun i => BitVec.ofNat 8 (w.toNat / 256 ^ i)

/-- Words of a byte string, n of them. -/
def wordsOf : Nat → List Byte → List Word
  | 0, _ => []
  | n + 1, bs => wordOfBytes (bs.take 8) :: wordsOf n (bs.drop 8)

/-- Absorb blocks of 136 bytes; the last is padded with 0x1F … 0x80. -/
def absorb : Nat → List Word → List Byte → List Word
  | 0, st, _ => st
  | fuel + 1, st, bs =>
    let full := 136 ≤ bs.length
    let blk := if full then bs.take 136 else
      let z := bs ++ 0x1F :: List.replicate (135 - bs.length) 0
      z.take 135 ++ [z.getD 135 0 ||| 0x80]
    let ws := wordsOf 17 blk
    let st := keccakF ((List.range 25).map fun i => lane st i ^^^ lane ws i)
    if full then absorb fuel st (bs.drop 136) else st

/-- The first n bytes of SHAKE256 of a byte string, n at most 136. -/
def shake256 (bs : List Byte) (n : Nat) : List Byte :=
  ((absorb (bs.length / 136 + 1) (List.replicate 25 0) bs).flatMap bytesOfWord).take n

end Sys2Proof.Machine
end

