-- ==== Sys2Proof/Machine/Image.lean ====
section
/-!
DEFINITION. Graph images as CFGLD reads them (R59 to R64, R67 to R71, R179, R196, R197, R235, R243, R246, R254, R255, R266 to R268): the offending
offsets of a byte string, the image it stands for, its placement and what it charges to each CE.
-/
namespace Sys2Proof.Machine

/-- The offset, unless a rule holds there. -/
def need (ok : Bool) (off : Nat) : List Nat := if ok then [] else [off]

def allZero (bs : List Byte) (off n : Nat) : Bool := bytesAt bs off n == 0

/-! ### The header (R67) -/

def imgBlocks (bs : List Byte) : Nat := bytesAt bs 12 4
def imgChans (bs : List Byte) : Nat := bytesAt bs 10 2
def imgPorts (bs : List Byte) : Nat := bytesAt bs 28 2
def imgLength (bs : List Byte) : Nat := bytesAt bs 40 4
def imgPlaced (bs : List Byte) : Bool := bytesAt bs 6 2 % 2 == 1

/-- The five starts: block, channel and port table, code and constant area. -/
def imgStarts (bs : List Byte) : List Nat := [bytesAt bs 16 4, bytesAt bs 20 4, bytesAt bs 24 4, bytesAt bs 32 4, bytesAt bs 36 4]

/-- An area runs to the lowest start above its own, or to LENGTH. -/
def areaEnd (bs : List Byte) (start : Nat) : Nat := (imgStarts bs).foldl (fun m o => if start < o ∧ o < m then o else m) (imgLength bs)

/-- Tables and areas as (header field, start, size). -/
def imgAreas (bs : List Byte) : List (Nat × Nat × Nat) :=
  let code := bytesAt bs 32 4
  let con := bytesAt bs 36 4
  [(16, bytesAt bs 16 4, 32 * imgBlocks bs), (20, bytesAt bs 20 4, 16 * imgChans bs), (24, bytesAt bs 24 4, 16 * imgPorts bs),
   (32, code, max 1 (areaEnd bs code - code)), (36, con, max 1 (areaEnd bs con - con))]

/-- A table or area is misplaced, or starts inside another: of two that overlap the field of the one that starts inside the other offends, the higher
field for equal starts. An empty table may stand at LENGTH itself (DESIGN CHOICE, log 42). -/
def areaOffences (bs : List Byte) : List Nat :=
  (imgAreas bs).flatMap (fun (f, o, n) =>
    need (decide (o % 8 = 0) && decide (n = 0 ∨ 64 ≤ o) && decide (o + n ≤ imgLength bs)) f ++
    need (n == 0 || !(imgAreas bs).any (fun (g, p, m) => g != f && decide (p ≤ o ∧ o < p + m) && decide (p < o ∨ g < f))) f)

def headerOffences (bs : List Byte) (w h : Nat) : List Nat :=
  let wi := bytesAt bs 8 1
  let he := bytesAt bs 9 1
  need (bytesAt bs 0 4 == 0x31494751) 0 ++ need (bytesAt bs 4 2 == 1) 4 ++ need (decide (bytesAt bs 6 2 < 2)) 6 ++
  need (decide (1 ≤ wi ∧ wi ≤ 12)) 8 ++ need (decide (1 ≤ he ∧ he ≤ 12)) 9 ++ need (wi == w && he == h) 8 ++
  need (decide (1 ≤ imgBlocks bs ∧ imgBlocks bs ≤ 256 * wi * he)) 12 ++ need (decide (imgPorts bs ≤ 64)) 28 ++ need (allZero bs 30 2) 30 ++
  need (decide (64 ≤ imgLength bs)) 40 ++ need (allZero bs 44 4) 44 ++ areaOffences bs

/-! ### Ports and channels (R69) -/

def portAt (bs : List Byte) (p : Nat) : Nat := bytesAt bs 24 4 + 16 * p
def readPort (bs : List Byte) (p : Nat) : Port := ⟨bytesAt bs (portAt bs p) 1 == 1, EType.ofCode (bytesAt bs (portAt bs p + 1) 1)⟩

def portOffences (bs : List Byte) (p : Nat) : List Nat :=
  let o := portAt bs p
  need (decide (bytesAt bs o 1 < 2)) o ++ need (decide (bytesAt bs (o + 1) 1 < 16)) (o + 1) ++ need (allZero bs (o + 2) 2) (o + 2)

def readEnd (v : Nat) : Endpoint := if v < 2 ^ 31 then .block (v / 16) (v % 16) else .port (v % 2 ^ 31)

def chanAt (bs : List Byte) (c : Nat) : Nat := bytesAt bs 20 4 + 16 * c
def readChan (bs : List Byte) (c : Nat) : Chan :=
  let o := chanAt bs c
  ⟨readEnd (bytesAt bs o 4), readEnd (bytesAt bs (o + 4) 4), bytesAt bs (o + 8) 1, EType.ofCode (bytesAt bs (o + 9) 1), bytesAt bs (o + 10) 1⟩

def isPort : Endpoint → Bool
  | .port _ => true
  | _ => false

/-- An endpoint names an existing block, or a port of the direction that this side of a channel needs. -/
def endOk (nb : Nat) (ports : List Port) (to' : Bool) : Endpoint → Bool
  | .block b _ => decide (b < nb)
  | .port p => match ports[p]? with
    | some q => q.out == to'
    | none => false

/-- Channel entries: the first use of an endpoint stands, a later one offends. -/
def chanOffences (bs : List Byte) (chans : List Chan) (ports : List Port) (c : Nat) (k : Chan) : List Nat :=
  let o := chanAt bs c
  let before := chans.take c
  need (endOk (imgBlocks bs) ports false k.from' && !before.any (fun q => q.from' == k.from')) o ++
  need (endOk (imgBlocks bs) ports true k.to' && !before.any (fun q => q.to' == k.to')) (o + 4) ++
  need (!(isPort k.from' && isPort k.to')) o ++
  need (decide (k.prio < 16)) (o + 8) ++ need (decide (bytesAt bs (o + 9) 1 < 16)) (o + 9) ++ need (decide (1 ≤ k.slots ∧ k.slots ≤ 60)) (o + 10) ++
  need (allZero bs (o + 11) 5) (o + 11)

/-! ### Blocks (R59 to R64, R68) -/

def blockAt (bs : List Byte) (b : Nat) : Nat := bytesAt bs 16 4 + 32 * b

/-- Where a block's header word and its first constant stand. -/
def codeAt (bs : List Byte) (b : Nat) : Nat := bytesAt bs 32 4 + bytesAt bs (blockAt bs b) 4
def constAt (bs : List Byte) (b : Nat) : Nat := bytesAt bs 36 4 + bytesAt bs (blockAt bs b + 4) 4

def headWord (bs : List Byte) (b : Nat) : Nat := bytesAt bs (codeAt bs b) 4
def headCount (bs : List Byte) (b : Nat) : Nat := bf (headWord bs b) 27 21
def headConsts (bs : List Byte) (b : Nat) : Nat := bf (headWord bs b) 20 14
def headKind (bs : List Byte) (b : Nat) : Nat := bf (headWord bs b) 9 8

def headOk (bs : List Byte) (b : Nat) : Bool :=
  let w := headWord bs b
  bf w 31 28 == 0xB && decide (bf w 20 14 ≤ 32) && bf w 9 8 != 3 && bf w 7 0 == 0

/-- The first words of a block, and its first constants. -/
def blockWords (bs : List Byte) (b n : Nat) : List Nat := (List.range n).map (fun j => bytesAt bs (codeAt bs b + 4 + 4 * j) 4)
def blockConsts (bs : List Byte) (b n : Nat) : List Word := (List.range n).map (fun m => BitVec.ofNat 64 (bytesAt bs (constAt bs b + 8 * m) 8))

/-- A code and constant range that lies in its area. -/
def codeIn (bs : List Byte) (b : Nat) : Bool :=
  bytesAt bs (blockAt bs b) 4 % 4 == 0 && decide (codeAt bs b + 4 ≤ areaEnd bs (bytesAt bs 32 4))
def wordsIn (bs : List Byte) (b : Nat) : Bool := decide (codeAt bs b + 4 * (headCount bs b + 2) ≤ areaEnd bs (bytesAt bs 32 4))
def constsIn (bs : List Byte) (b : Nat) : Bool :=
  bytesAt bs (blockAt bs b + 4) 4 % 8 == 0 && decide (constAt bs b + 8 * headConsts bs b ≤ areaEnd bs (bytesAt bs 36 4))

/-- The words of a block that lie in the code area, and its constants that lie in the constant area: what R64 can check of a block that overruns
one. -/
def blockText (bs : List Byte) (b : Nat) : List Nat :=
  if codeIn bs b then blockWords bs b (min (headCount bs b + 1) ((areaEnd bs (bytesAt bs 32 4) - (codeAt bs b + 4)) / 4)) else []
def blockKs (bs : List Byte) (b : Nat) : List Word :=
  if codeIn bs b && bytesAt bs (blockAt bs b + 4) 4 % 8 == 0 then
    blockConsts bs b (min (headConsts bs b) ((areaEnd bs (bytesAt bs 36 4) - constAt bs b) / 8)) else []

/-- Table entry of a block, before its code. Of two placed entries that share a CE and SLOT the later one's CX field offends (DESIGN CHOICE, log 42). -/
def entryOffences (bs : List Byte) (b : Nat) : List Nat :=
  let e := blockAt bs b
  let f (o : Nat) : Nat := bytesAt bs (e + o) 1
  let place (k : Nat) : Nat := bytesAt bs (blockAt bs k + 8) 3
  (if imgPlaced bs then
    need (decide (f 8 < 4 * bytesAt bs 8 1)) (e + 8) ++ need (decide (f 9 < 4 * bytesAt bs 9 1)) (e + 9) ++ need (decide (f 10 < 16)) (e + 10) ++
    need (!(List.range b).any (fun k => place k == place b)) (e + 8)
  else need (f 8 == 0xFF) (e + 8) ++ need (f 9 == 0xFF) (e + 9) ++ need (f 10 == 0xFF) (e + 10)) ++
  need (decide (f 11 ≠ 0 ∧ f 11 < 16)) (e + 11) ++ need ([0, 1, 2, 3, 5].contains (f 12)) (e + 12) ++ need (decide (f 13 < 8)) (e + 13) ++
  need (allZero bs (e + 14) 2) (e + 14) ++ need (allZero bs (e + 20) 12) (e + 20)

/-- Slots an instruction word uses, by its opcode and P (R60, R61). -/
def usedSlots (w : Nat) : List Slot :=
  match (pickE w).bind Instr.eSpec with
  | some (sp, e) =>
    (if sp.l then [Slot.l] else []) ++ (if sp.r then [.r] else []) ++ (if sp.t then [.t] else []) ++ (if e.p = .none then [] else [.p])
  | none => []

/-- Targets a word names, T1 first. -/
def wordTargets (w : Nat) : List (Nat × Slot) :=
  [bf w 17 9, bf w 8 0].filterMap (fun n => if n = 511 then none else some (n / 4, Slot.ofCode (n % 4)))

/-- Sources of slots that the words before an instruction make, and the constants. -/
def sourcesBefore (ws : List Nat) (j : Nat) : List (Nat × Slot) :=
  (ws.take j).zipIdx.flatMap (fun (w, i) => wordTargets w ++ (if w.testBit 23 then [(i, Slot.r)] else []))

/-- What is wrong with one word among those of its block: the word itself, its targets, its sources. Where two targets, or a target and a constant,
name one slot, the later source offends, or the word with the constant; a target that names a word of a reserved opcode offends as well
(DESIGN CHOICE, log 42). A target whose word the header counts but the code area does not hold is not judged. -/
def wordOk (ws : List Nat) (count kind j w : Nat) : Bool :=
  let self := match decodeE w with
    | .ok i => (Instr.kinds i).contains kind
    | .error _ => false
  let targets := (wordTargets w).all (fun t => decide (j < t.1) && (match ws[t.1]? with | some v => (usedSlots v).contains t.2 | none => decide (t.1 < count)) &&
    !(sourcesBefore ws j).contains t)
  let all := ws.zipIdx.flatMap (fun (v, i) => wordTargets v ++ (if v.testBit 23 then [(i, Slot.r)] else []))
  let own := !(w.testBit 23 && (sourcesBefore ws j).contains (j, .r))
  let fed := (usedSlots w).all (fun sl => all.contains (j, sl))
  self && targets && own && fed

/-! ### Constants (R179, R235, R243, R254, R255, R266 to R268) -/

/-- Code of the W that names a channel's ETYPE, or the integer type of its width class (R70, R179). -/
def widthClass (e : EType) : Nat :=
  match e with
  | .i8 | .u8 | .i4 | .e4m3 | .e5m2 | .e2m1 | .e3m2 => 0
  | .i16 | .u16 | .fp16 | .bf16 => 1
  | .i32 | .u32 | .fp32 => 2
  | .i64 | .fp64 => 3
def wOf (e : EType) : Nat :=
  match (List.range 8).find? (fun w => wType w == e) with
  | some w => w
  | none => match widthClass e with
    | 0 => 7
    | 1 => 4
    | 2 => 0
    | _ => 1

/-- The constant of an instruction keeps its layout. -/
def constOk (w h : Nat) (i : Instr) (k : Word) : Bool :=
  match i with
  | .pop _ | .push _ | .bqw _ => decide (k.toNat < 16)
  | .lred e | .lscan e => redOk (wT e) k.toNat
  | .bnet _ => decide (k.toNat < 12)
  | .mma _ => mmaConstOk k
  | .accz _ | .accck _ | .accrs _ => accOk false k
  | .accrd _ | .accwr _ => accOk true k
  | i => match mtOp i with
    | some op => mtConstOk op k && decide (mtU k < 2 * w) && decide (mtV k < h)
    | none => true

/-- Endpoints that channel instructions and memory-tile instructions before an index name. -/
def endpointOf (i : Instr) (k : Word) : Option Nat :=
  if isPop i || isPush i || isBqw i then some k.toNat else if isMt i then some (mtCh k) else none

/-- The channel an instruction names is there, carries its type, and has room for what a tile answers. -/
def channelOk (chans : List Chan) (b : Nat) (i : Instr) (k : Word) : Bool :=
  let from' := chans.find? (fun c => c.from' == .block b (k.toNat % 16))
  match i with
  | .pop e => match chans.find? (fun c => c.to' == .block b (k.toNat % 16)) with
    | some c => e.w.val == wOf c.etype
    | none => false
  | .push e => match from' with
    | some c => e.w.val == wOf c.etype
    | none => false
  | .bqw _ => match from' with
    | some c => isPort c.to'
    | none => false
  | .bnet e => !(wf k 3 3 == 1) || e.w == 0
  | i => match mtOp i with
    | some op => match from' with
      | some c => c.etype == mtResponseType op k && (decide (op < 5) || decide (2 ≤ c.slots))
      | none => false
    | none => true

/-- The instructions among the words of a block, with their places and the constant each takes (R61). -/
def withConsts (ws : List Nat) (ks : List Word) : List (Nat × Instr × Option (Nat × Word)) :=
  ws.zipIdx.filterMap (fun (w, n) => (pickE w).map (fun i =>
    let m := ((ws.take n).filter (fun v => v.testBit 23)).length
    (n, i, if w.testBit 23 then (ks[m]?).map (fun k => (m, k)) else none)))

/-- Offences of the constants and channels of a block. A constant offends by its own layout (R235, R243, R254, R255, R268) or its MU and MV; where no
channel fits the instruction's endpoint, its type or slots are wrong, or an earlier instruction of the block names the endpoint, the instruction
word offends, the later of two (DESIGN CHOICE, log 42). -/
def constOffences (bs : List Byte) (chans : List Chan) (b : Nat) : List Nat :=
  let es := withConsts (blockText bs b) (blockKs bs b)
  es.flatMap (fun (n, i, k) =>
    match k with
    | none => []
    | some (m, k) =>
      if constOk (bytesAt bs 8 1) (bytesAt bs 9 1) i k then
        let ep := endpointOf i k
        let dup := ep.isSome && es.any (fun (o, j, q) => decide (o < n) && (match q with | some (_, v) => endpointOf j v == ep | none => false))
        need (channelOk chans b i k && !dup) (codeAt bs b + 4 + 4 * n)
      else [constAt bs b + 8 * m])

/-- Everything R64 checks of one block, each check as far as what it reads lies in the image. A block whose words run past the code area offends in the
CODE field of its entry, one whose constants run past the constant area in the CONST field, a count of constants that is not NCONST in the header
word (DESIGN CHOICE, log 42). -/
def blockOffences (bs : List Byte) (chans : List Chan) (b : Nat) : List Nat :=
  let ws := blockText bs b
  entryOffences bs b ++ need (codeIn bs b) (blockAt bs b) ++
  (if codeIn bs b then
    need (headOk bs b) (codeAt bs b) ++ need (wordsIn bs b) (blockAt bs b) ++ need (constsIn bs b) (blockAt bs b + 4) ++
    need (!wordsIn bs b || (ws.filter (fun w => w.testBit 23)).length == headConsts bs b) (codeAt bs b)
  else []) ++
  ws.zipIdx.flatMap (fun (w, j) => need (wordOk ws (headCount bs b + 1) (headKind bs b) j w) (codeAt bs b + 4 + 4 * j)) ++ constOffences bs chans b

/-- Frame size (R197). -/
def frameSize (ws : List Nat) : Nat :=
  let last := ws.map (fun w => (wordTargets w).foldl (fun m t => max m t.1) 0)
  max 1 ((List.range ws.length).foldl (fun m p => max m ((last.zipIdx.filter (fun (l, j) => decide (j ≤ p ∧ p < l))).length)) 0)

def readBlock (bs : List Byte) (b : Nat) : Block :=
  let e := blockAt bs b
  let f (o : Nat) : Nat := bytesAt bs (e + o) 1
  let ws := blockText bs b
  let ks := blockKs bs b
  let ctxm := [0, 1, 2, 3].filter (fun c => (f 11).testBit c)
  ⟨bf (headWord bs b) 13 10, headKind bs b, ws.filterMap pickE, ks, ctxm.map (fun c => (c, ks)), f 8, f 9, f 10, ctxm, Rm.ofCode (f 12), f 13,
    BitVec.ofNat 32 (bytesAt bs (e + 16) 4), frameSize ws, e, ws⟩

/-! ### Matrix images (R246) -/

/-- Entries that offend in an image that holds K-step blocks. -/
def matrixOffences (bs : List Byte) (i : Image) : List Nat :=
  let code (k : Nat) := withConsts (blockText bs k) (blockKs bs k)
  let ks := i.blocks.zipIdx.filter (fun e => (code e.2).any (fun c => c.1 == 0 && isMma c.2.1))
  let strayMma := i.blocks.zipIdx.flatMap (fun e => need (!(code e.2).any (fun c => c.1 != 0 && isMma c.2.1)) e.1.entryAt)
  if ks.isEmpty then strayMma
  else
    let w := 4 * bytesAt bs 8 1
    let h := 4 * bytesAt bs 9 1
    let ctxm := ks.head?.map (fun e => e.1.ctxm)
    let fromInput (c : Chan) : Bool := match c.from' with
      | .port p => (i.ports[p]?).any (fun q => !q.out)
      | _ => false
    strayMma ++
    (if imgPlaced bs then [] else (ks.head?.map (fun e => e.1.entryAt)).toList) ++
    ks.zipIdx.flatMap (fun ((b, k), n) =>
      let at' := (b.cx, b.cy)
      let unique := !(ks.take n).any (fun e => (e.1.cx, e.1.cy) == at')
      let fed (e : Nat) : Bool := (i.chanTo k e).isSome
      let popsPorts := (code k).any (fun (_, j, q) => isPop j && (match q with | some (_, v) => decide (v.toNat < 2) | none => false))
      need (unique && b.ctxm.length == 1 && ctxm == some b.ctxm && !popsPorts && (b.cx != 0 || fed 0) && (b.cy != 0 || fed 1)) b.entryAt) ++
    (if (ks.map (fun e => (e.1.cx, e.1.cy))).eraseDups.length < w * h then (ks.head?.map (fun e => e.1.entryAt)).toList else []) ++
    i.chans.zipIdx.flatMap (fun (c, n) =>
      match c.to' with
      | .block k e =>
        match i.blocks[k]? with
        | some b =>
          if !ks.any (fun x => x.2 == k) || decide (2 ≤ e) then []
          else
            let mk := (((code k).head?.bind (fun c => c.2.2)).map (·.2)).getD 0
            let ty := if e = 0 then mmaA mk else mmaB mk
            need ((if e = 0 then b.cx == 0 else b.cy == 0) && fromInput c && c.etype == ty && c.slots % 4 == 0) (chanAt bs n)
        | none => []
      | _ => [])

/-! ### The placement key (R70, R71) -/

/-- Bytes of the canonical form: PKEY, constants, seeds, places and types out (a byte that is no ETYPE stays). -/
def canonByte (bs : List Byte) (n : Nat) (v : Byte) : Byte :=
  let con := bytesAt bs 36 4
  let inTable (start cnt size : Nat) : Option Nat := if start ≤ n ∧ n < start + size * cnt then some ((n - start) % size) else none
  let cls (v : Byte) : Byte := if v.toNat < 16 then BitVec.ofNat 8 (widthClass (EType.ofCode v.toNat)) else v
  if (48 ≤ n ∧ n < 56) ∨ (con ≤ n ∧ n < areaEnd bs con) then 0
  else match inTable (bytesAt bs 16 4) (imgBlocks bs) 32 with
    | some o => if 8 ≤ o ∧ o < 11 then 0xFF else if 16 ≤ o ∧ o < 20 then 0 else v
    | none => match inTable (bytesAt bs 20 4) (imgChans bs) 16 with
      | some o => if o = 9 then cls v else v
      | none => match inTable (bytesAt bs 24 4) (imgPorts bs) 16 with
        | some o => if o = 1 then cls v else v
        | none => v

def canonical (bs : List Byte) : List Byte := bs.zipIdx.map (fun (v, n) => canonByte bs n v)

/-- Key and check value. -/
def imgKeys (bs : List Byte) : Word × Word :=
  let d := shake256 (canonical bs ++ [BitVec.ofNat 8 (bytesAt bs 8 1), BitVec.ofNat 8 (bytesAt bs 9 1)]) 16
  (BitVec.ofNat 64 (bytesAt d 0 8), BitVec.ofNat 64 (bytesAt d 8 8))

/-- The image that a byte string is, or the lowest offending offset (R64). -/
def parseImage (bs : List Byte) (w h : Nat) : Except Nat Image :=
  let least (l : List Nat) : Option Nat := l.foldl (fun m o => some (match m with | some k => min k o | none => o)) none
  match least (headerOffences bs w h) with
  | some o => .error o
  | none =>
    let ports := (List.range (imgPorts bs)).map (readPort bs)
    let chans := (List.range (imgChans bs)).map (readChan bs)
    let i : Image := ⟨BitVec.ofNat 64 (bytesAt bs 48 8), (List.range (imgBlocks bs)).map (readBlock bs), chans, ports⟩
    let all :=
      need (i.pkey == (imgKeys bs).1) 48 ++ need (allZero bs 56 8) 56 ++
      (List.range (imgPorts bs)).flatMap (portOffences bs) ++
      chans.zipIdx.flatMap (fun (k, c) => chanOffences bs chans ports c k) ++
      (List.range (imgPorts bs)).flatMap (fun p => need (chans.any (fun k => k.from' == .port p || k.to' == .port p)) (portAt bs p)) ++
      (List.range (imgBlocks bs)).flatMap (blockOffences bs chans) ++ matrixOffences bs i
    match least all with
    | some o => .error o
    | none => .ok i

/-! ### Placement (R71) -/

/-- Give every block a place. -/
def Image.place (i : Image) (ps : List (Nat × Nat × Nat)) : Image :=
  { i with blocks := i.blocks.zipIdx.map (fun (b, n) => match ps[n]? with | some (x, y, sl) => { b with cx := x, cy := y, slot := sl } | none => b) }

/-! ### Charges (R196) -/

/-- Channel buffer slots charged to a block of an image. -/
def Image.chanSlots (i : Image) (b : Nat) (bl : Block) : Nat :=
  i.chans.foldl (fun n c =>
    match c.to', c.from' with
    | .block k _, _ => if k = b then n + c.slots * bl.ctxm.length else n
    | .port _, .block k _ => if k = b then n + c.slots * bl.ctxm.length else n
    | _, _ => n) 0

/-- Block-store words, constants, frames, channel slots and task slots that an image charges to a CE. -/
structure Charge where
  words : Nat
  consts : Nat
  frames : Nat
  slots : Nat
  tasks : Nat
  deriving DecidableEq, Repr

def Charge.zero : Charge := ⟨0, 0, 0, 0, 0⟩

def Image.charge (i : Image) (key : Nat) : Charge :=
  (i.tasksOn key).foldl (fun (a : Charge) (e : Nat × Block) =>
    ⟨a.words + e.2.code.length + 1, a.consts + e.2.loaded.length * e.2.ctxm.length, a.frames + e.2.frame, a.slots + i.chanSlots e.1 e.2, a.tasks + 1⟩) .zero

/-- Words and constants held by all loaded slots of a CE (R196). -/
def slotsCharge (slots : List (Option Image)) (key : Nat) : Nat × Nat :=
  slots.foldl (fun (a : Nat × Nat) o => match o with | some i => let c := i.charge key; (a.1 + c.words, a.2 + c.consts) | none => a) (0, 0)

/-- A CE bears a new image beside the slots already loaded. -/
def chargeOk (others : List (Option Image)) (i : Image) (key : Nat) : Bool :=
  let c := i.charge key
  let o := slotsCharge others key
  decide (c.words + o.1 ≤ 2048) && decide (c.consts + o.2 ≤ 256) && decide (c.frames ≤ 96) && decide (c.slots ≤ 60) && decide (c.tasks ≤ 16)

/-- Entry of the first task in table order on a CE that cannot bear the image (R195). -/
def Image.overload (i : Image) (others : List (Option Image)) : Option Nat :=
  (i.blocks.find? (fun b => !chargeOk others i (ceKeyOf b))).map Block.entryAt

/-! ### Placement by the placer (R71, R195) -/

/-- A placement that the placer may give: every block in the region, no place given twice, and within the limits of an otherwise empty region. -/
def placementOk (i : Image) (w h : Nat) (ps : List (Nat × Nat × Nat)) : Bool :=
  ps.length == i.blocks.length && ps.all (fun p => decide (p.1 < 4 * w) && decide (p.2.1 < 4 * h) && decide (p.2.2 < 16)) &&
  ps.eraseDups.length == i.blocks.length && ((i.place ps).overload []).isNone

/-- The placement of an unplaced image, from the partition's cache or the placer, and the cache after it, newest first. -/
def placeImage (cache : List Placed) (i : Image) (bs : List Byte) (w h : Nat) : Option (List (Nat × Nat × Nat) × List Placed) :=
  let (k, c) := imgKeys bs
  match cache.find? (fun e => e.key == k && e.check == c && e.len == imgLength bs) with
  | some e => some (e.place, e :: cache.erase e)
  | none =>
    match Config.placement (canonical bs) w h with
    | some ps => if placementOk i w h ps then some (ps, (⟨k, c, imgLength bs, ps⟩ :: cache).take 64) else none
    | none => none

end Sys2Proof.Machine
end

