-- ==== Sys2Proof/Machine/Queue.lean ====
section
/-!
DEFINITION. Queue instructions of access threads (R158 to R169, R172 to R178, R183, R186).
-/
namespace Sys2Proof.Machine

/-- One queue of the executing thread is replaced. -/
def Thread.setQ (th : Thread) (q : Fin 32) (x : Queue) : Thread := { th with qs := tput th.qs q.val x }
def Thread.getQ (th : Thread) (q : Fin 32) : Option Queue := tget th.qs q.val

/-! ### Building tokens (R166, R167) -/

/-- The value a lane takes: the low w bits (R166). -/
def cutLane (e : EType) (v : Word) : Word := BitVec.ofNat 64 (v.toNat % 2 ^ etypeWidth e)

/-- Write one lane of the assembly register. -/
def Queue.lane (q : Queue) (f : Nat) (v : Word) (valid : Bool) : Queue :=
  let i : Fin 16 := ⟨f % 16, Nat.mod_lt _ (by decide)⟩
  { q with
    asmLanes := q.asmLanes.set i.val (if valid then cutLane q.etype v else 0) i.isLt
    asmValid := BitVec.ofNat 16 (setBf q.asmValid.toNat i.val i.val valid.toNat)
    fill := f + 1 }

/-- The token the assembly register closes into (R167). -/
def Queue.token (q : Queue) (gen : BitVec 8) : Token := ⟨0, q.count, q.ctx, gen, q.etype, 0, q.asmValid, q.asmLanes⟩

/-- Put a token into the queue; its stamp is the id below which every store must be performed before delivery (R170). -/
def Queue.enter (q : Queue) (t : Token) (stamp : Nat) (staged : Bool) : Queue :=
  { q with toks := q.toks ++ [(t, stamp, staged)], count := q.count + 1 }

def Queue.close (q : Queue) (gen : BitVec 8) (stamp : Nat) (staged : Bool) : Queue :=
  { q.enter (q.token gen) stamp staged with asmLanes := Vector.replicate 16 0, asmValid := 0, fill := 0 }

/-- The stop token or marker of QPUSHS (R169). -/
def Queue.stop (q : Queue) (level : Nat) (gen : BitVec 8) (stamp : Nat) (staged : Bool) : Queue :=
  q.enter ⟨0, q.count, q.ctx, gen, q.etype, ⟨level % 8, Nat.mod_lt _ (by decide)⟩, 0, Vector.replicate 16 0⟩ stamp staged

/-- Misuse of a push (R163), or the queue. -/
def Thread.pushTo (th : Thread) (q : Fin 32) : Except Nat Queue :=
  match th.getQ q with
  | none => .error 1
  | some x => if x.out then .error 2 else if x.remote.isSome then .error 9 else .ok x

/-- A queue that was empty has taken a token in: the event bit is set (R104). What a likely path stages counts when the path is kept. -/
def Thread.noteEntry (th : Thread) (old new : Queue) : Thread :=
  { th with
    ev := th.ev || (old.toks.isEmpty && new.toks.any (fun e => !e.2.2))
    path := th.path.map (fun p => { p with ev := p.ev || (old.toks.isEmpty && new.toks.any (fun e => e.2.2)) }) }

/-- A push that closes n tokens waits until there is room for all of them (R166). -/
def State.push (s : State) (q : Fin 32) (n : Queue → Nat) (f : Queue → BitVec 8 → Nat → Bool → Queue) : Out :=
  match s.me.pushTo q with
  | .error r => .next (s.queueTrap q.val r)
  | .ok x =>
    if n x ≠ 0 ∧ x.cap < x.toks.length + n x then .next (s.waitFor (.qFull q))
    else .next (s.onMe (fun th =>
      let y := f x th.gen s.nextId th.path.isSome
      ((th.setQ q y).noteEntry x y).advance))

/-- QPUSH (R168). -/
def execQpush (r q : Fin 32) (c : Bool) (st : State) : Out :=
  st.push q (fun x => if x.fill = 15 ∨ c then 1 else 0) (fun x gen stamp staged =>
    let y := x.lane x.fill (st.me.getX r) true
    if x.fill = 15 ∨ c then y.close gen stamp staged else y)

/-- A fill position at which eight lanes fit without closing the partial token (R168). -/
def atHalf (f : Nat) : Bool := f == 0 || f == 8

/-- QPUSHV (R168). -/
def execQpushv (r : Fin 16) (q : Fin 32) (c : Bool) (m : Fin 8) (st : State) : Out :=
  let base (x : Queue) : Nat := if atHalf x.fill then x.fill else 0
  let closes (x : Queue) : Bool := decide (base x + 8 = 16) || c
  st.push q (fun x => (!atHalf x.fill).toNat + (closes x).toNat) (fun x gen stamp staged =>
    let y := if atHalf x.fill then x else x.close gen stamp staged
    let v := st.me.getV r
    let mk := st.me.getM m
    let y := (List.finRange 8).foldl (fun y i => Queue.lane y (base x + i.val) (v.get i) (mk.getLsbD i.val)) y
    if closes x then y.close gen stamp staged else y)

/-- Stop level of QPUSHS (R169). -/
def levelStop : Level → Nat
  | .s1 => 1
  | .s2 => 2
  | .s3 => 3
  | .s4 => 4
  | .s5 => 5
  | .s6 => 6
  | .marker => 7

/-- QPUSHS (R169). -/
def execQpushs (q : Fin 32) (l : Level) (st : State) : Out :=
  st.push q (fun x => (decide (x.fill ≠ 0)).toNat + 1) (fun x gen stamp staged =>
    (if x.fill ≠ 0 then x.close gen stamp staged else x).stop (levelStop l) gen stamp staged)

/-! ### Popping (R172, R173) -/

/-- Misuse of a pop, or the queue. -/
def Thread.popFrom (th : Thread) (q : Fin 32) : Except Nat Queue :=
  match th.getQ q with
  | none => .error 1
  | some x => if !x.out then .error 2 else if x.remote.isSome then .error 9 else .ok x

/-- Read something of the head token; with RM it is removed, which acquires it. The pops of a frozen region's queues wait (R368). -/
def State.pop (s : State) (d q : Fin 32) (rm : Bool) (f : Token → Word) : Out :=
  match s.me.popFrom q with
  | .error r => .next (s.queueTrap q.val r)
  | .ok x =>
    match x.toks with
    | [] => .next (s.waitFor (.qEmpty q))
    | (t, _, _) :: rest =>
      if s.frozenAt s.cur x.region then .next (s.waitFor .region)
      else if rm then .next ((s.onMe (fun th => ((th.setQ q { x with toks := rest }).setX d (f t)).advance)).acquire s.cur)
      else .next (s.onMe (fun th => (th.setX d (f t)).advance))

/-- QPOP (R172): a lane's full 64 bits; an invalid lane and every lane of a stop token read as 0. -/
def execQpop (d q : Fin 32) (rm : Bool) (l : Fin 16) (st : State) : Out :=
  st.pop d q rm (fun t => if t.stop.val = 0 ∧ t.isValid l then t.lane l else 0)

/-- QPOP.SB (R172). -/
def execQpopSb (d q : Fin 32) (rm : Bool) (st : State) : Out := st.pop d q rm Token.sideband

/-! ### QSTAT (R176) -/

/-- State word of a queue. -/
def Queue.stateWord (q : Queue) : Nat :=
  2 ^ 63 + q.out.toNat * 2 ^ 62 + q.remote.isSome.toNat * 2 ^ 61 + q.lt.toNat * 2 ^ 60 + q.etype.code * 2 ^ 56 + q.ctx.val * 2 ^ 54 +
  q.port * 2 ^ 48 + q.region.toNat * 2 ^ 32 + (if q.out then 0 else q.fill) * 2 ^ 24 + q.cap * 2 ^ 16 + q.toks.length * 2 ^ 8 +
  (q.toks.filter (fun e => e.2.2)).length

/-- State word of bq. -/
def Bq.stateWord (b : Bq) : Nat :=
  2 ^ 63 + 2 ^ 62 + b.lt.toNat * 2 ^ 60 + b.ctx.val * 2 ^ 54 + b.port * 2 ^ 48 + b.region.toNat * 2 ^ 32 + 32 * 2 ^ 16 + b.entries.length * 2 ^ 8

def Queue.counter (q : Queue) (sel : Fin 4) : BitVec 32 := if sel = 1 then q.ew else if sel = 2 then q.fw else q.lod
def Queue.clear (q : Queue) (sel : Fin 4) : Queue :=
  if sel = 1 then { q with ew := 0 } else if sel = 2 then { q with fw := 0 } else { q with lod := 0 }
def Bq.counter (q : Bq) (sel : Fin 4) : BitVec 32 := if sel = 1 then q.ew else if sel = 2 then q.fw else q.lod
def Bq.clear (q : Bq) (sel : Fin 4) : Bq :=
  if sel = 1 then { q with ew := 0 } else if sel = 2 then { q with fw := 0 } else { q with lod := 0 }

/-- QSTAT (R176). -/
def execQstat (d q : Fin 32) (c b : Bool) (sel : Fin 4) (st : State) : Out :=
  let put (v : Nat) (f : Thread → Thread) : Out := .next (st.onMe (fun th => ((f th).setX d (BitVec.ofNat 64 v)).advance))
  if b then
    match st.me.bq with
    | none => if sel = 0 then put 0 id else .next (st.queueTrap 0xFF 1)
    | some x =>
      if sel = 0 then put x.stateWord id
      else put (x.counter sel).toNat (fun th => if c then { th with bq := some (x.clear sel) } else th)
  else
    match st.me.getQ q with
    | none => if sel = 0 then put 0 id else .next (st.queueTrap q.val 1)
    | some x =>
      if sel = 0 then put x.stateWord id
      else put (x.counter sel).toNat (fun th => if c then th.setQ q (x.clear sel) else th)

/-! ### Binding (R164, R165) -/

/-- Free slots of an access core's queue SRAM (R159). -/
def State.freeSlots (s : State) (core : Nat) : Nat :=
  512 - ((List.range 8).foldl (fun n i => n + ((s.thread (core * 8 + i)).qs.foldl (fun m e => m + e.2.cap) 0)) 0)

/-- The checks of REGION, PORT and CTX in a binding descriptor: reasons 4, 6 and 5, or the region (R164). -/
def State.bindTarget (s : State) (w : Word) : Except Nat Region :=
  let port := wf w 5 0
  let ctx := wf w 17 16
  if wf w 63 48 ≠ 0 ∨ wf w 31 18 ≠ 0 ∨ wf w 15 6 ≠ 0 then .error 4
  else match s.myRegion (wf w 47 32) with
    | none => .error 4
    | some r =>
      match r.image with
      | none => .error 4
      | some i =>
        if i.ports.length ≤ port ∨ !i.runs ctx then .error 4
        else if r.die ≠ dieOf s.cur then .error 6
        else if (s.bindingAt r port ctx).isSome then .error 5
        else .ok r

def Region.port (r : Region) (p : Nat) : Port := (r.image.bind (fun i => i.ports[p]?)).getD ⟨false, .i8⟩
def Region.bqwFed (r : Region) (p : Nat) : Bool := r.image.any (fun i => i.bqwPort p)

/-- QBIND (R164). -/
def execQbind (r q : Fin 32) (l b : Bool) (p : Fin 4) (st : State) : Out :=
  let w := st.me.getX r
  let qn := if b then 0xFF else q.val
  if (if b then st.me.bq.isSome else (st.me.getQ q).isSome) then .next (st.queueTrap qn 3)
  else match st.bindTarget w with
    | .error e => .next (st.queueTrap qn e)
    | .ok rg =>
      let port := wf w 5 0
      let ctx : Fin 4 := ⟨wf w 17 16 % 4, Nat.mod_lt _ (by decide)⟩
      let h := BitVec.ofNat 16 rg.handle
      let pt := rg.port port
      if b then
        if !pt.out || !rg.bqwFed port then .next (st.queueTrap qn 2)
        else .next (st.onMe (fun th => { th with bq := some ⟨h, port, ctx, l, false, [], 0, 0, 0⟩ }.advance))
      else if pt.out && rg.bqwFed port then .next (st.queueTrap qn 2)
      else
        let c := 4 * (p.val + 1)
        if st.freeSlots (coreOf st.cur) < c then .next (st.queueTrap qn 7)
        else .next (st.onMe (fun th =>
          (th.setQ q ⟨h, port, ctx, pt.out, pt.etype, c, l, false, [], Vector.replicate 16 0, 0, 0, 0, 0, 0, 0, none⟩).advance))

/-- A closed remote crossing, unacknowledged tokens and the like: a chained queue may be unbound (R186). -/
def Queue.remoteDone (q : Queue) : Bool :=
  match q.remote with
  | some r => if r.send then q.toks.isEmpty && r.sent == r.acked else true
  | none => true

def Queue.remoteHeld (q : Queue) : Bool :=
  match q.remote with
  | some r => !r.send && (!q.toks.isEmpty || r.ringLen != 0)
  | none => false

/-! ### Tokens leaving the fabric (R161) -/

/-- Head token of an output port's channel in a context, if it may leave. -/
def State.egress (s : State) (r : Region) (port ctx : Nat) : Option (Token × Region) :=
  match r.image.bind (fun i => i.portChan port) with
  | none => none
  | some c =>
    if r.portClosed port ctx then none
    else match (r.chan c ctx).buf with
      | [] => none
      | t :: rest => some (t, r.setChan c ctx { r.chan c ctx with buf := rest })

/-- An output queue accepts a token from its channel into a free slot; an entry into an empty queue sets the event bit (R104, R161). -/
def State.acceptQueue (s : State) (t : Nat) (k : Nat) (q : Queue) : Option State :=
  match s.region (rkey (s.partOf t) q.region.toNat) with
  | none => none
  | some r =>
    if q.closed || !q.out || q.cap ≤ q.toks.length then none
    else match s.egress r q.port q.ctx.val with
      | none => none
      | some (tok, r) =>
        let s := s.setRegion r.key r
        some (s.onThread t (fun th => { th with qs := tput th.qs k { q with toks := q.toks ++ [(tok, 0, false)] }, ev := th.ev || q.toks.isEmpty }))

/-- bq takes the entry that stands at the head of its channel: the lowest valid lane, or 0 (R174, R182). -/
def State.acceptBq (s : State) (t : Nat) (b : Bq) : Option State :=
  match s.region (rkey (s.partOf t) b.region.toNat) with
  | none => none
  | some r =>
    if b.closed || decide (32 ≤ b.entries.length) then none
    else match s.egress r b.port b.ctx.val with
      | none => none
      | some (tok, r) =>
        let s := s.setRegion r.key r
        some (s.onThread t (fun th => { th with bq := some { b with entries := b.entries ++ [tok.lane 0] }, ev := th.ev || b.entries.isEmpty }))

/-- The ring of a RECV end holds undefined bytes from its unbinding on (R185). -/
def State.openRing (s : State) (r : RemoteQ) : State :=
  r.pages.foldl (fun (s : State) pa =>
    { s with mem := memWrite s.mem pa ((List.range 0x4000).map (fun j => Config.openByte (s.freeCtr + j))), freeCtr := s.freeCtr + 0x4000 }) s

/-- What a node accepts counts among the four tokens of its cycle; with four accepted nothing more is (R161). -/
def State.acceptCounted (s : State) (t : Nat) (got : Option State) : Option State :=
  if 4 ≤ (s.core (coreOf t)).took then none else got.map (fun s => s.onCore (coreOf t) (fun c => { c with took := c.took + 1 }))

/-- The channel that an input queue feeds, by the number of the region's making, channel and context, and whether a token is on its way in it. -/
def State.feeds (s : State) (t : Nat) (q : Queue) : Option ((Nat × Nat × Nat) × Bool) :=
  match s.region (rkey (s.partOf t) q.region.toNat) with
  | some r => (r.image.bind (fun i => i.portChan q.port)).map (fun c => ((r.uid, c, q.ctx.val), !(r.chan c q.ctx.val).transit.isEmpty))
  | none => none

/-- Queues of a thread are released: what they have sent into their channels may still be on its way there (R282). -/
def State.leaveQueues (s : State) (t : Nat) (qs : List Queue) : State :=
  let on := (qs.filter (fun q => !q.out)).filterMap (fun q => (s.feeds t q).bind (fun e => if e.2 then some e.1 else none))
  s.onThread t (fun th => { th with left := th.left ++ on })

/-- A channel that a released queue fed still carries tokens. -/
def State.onWay (s : State) (e : Nat × Nat × Nat) : Bool :=
  s.regions.any (fun r => r.2.uid == e.1 && !(r.2.chan e.2.1 e.2.2).transit.isEmpty)

/-- QUNBIND (R165, R186). A token that an output queue could accept in this cycle is accepted first. -/
def execQunbind (q : Fin 32) (b : Bool) (st : State) : Out :=
  if b then
    match st.me.bq with
    | none => .next (st.queueTrap 0xFF 1)
    | some x =>
      let s := (st.acceptCounted st.cur (st.acceptBq st.cur x)).getD st
      match s.me.bq with
      | some y => if y.entries.isEmpty then .next (s.onMe (fun th => { th with bq := none }.advance)) else .next (s.queueTrap 0xFF 8)
      | none => .next s
  else
    match st.me.getQ q with
    | none => .next (st.queueTrap q.val 1)
    | some x =>
      let free (s : State) : Out := .next ((s.leaveQueues s.cur [x]).onMe (fun th => { th with qs := tdel th.qs q.val }.advance))
      match x.remote with
      | some r =>
        if x.remoteHeld then .next (st.queueTrap q.val 8)
        else if r.send && !x.remoteDone then .next (st.waitFor (.unbind q))
        else if r.send then free st
        else free (st.openRing r)
      | none =>
        if x.out then
          let s := (st.acceptCounted st.cur (st.acceptQueue st.cur q.val x)).getD st
          match s.me.getQ q with
          | some y => if y.toks.isEmpty then free s else .next (s.queueTrap q.val 8)
          | none => .next s
        else if x.fill ≠ 0 then .next (st.queueTrap q.val 8)
        else if x.toks.isEmpty then free st
        else .next (st.waitFor (.unbind q))

/-- Empty an input queue, its partial token included, or an output queue (R178). -/
def Queue.discard (q : Queue) : Nat × Queue :=
  (q.toks.length + (if q.fill ≠ 0 then 1 else 0), { q with toks := [], asmLanes := Vector.replicate 16 0, asmValid := 0, fill := 0 })

/-- QDISC (R178). -/
def execQdisc (d q : Fin 32) (b : Bool) (st : State) : Out :=
  if b then
    match st.me.bq with
    | none => .next (st.queueTrap 0xFF 1)
    | some x => .next (st.onMe (fun th => ({ th with bq := some { x with entries := [] } }.setX d (BitVec.ofNat 64 x.entries.length)).advance))
  else
    match st.me.getQ q with
    | none => .next (st.queueTrap q.val 1)
    | some x =>
      if x.remote.isSome then .next (st.queueTrap q.val 9)
      else
        let (n, y) := x.discard
        .next (st.onMe (fun th => ((th.setQ q y).setX d (BitVec.ofNat 64 n)).advance))

/-! ### Descriptors in memory -/

/-- Reading a descriptor as loads of the executing thread, eight bytes at a time (R144): its bytes, or the state in which the instruction
traps, waits, or has met poison. -/
inductive Desc where
  | bytes (b : List Byte) (s : State)
  | stop (s : State)

def State.readDesc (s : State) (va : Addr) : Nat → List Byte → Desc
  | 0, acc => .bytes acc s
  | n + 1, acc =>
    match s.check va .load 8 with
    | .stop s => .stop s
    | .ok pa e s =>
      if s.overlap s.cur pa 8 || s.owesAcq s.cur s.me.acqBar then .stop (s.waitFor .memory)
      else if e.mt = 4 then s.readDesc (va + 8) n (acc ++ leBytes (s.devRead pa 8) 8)
      else if s.isPoisoned pa then .stop (((s.countUncorr (s.partOf s.cur) pa).onMe Thread.advance).raise s.cur 0x13 (lo64 va))
      else (s.saw s.cur (s.die (dieOf s.cur)).dlt).readDesc (va + 8) n (acc ++ memBytes s.mem pa 8)

/-- A pointer in the 16-byte layout at an offset of a descriptor (R73). -/
def ptrAt (bs : List Byte) (off : Nat) : Addr := BitVec.ofNat 80 (bytesAt bs off 16)

/-- The pages of a range with their translations, newest first; a failing translation or home with its address; a page of a memory type not
wanted; or a wait for a walk. -/
inductive Pages where
  | ok (l : List AreaPage) (s : State)
  | trap (code : Nat) (va : Addr) (s : State)
  | bad (va : Addr) (s : State)
  | wait (l : List AreaPage) (s : State)

/-- Translate the pages of a range from an address on, those of a list done already, each as an engine's of the thread (R146). The rim tile that
carries a context save, and a pool or a copy, is tile 0 of the north edge of the thread's die (DESIGN CHOICE, log 16: the spec names none). -/
def State.areaPages (s : State) (t : Nat) (store : Bool) (mt : Nat) (base : Addr) : Nat → List AreaPage → Pages
  | 0, acc => .ok acc s
  | n + 1, acc =>
    let rim := (dieOf t).val * 96
    let va := base + BitVec.ofNat 80 (0x4000 * acc.length)
    match (if store then s.xlateRimW (.area t) t rim (s.partOf t) (s.thread t).cur va 8 else s.xlateRim (.area t) rim (s.partOf t) (s.thread t).cur va .load 8) with
    | .error c s => .trap c va s
    | .wait s => .wait acc s
    | .ok pa e s =>
      if e.mt ≠ mt then .bad va s
      else if s.homeLost pa then .trap 0x0A va s
      else s.areaPages t store mt base n (⟨pa, e.level, e.vpn⟩ :: acc)

/-- Pages that the instruction in issue has found so far. -/
def Thread.pagesFound (th : Thread) : List AreaPage :=
  match th.wait with
  | some ⟨.pages l, _, _⟩ => l
  | _ => []

/-- The pages of an area of the executing instruction, going on where it stood. -/
def State.myPages (s : State) (store : Bool) (mt : Nat) (base : Addr) (n : Nat) : Pages :=
  s.areaPages s.cur store mt base (n - s.me.pagesFound.length) s.me.pagesFound

/-- Whether a power of two lies in a range. -/
def pow2In (n lo hi : Nat) : Bool := decide (lo ≤ n ∧ n ≤ hi) && n == 2 ^ Nat.log2 n

/-- RQBIND (R183, R184). A queue that is chained already gives reason 3, and reasons 2, 3 and 8 are judged before the descriptor is read and
reason 10 (DESIGN CHOICE, log 39: the spec gives that case no reason and the reasons no order). A page of the ring whose home die has been declared
lost gives reason 10 too (DESIGN CHOICE, log 39: the spec names none). -/
def execRqbind (a : Fin 16) (q : Fin 32) (e : RqEnd) (st : State) : Out :=
  if st.me.cur = .worker then .next (st.privTrap ((encode (.rqbind a q e)).getD 0))
  else match st.me.getQ q with
    | none => .next (st.queueTrap q.val 1)
    | some x =>
      if x.out != (e == .send) then .next (st.queueTrap q.val 2)
      else if x.remote.isSome then .next (st.queueTrap q.val 3)
      else if x.toks.length ≠ 0 ∨ x.fill ≠ 0 then .next (st.queueTrap q.val 8)
      else match st.readDesc (st.me.getA a) 8 [] with
        | .stop s => .next s
        | .bytes bs s =>
          let ring := ptrAt bs 0
          let n := bytesAt bs 16 4
          let lnk : Fin 16 := ⟨bytesAt bs 22 1 % 16, Nat.mod_lt _ (by decide)⟩
          let recv := e == .recv
          let shape := bytesAt bs 23 1 == 0 && bytesAt bs 28 36 == 0 && decide (bytesAt bs 22 1 < 16) &&
            (if recv then ring.toNat % 2 ^ 14 == 0 && pow2In n 2048 65536 else n == 0)
          let mine := (s.part (s.partOf s.cur)).fld 0x1D0 15 0 / 2 ^ lnk.val % 2 == 1
          if !shape || !mine then .next (s.queueTrap q.val 10)
          else
            let rq : RemoteQ := ⟨!recv, ring, n, BitVec.ofNat 16 (bytesAt bs 20 2), lnk, BitVec.ofNat 32 (bytesAt bs 24 4), false, false, false, 0, 0, 0, 0, []⟩
            let bind (pages : List Nat) (s : State) : Out := .next (s.onMe (fun th => (th.setQ q { x with remote := some { rq with pages := pages } }).advance))
            if recv then
              match s.myPages true 3 ring (n * 256 / 2 ^ 14) with
              | .ok l s => bind (l.reverse.map AreaPage.pa) s
              | .wait l s => .next (s.waitFor (.pages l))
              | .trap _ _ s | .bad _ s => .next (s.queueTrap q.val 10)
            else bind [] s

end Sys2Proof.Machine
end

