-- ==== Sys2Proof/Machine/Engine.lean ====
section
/-!
DEFINITION. Memory accesses of engines (R146, R294, R296, R310, R332, R333, R381): reads and writes of streams, pools, copies and context saves, with the
kind of fault that stops the engine.
-/
namespace Sys2Proof.Machine

/-- What an engine's read comes to: a value, a fault of a kind of R296 at an address, a wait for its translation, or a wait for a round at
the home. -/
inductive ERead where
  | ok (v : Nat) (s : State)
  | fault (kind : Nat) (va : Addr) (s : State)
  | wait (s : State)
  | stall (s : State)

/-- Who reads: the engine, its rim tile, thread, privilege mode, BOUND if it is bounded, clock slots as at issue, and since when it waits for a round. -/
structure Engine where
  who : Requester
  rim : Nat
  t : Nat
  mode : Mode
  bound : Option Nat
  dclk : List ClockSlot
  since : Option Nat

def Engine.die (e : Engine) : Fin 4 := rimDie e.rim

/-- Kind of a failed translation. -/
def transKind (code : Nat) : Nat := if code = 0x04 then 1 else 2

/-- A domain read of a bounded engine at its home (R332, R333): nothing if it may be served, else its fate. -/
def State.engineRound (s : State) (e : Engine) (va : Addr) (pa dom : Nat) (b : Nat) : Option ERead × State :=
  let p := s.partOf e.t
  let w := (s.part p).view dom e.die
  let m := minRound (e.dclk.find? (fun k => k.v && k.dom == dom)) (some b) w
  let t := max ((s.part p).view dom (homeDie pa)) w
  let first := e.since.isNone
  let s := if first then s.bump p 0x1B0 95 64 1 else s
  if t < m then
    if (s.die ⟨dom % 4, Nat.mod_lt _ (by decide)⟩).lost then (some (.fault 5 va s), s)
    else
      let s := if first then s.bump p 0x1B0 63 32 1 else s
      let lim := (s.thread e.t).rwait.toNat
      if lim = 0 ∨ e.since.getD (s.gtime e.die) + lim < s.gtime e.die then
        let s := s.bump p 0x1B0 31 16 1
        (some (.fault 6 va s), s)
      else (some (.stall s), s)
  else (none, s)

/-- A read inside one line. -/
def State.engineReadIn (s : State) (e : Engine) (va : Addr) (n : Nat) : ERead :=
  let p := s.partOf e.t
  match s.xlateRim e.who e.rim p e.mode va .load 8 with
  | .error c s => .fault (transKind c) va s
  | .wait s => .wait s
  | .ok pa l s =>
    if l.mt = 4 then .fault 2 va s
    else if s.homeLost pa then .fault 5 va s
    else
      let dom := match e.bound with
        | some b => if l.mt < 3 then ((s.part p).domainOf va).map (fun d => (d, b)) else none
        | none => none
      let (r, s) := match dom with
        | some (d, b) => s.engineRound e va pa d b
        | none => (none, s)
      match r with
      | some r => r
      | none =>
        if s.isPoisoned pa then .fault 4 va (s.countUncorr p pa)
        else .ok (memRead s.mem pa n) (s.touchL2 pa false)

/-- The parts of a read of at most a line: two where it passes a line boundary, since each line is read at its own home. -/
def lineParts (va : Addr) (n : Nat) : List (Addr × Nat) :=
  let k := 128 - va.toNat % 128
  if n ≤ k then [(va, n)] else [(va, k), (va + BitVec.ofNat 80 k, n - k)]

/-- The value of parts that stand one behind the other. -/
def joinParts : List (Nat × Nat) → Nat
  | [] => 0
  | (n, v) :: r => v + 256 ^ n * joinParts r

/-- Parts of a read one after the other, with the values so far. -/
def State.readParts (s : State) (e : Engine) : List (Addr × Nat) → List (Nat × Nat) → ERead
  | [], got => .ok (joinParts got) s
  | (va, n) :: r, got =>
    match s.engineReadIn e va n with
    | .ok v s => s.readParts e r (got ++ [(n, v)])
    | x => x

/-- A read, line by line. -/
def State.engineRead (s : State) (e : Engine) (va : Addr) (n : Nat) : ERead := s.readParts e (lineParts va n) []

/-- What an engine's write comes to: a physical address with its translation, a fault, or a wait for the translation. -/
inductive EWrite where
  | ok (pa : Nat) (e : TlbEntry) (s : State)
  | fault (kind : Nat) (s : State)
  | wait (s : State)

/-- Translate a write of an engine that stays inside a page. -/
def State.engineWrite (s : State) (e : Engine) (va : Addr) : EWrite :=
  match s.xlateRimW e.who e.t e.rim (s.partOf e.t) e.mode va 8 with
  | .error c s => .fault (transKind c) s
  | .wait s => .wait s
  | .ok pa l s =>
    if l.mt = 4 then .fault 2 s
    else if s.homeLost pa then .fault 5 s
    else .ok pa l s

/-- What a thread accessed below an id is performed: the release that a token's delivery and an engine's start are (R170, R308, R314, R345, R348). -/
def State.earlierDone (s : State) (t after : Nat) : Bool :=
  !s.flight.any (fun r => r.ofThread t && decide (r.id < after) && !r.performed)

/-- An asynchronous cause of an engine: STREAM_FAULT with the engine's number, or HOLD_OVERFLOW (R296, R311, R314, R364). -/
def State.engineFault (s : State) (t slot kind engine : Nat) : State :=
  (s.raise t (if kind = 7 then 0x15 else 0x06) (BitVec.ofNat 64 (engine * 256 + kind * 16 + slot))).setEv t

end Sys2Proof.Machine
end

