-- ==== Sys2Proof/Machine/Stream.lean ====
section
/-!
DEFINITION. Streams (R287 to R302, R373): descriptors, load and store streams, held writes, and the STREAM instructions.
-/
namespace Sys2Proof.Machine

/-! ### Slots -/

def State.streamAt (s : State) (t slot : Nat) : Option Stream :=
  match tget (s.thread t).ss slot with
  | some (.stream x) => some x
  | _ => none
def State.setStream (s : State) (t slot : Nat) (x : Stream) : State :=
  s.onThread t (fun th => { th with ss := tput th.ss slot (.stream x) })

/-- Streams that hold a place at a rim tile, oldest first, as (order, thread, slot) (R287). -/
def State.rimStreams (s : State) (rim : Nat) : List (Nat × Nat × Nat) :=
  let all := s.threads.flatMap (fun (t, th) => th.ss.filterMap (fun (k, x) =>
    match x with
    | .stream x => if x.rim == rim && liveSlot x.state then some (x.after, t, k) else none
    | _ => none))
  sortBy (fun a b => decide (a.1 ≤ b.1)) all

/-- A stream holds one of its tile's four generators. -/
def State.hasGenerator (s : State) (t slot : Nat) (x : Stream) : Bool := ((s.rimStreams x.rim).take 4).any (fun e => e.2 == (t, slot))

/-- A K-step block takes a port's tokens as groups (R246, R258). -/
def Region.feedsKstep (r : Region) (port : Nat) : Bool :=
  match r.image with
  | some i => match i.portChan port with
    | some c => match (i.chans[c]?).map (fun k : Chan => k.to') with
      | some (.block b e) => decide (e < 2) && (i.blocks[b]?).any Block.isKstep
      | _ => false
    | none => false
  | none => false

/-- A stream stops at a fault (R296); one that feeds an A or B port engages its region's brake in the next cycle (R258). -/
def State.streamFault (s : State) (t slot : Nat) (x : Stream) (kind : Nat) (va : Addr) : State :=
  let s := s.setStream t slot { x with state := .fault, fkind := kind, faddr := va, fault := none, ahead := [], reading := none, since := none }
  let s := (s.forgetWalks (.stream t slot)).engineFault t slot kind 0
  let key := rkey (s.partOf t) x.region.toNat
  match s.region key with
  | some r =>
    if !x.store && r.feedsKstep x.port then
      (s.setRegion key { r with brakeBy := (t, slot) :: r.brakeBy }).postAt 1 (.brakeEngage key false)
    else s
  | none => s

/-- A slot changes its state: a change out of RUN is an event of its thread (R104). -/
def State.leavesRun (s : State) (t : Nat) (old : SlotState) : State := if old = .run then s.setEv t else s

/-- A stream goes into a state that its owner may wait for (R104). -/
def State.streamEnds (s : State) (t slot : Nat) (x : Stream) (k : SlotState) : State :=
  ((s.setStream t slot { x with state := k, pauseAsked := false, stopping := false }).forgetWalks (.stream t slot)).leavesRun t x.state

/-! ### Index vectors (R291) -/

def Stream.exts (x : Stream) : List Nat := x.shape.dims.map (·.1)

/-- Element address. -/
def Stream.addr (x : Stream) (idx : List Nat) : Addr :=
  x.shape.base + BitVec.ofInt 80 ((idx.zip x.shape.dims).foldl (fun a e => a + (e.1 : Int) * e.2.2) 0)

/-- Place of an index vector in the visit order, dimension 0 fastest, and back. -/
def posOf : List Nat → List Nat → Nat
  | i :: is, e :: es => i + e * posOf is es
  | _, _ => 0
def idxOf (n : Nat) : List Nat → List Nat
  | [] => []
  | e :: es => n % e :: idxOf (n / e) es

def Stream.total (x : Stream) : Nat := x.exts.foldl (· * ·) 1

/-- The next index vector, the number of dimensions that completed, and whether the visit is over. -/
def nextIdx : List Nat → List Nat → List Nat × Nat × Bool
  | i :: is, e :: es =>
    if i + 1 < e then ((i + 1) :: is, 0, false)
    else let (js, c, o) := nextIdx is es; (0 :: js, c + 1, o)
  | _, _ => ([], 0, true)

/-- Highest level among the first dimensions. -/
def topLevel (stops : List Nat) (n : Nat) : Nat := (stops.take n).foldl max 0

/-! ### Load streams (R291, R292) -/

def Stream.token (x : Stream) (stop : Nat) (valid : BitVec 16) (f : Fin 16 → Word) : Token :=
  ⟨0, 0, x.ctx, x.gen, x.shape.etype, ⟨stop % 8, Nat.mod_lt _ (by decide)⟩, valid, Vector.ofFn f⟩

/-- The partial token becomes ready. -/
def Stream.flush (x : Stream) : Stream :=
  if x.lanes.isEmpty then x
  else { x with out := x.out ++ [x.token 0 (BitVec.ofNat 16 (2 ^ x.lanes.length - 1)) (fun l => x.lanes.getD l.val 0)], lanes := [] }

/-- One element, read at the stream's place, goes into the tokens (R291, R292). -/
def Stream.element (x : Stream) (v : Nat) : Stream :=
  let (idx, c, over') := nextIdx x.idx x.exts
  let at' := posOf x.idx x.exts
  let x : Stream :=
    if x.beat then { x with out := x.out ++ [x.token 0 0xFFFF (fun l => BitVec.ofNat 64 (v / 2 ^ (64 * l.val)))] }
    else
      let y : Stream := { x with lanes := x.lanes ++ [BitVec.ofNat 64 v] }
      if y.lanes.length = 16 then y.flush else y
  let lv := topLevel x.stops c
  let x := if lv ≠ 0 then let y := x.flush; { y with out := y.out ++ [y.token lv 0 (fun _ => 0)] }
    else if ((x.shape.flags.getLsbD 0 && decide (0 < c)) || over') then x.flush else x
  let x := { x with idx := idx, finished := over', reading := none, since := none, ahead := x.ahead.filter (fun e => e.1 != at') }
  if x.pauseAsked && !over' && decide (x.exts.length ≤ c + 1) then { x.flush with stopping := true, ahead := [] } else x

/-- Put elements that have been read into tokens until one is ready. -/
def Stream.pull : Nat → Stream → Stream
  | 0, x => x
  | n + 1, x =>
    if !x.out.isEmpty || x.finished || x.stopping || x.fault.isSome then x
    else match x.ahead.find? (fun e => e.1 == posOf x.idx x.exts) with
      | some e => (x.element e.2).pull n
      | none => x

def Stream.reader (x : Stream) (t slot : Nat) : Engine := ⟨.stream t slot, x.rim, t, x.mode, x.bound, x.dclk, x.since⟩

/-- Blocks of a beat (R30). -/
def beatBlocks (ty : EType) : Nat :=
  match ty with
  | .e4m3 | .e5m2 | .i8 => 3
  | .e3m2 => 4
  | .e2m1 | .i4 => 6
  | _ => 0

/-- The reads of one element, each with its bytes and the alignment it needs: of a beat the parts of its row, then its scale words (R292). -/
def Stream.parts (x : Stream) (idx : List Nat) : List (Addr × Nat × Nat) :=
  let va := x.addr idx
  if x.beat then
    let row := if va.toNat % 16 ≠ 0 then [(va, 96)] else lineParts va 96
    let at' := x.scales + BitVec.ofNat 80 (4 * beatBlocks x.shape.etype * posOf idx x.exts)
    row.map (fun e => (e.1, e.2, 16)) ++
      (if x.scales = 0 then [] else (List.range (beatBlocks x.shape.etype)).map (fun j => (at' + BitVec.ofNat 80 (4 * j), 4, 4)))
  else [(va, etypeBytes x.shape.etype, etypeBytes x.shape.etype)]

/-- An element's value from those of its parts: of a beat the payload, its row index i0 at bit 888 and its scales, the low 20 bits of each word, from
bit 768 on (R66, R292). -/
def Stream.value (x : Stream) (idx vs : List Nat) : Nat :=
  let ps := (x.parts idx).map (fun e => e.2.1)
  if x.beat then
    let nr := ps.length - (if x.scales = 0 then 0 else beatBlocks x.shape.etype)
    joinParts ((ps.zip vs).take nr) + (vs.drop nr).zipIdx.foldl (fun a e => a + e.1 % 2 ^ 20 * 2 ^ (20 * e.2)) 0 * 2 ^ 768 + idx.headD 0 % 4 * 2 ^ 888
  else joinParts (ps.zip vs)

/-- What reading an element comes to: its value; a fault; or a wait, with the values of the parts read so far, for a translation or for a round. -/
inductive ElemRead where
  | ok (v : Nat) (s : State)
  | fault (kind : Nat) (va : Addr) (s : State)
  | wait (got : List Nat) (s : State)
  | stall (got : List Nat) (s : State)

/-- The parts of an element one after the other; each is one read, which waits for its own round (R333, R335). -/
def State.elemParts (s : State) (e : Engine) (done : List Nat → Nat) : List (Addr × Nat × Nat) → List Nat → ElemRead
  | [], got => .ok (done got) s
  | (va, n, al) :: r, got =>
    if va.toNat % al ≠ 0 then .fault 3 va s
    else match s.engineReadIn e va n with
      | .ok v s => s.elemParts { e with since := none } done r (got ++ [v])
      | .fault k va s => .fault k va s
      | .wait s => .wait got s
      | .stall s => .stall got s

/-- Read one element, of which some parts have been read. -/
def State.streamElem (s : State) (t slot : Nat) (x : Stream) (idx got : List Nat) : ElemRead :=
  s.elemParts (x.reader t slot) (x.value idx) ((x.parts idx).drop got.length) got

/-- How far a stream reads ahead; a bounded one reads its next element alone (log 20). -/
def Stream.window (x : Stream) : Nat := if x.bound.isSome then 1 else 32

/-- Every element of the window that begins in the line of a chosen one is read; what fails is left for later. -/
def State.readLine (s : State) (t slot : Nat) (x : Stream) (ns : List Nat) : State × List (Nat × Nat) :=
  ns.foldl (fun (a : State × List (Nat × Nat)) n =>
    match a.1.streamElem t slot x (idxOf n x.exts) [] with
    | .ok v s => (s, a.2 ++ [(n, v)])
    | _ => a) (s, [])

/-- The next element is read, or read on: its failure stops the stream, and a wait keeps the parts that have been read. -/
def State.readNext (s : State) (t slot : Nat) (x : Stream) (got : List Nat) : State × Stream :=
  let since (got' : List Nat) : Option Nat := if got'.length = got.length then x.since else none
  match s.streamElem t slot x x.idx got with
  | .ok v s => (s, { x with ahead := x.ahead ++ [(posOf x.idx x.exts, v)], reading := none, since := none })
  | .fault k va s => (s, { x.flush with fault := some (k, va), ahead := [], reading := none, since := none })
  | .wait got' s => (s, { x with reading := some got', since := since got' })
  | .stall got' s => (s, { x with reading := some got', since := some ((since got').getD (s.gtime (x.reader t slot).die)) })

/-- One line request of a load stream (R287, R294): a line of the elements ahead, in no fixed order; where nothing else comes of it, the next element.
A generator translates one address at a time: while the next element waits, no other is read (R140). -/
def State.lineRequest (s : State) (t slot : Nat) (x : Stream) : State × Stream :=
  let pos := posOf x.idx x.exts
  let cands := (List.range x.window).filterMap (fun k =>
    if pos + k < x.total ∧ !x.ahead.any (fun e => e.1 == pos + k) then some (pos + k) else none)
  match x.reading, cands with
  | some got, _ => s.readNext t slot x got
  | none, [] => (s, x)
  | none, c0 :: _ =>
    let (k, s) := s.fresh
    let pick := cands.getD (Config.choice k % cands.length) c0
    let line := (x.addr (idxOf pick x.exts)).toNat / 128
    let (s1, got) := s.readLine t slot x (cands.filter (fun n => (x.addr (idxOf n x.exts)).toNat / 128 == line))
    if !got.isEmpty then (s1, { x with ahead := x.ahead ++ got })
    else if c0 ≠ pos then (s, x)
    else s.readNext t slot x []

/-- With every token delivered, a load stream stops at its fault, pauses, or is done. -/
def State.settleStream (s : State) (t slot : Nat) (x : Stream) : State :=
  if !x.out.isEmpty then s.setStream t slot x
  else if x.finished then s.streamEnds t slot x .done
  else if x.stopping then s.streamEnds t slot x .paused
  else match x.fault with
    | some (k, va) => s.streamFault t slot x k va
    | none => s.setStream t slot x

/-- STREAM_LINE_REQUEST (R287). -/
def execStreamLineRequest (t slot : Nat) (st : State) : Out :=
  match st.streamAt t slot with
  | none => .next st
  | some x =>
    if x.store || x.state != .run || !st.earlierDone t x.after || !st.hasGenerator t slot x then .next st
    else
      let (s, x) := if x.finished || x.stopping || x.fault.isSome then (st, x) else st.lineRequest t slot x
      .next (s.settleStream t slot (x.pull 16))

/-- Elements of a token of a load stream. -/
def Stream.elements (x : Stream) (tok : Token) : Nat :=
  if tok.stop.val ≠ 0 then 0 else if x.beat then 1 else (lanes16.filter tok.isValid).length

/-- STREAM_TOKEN_DELIVERY (R291): the oldest ready token enters the region. -/
def execStreamTokenDelivery (t slot : Nat) (st : State) : Out :=
  match st.streamAt t slot with
  | none => .next st
  | some x =>
    match x.out, st.region (rkey (st.partOf t) x.region.toNat) with
    | tok :: rest, some r =>
      if x.store || x.state != .run || x.closed || r.restored x.port x.ctx.val then .next st
      else
        let tok := { tok with round := BitVec.ofNat 15 x.count }
        match st.tryEnter r x.port x.ctx.val (rimPoint x.rim) tok with
        | .enters s =>
          let s := if x.resumed then s.postAt 1 (.brakeRelease r.key) else s
          let y : Stream := { x with out := rest, count := x.count + 1, sent := x.sent + x.elements tok, resumed := false }
          let y : Stream := if isMarker tok then { y with markIdx := idxOf y.sent y.exts, markCount := y.count } else y
          let s := if x.resumed then s.onRegion r.key (fun r => { r with brakeBy := r.brakeBy.filter (fun e => e != (t, slot)) }) else s
          .next (s.settleStream t slot (y.pull 16))
        | _ => .next st
    | _, _ => .next st

/-! ### Held writes (R295) -/

/-- Line records of a rim tile's hold buffer in use. -/
def State.heldAt (s : State) (rim : Nat) : Nat :=
  (s.rimStreams rim).foldl (fun n e => n + ((s.streamAt e.2.1 e.2.2).map (fun x => (x.heldWrites.filter (fun h => h.spilled.isNone)).length)).getD 0) 0

/-- Address of a spilled record: its piece × 64 + its place. -/
def State.spillAt (s : State) (p : Fin 8) (n : Nat) : Nat := (s.part p).fld 0x180 56 14 * 2 ^ 14 + n * 256

/-- A place in the hold area for one more record of a stream: in its open piece, or in a piece that is free. -/
def State.spillPlace (s : State) (p : Fin 8) (t slot : Nat) : Option (Nat × State) :=
  let q := s.part p
  match q.holdUsed.find? (fun (_, u, k, n) => u == t && k == slot && decide (n < 64)) with
  | some (pc, _, _, n) =>
    some (pc * 64 + n, s.onPart p (fun q => { q with holdUsed := q.holdUsed.map (fun e => if e.1 == pc then (pc, t, slot, n + 1) else e) }))
  | none =>
    match (List.range (min (q.fld 0x180 127 96) (q.holdUsed.length + 1))).find? (fun pc => !q.holdUsed.any (fun e => e.1 == pc)) with
    | some pc => some (pc * 64, s.onPart p (fun q => { q with holdUsed := (pc, t, slot, 1) :: q.holdUsed }))
    | none => none

/-- A spilled record as it stands in the hold area: the line's data, the mask, the line's address, zeros. What stands at the unmasked bytes is
open. -/
def State.writeSpill (s : State) (p : Fin 8) (h : HeldWrite) (n : Nat) : State :=
  let mask := h.data.foldl (fun m e => Nat.lor m (2 ^ e.1)) 0
  let data := setBytes ((List.range 128).map (fun i => Config.openByte (s.freeCtr + i))) h.data
  { s with freeCtr := s.freeCtr + 128 }.writePhys (.spill p) p (s.spillAt p n) (data ++ leBytes mask 16 ++ leBytes (h.line * 128) 8 ++ List.replicate 104 0) 2

/-- Bytes of a held line, through a translation. -/
def HeldWrite.put (h : HeldWrite) (off : Nat) (bs : List Byte) (e : TlbEntry) : HeldWrite :=
  { h with data := bs.zipIdx.foldl (fun d b => tput d (off + b.2) b.1) h.data, tlbs := if h.tlbs.contains (e.level, e.vpn) then h.tlbs else (e.level, e.vpn) :: h.tlbs }

/-- Keep a write of a held stream; none when the hold area is full. -/
def State.hold (s : State) (t slot : Nat) (x : Stream) (va : Addr) (pa : Nat) (e : TlbEntry) (bs : List Byte) : Option (State × Stream) :=
  let p := s.partOf t
  let line := lineOf pa
  match x.heldWrites.find? (fun h => h.line == line) with
  | some h =>
    let h' := h.put (pa % 128) bs e
    let s := match h'.spilled with
      | some n => s.writeSpill p h' n
      | none => s
    some (s, { x with heldWrites := x.heldWrites.map (fun o => if o.line == line then h' else o) })
  | none =>
    let h : HeldWrite := HeldWrite.put ⟨line, [], none, va, e.mt, []⟩ (pa % 128) bs e
    if s.heldAt x.rim < 2048 then some (s, { x with heldWrites := x.heldWrites ++ [h] })
    else match s.spillPlace p t slot with
      | some (n, s) => some (s.writeSpill p h n, { x with heldWrites := x.heldWrites ++ [{ h with spilled := some n }] })
      | none => none

/-- Held writes leave for their homes, line by line; their pieces are free once the records in them are performed. A line of a lost home is dropped
with a record (R381). -/
def State.releaseHeld (s : State) (t slot : Nat) (x : Stream) : State × Stream :=
  let p := s.partOf t
  let y : Stream := { x with heldWrites := [] }
  let s := x.heldWrites.foldl (fun (s : State) h =>
    if s.homeLost (h.line * 128) then s.lossRecord t 8 3 h.va.toNat h.data.length
    else
      let (level, vpn) := h.tlbs.headD (6, 2 ^ 80)
      s.engineStore (.held t slot h.spilled) p h.va (h.line * 128) { physEntry p with mt := h.mt, level := level, vpn := vpn } h.data) (s.setStream t slot y)
  (s.freePieces t slot, y)

/-! ### Store streams (R293) -/

/-- The position advances by one in the first of some dimensions; full ones of level zero carry. -/
def carryPos : List Nat → List Nat → List Nat → List Nat
  | i :: is, e :: es, l :: ls => if i + 1 = e ∧ l = 0 ∧ is ≠ [] then 0 :: carryPos is es ls else (i + 1) :: is
  | is, _, _ => is

/-- Write one element at the position: the write leaves for its home; or a fault, or kind 0 for a wait for the translation. -/
def State.putElem (s : State) (t slot : Nat) (x : Stream) (v : Word) : Except (Nat × Addr × State) (State × Stream) :=
  let va := x.addr x.idx
  let n := etypeBytes x.shape.etype
  if va.toNat % n ≠ 0 then .error (3, va, s)
  else match s.engineWrite (x.reader t slot) va with
    | .fault k s => .error (k, va, s)
    | .wait s => .error (0, va, s)
    | .ok pa e s =>
      let bs := leBytes v.toNat n
      if x.held then
        match s.hold t slot x va pa e bs with
        | some r => .ok r
        | none => .error (7, va, s)
      else .ok (s.engineStore (.stream t slot) (s.partOf t) va pa e (offsetsFrom (pa % 128) bs), x)

/-- Valid lanes in order, from one on; a lane that finds a dimension full is a protocol fault. -/
def State.putLanes (s : State) (t slot : Nat) (tok : Token) : List (Fin 16) → Stream → State × Stream × Option (Nat × Addr)
  | [], x => (s, { x with taken := none }, none)
  | l :: ls, x =>
    if !tok.isValid l then s.putLanes t slot tok ls x
    else if (x.idx.zip x.exts).any (fun e => decide (e.2 ≤ e.1)) then (s, { x with taken := none }, some (8, 0))
    else match s.putElem t slot x (tok.lane l) with
      | .ok (s, x) => s.putLanes t slot tok ls { x with idx := carryPos x.idx x.exts x.stops }
      | .error (k, va, s) => (s, { x with taken := some (tok, l.val) }, if k = 0 then none else some (k, va))

/-- A stop of a level: the dimension that carries it ends (R293). -/
def Stream.stopAt (x : Stream) (lv : Nat) : Option Stream :=
  if lv = 0 then none
  else match x.stops.findIdx? (fun l => l == lv) with
    | none => none
    | some d =>
      if x.exts.length ≤ d + 1 then some { x with idx := List.replicate x.exts.length 0, finished := true }
      else some { x with idx := List.replicate (d + 1) 0 ++ carryPos (x.idx.drop (d + 1)) (x.exts.drop (d + 1)) (x.stops.drop (d + 1)) }

/-- A token that a store stream has taken is worked off; a fault is its kind and address. -/
def State.workToken (s : State) (t slot : Nat) (x : Stream) (tok : Token) (from' : Nat) : State × Stream × Option (Nat × Addr) :=
  if tok.etype ≠ x.shape.etype ∨ tok.ctx ≠ x.ctx ∨ (x.finished ∧ ¬ isMarker tok) then (s, { x with taken := none }, some (8, 0))
  else if tok.stop = 0 then s.putLanes t slot tok (lanes16.drop from') x
  else
    let (s, x) := if isMarker tok then s.releaseHeld t slot x else (s, x)
    let x := { x with taken := none }
    match (if x.finished then some x else x.stopAt tok.stop.val) with
    | some y => (s, if isMarker tok then { y with markIdx := y.idx, markCount := y.count } else y, none)
    | none => if isMarker tok then (s, { x with markIdx := x.idx, markCount := x.count }, none) else (s, x, some (8, 0))

/-- A stream stands at a boundary of its outermost dimension. -/
def Stream.atBoundary (x : Stream) : Bool := x.idx.dropLast.all (fun i => i == 0)

/-- After a token: the store stream faults, is done once its writes are performed, pauses, or goes on. -/
def State.settleStore (s : State) (t slot : Nat) (x : Stream) (f : Option (Nat × Addr)) : State :=
  match f with
  | some (k, va) => s.streamFault t slot x k va
  | none =>
    if x.taken.isSome then s.setStream t slot x
    else if x.finished && x.heldWrites.isEmpty then if s.busy (.stream t slot) then s.setStream t slot x else s.streamEnds t slot x .done
    else if x.pauseAsked && !x.finished && x.atBoundary then s.streamEnds t slot x .paused
    else s.setStream t slot x

/-- STORE_STREAM_TAKE (R287, R293): what a fault interrupted goes on; else the next token of the port is taken. -/
def execStoreStreamTake (t slot : Nat) (st : State) : Out :=
  match st.streamAt t slot with
  | none => .next st
  | some x =>
    if !x.store || x.state != .run || !st.earlierDone t x.after || !st.hasGenerator t slot x then .next st
    else match x.taken with
      | some (tok, n) =>
        let (s, x, f) := st.workToken t slot x tok n
        .next (s.settleStore t slot x f)
      | none =>
        if x.finished && x.heldWrites.isEmpty then .next (st.settleStore t slot x none)
        else match st.region (rkey (st.partOf t) x.region.toNat) with
        | none => .next st
        | some r =>
          if x.closed then .next st
          else match st.egress r x.port x.ctx.val with
            | none => .next st
            | some (tok, r') =>
              let (s, x, f) := (st.setRegion r.key r').workToken t slot { x with count := x.count + 1 } tok 0
              .next (s.settleStore t slot x f)

/-- A stream is aborted (R299, R373): a discard also sets it back to its last marker. -/
def State.abortStream (s : State) (t slot : Nat) (x : Stream) (toMarker : Bool) : State :=
  let y : Stream := { x with out := [], lanes := [], ahead := [], fault := none, taken := none, heldWrites := [], reading := none, since := none, resumed := false }
  let y : Stream := if toMarker then { y with idx := y.markIdx, sent := posOf y.markIdx y.exts, count := y.markCount } else y
  (s.streamEnds t slot y .aborted).freePieces t slot

/-! ### SSPEC (R289, R290, R298) -/

/-- Number of a slot operand, or reason 16 (R297). -/
def slotOf (w : Word) : Option Nat := if w.toNat < 8 then some w.toNat else none

/-- A shape record (R75). -/
def readShape (bs : List Byte) : Shape :=
  let nd := bf (bytesAt bs 10 2) 7 4 + 1
  ⟨BitVec.ofNat 80 (bytesAt bs 0 10), EType.ofCode (bytesAt bs 10 1 % 16), BitVec.ofNat 8 (bytesAt bs 11 1),
    (List.range nd).map (fun d => (bytesAt bs (16 + 16 * d) 8, sext 64 (bytesAt bs (24 + 16 * d) 8)))⟩

/-- Fields marked zero outright and operands out of range (R289, R290, R75). -/
def streamFields (d sh : List Byte) : Bool :=
  let nd := bf (bytesAt sh 10 2) 7 4 + 1
  decide (bytesAt d 35 1 < 64) && decide (bytesAt d 36 1 < 128) && decide (bytesAt d 36 1 % 64 < 48) && decide (bytesAt d 37 1 < 16) &&
  allZ d 38 2 && allZ d 48 16 && decide (bytesAt d 40 8 < 2 ^ 36) && allZ sh 12 4 && decide (bytesAt sh 11 1 < 2) && decide (nd ≤ 12) &&
  allZ sh (16 + 16 * nd) (192 - 16 * nd)
where allZ (bs : List Byte) (off n : Nat) : Bool := bytesAt bs off n == 0

/-- Nonzero levels rise strictly. -/
def rising : List Nat → Bool
  | [] => true
  | l :: ls => (l == 0 || ls.all (fun m => m == 0 || decide (l < m))) && rising ls

/-- The stream of a descriptor and shape record. -/
def streamOf (d sh : List Byte) (gen : BitVec 8) (m : Mode) (die : Nat) (after : Nat) (dclk : List ClockSlot) : Stream :=
  let ctl := bytesAt d 35 1
  let rim := bytesAt d 36 1
  let shape := readShape sh
  let nd := shape.dims.length
  let zeros := List.replicate nd 0
  let x : Stream := ⟨.run, d, sh, shape, BitVec.ofNat 80 (bytesAt d 16 10), BitVec.ofNat 16 (bytesAt d 32 2), bytesAt d 34 1,
    ⟨bf ctl 5 4 % 4, Nat.mod_lt _ (by decide)⟩, bf ctl 0 0 == 1, bf ctl 1 1 == 1, bf ctl 2 2 == 1, if bf ctl 3 3 = 1 then some (bytesAt d 37 1) else none,
    rimOf die (bf rim 6 6 == 1) (rim % 64), (List.range nd).map (fun k => bytesAt d 40 8 / 8 ^ k % 8), gen, m, 0, 0, 0, zeros, 0, false, [], [], [], none, none, none, none,
    false, false, false, false, [], after, zeros, 0, dclk⟩
  if !x.store && x.exts.contains 0 then
    let lv := topLevel x.stops nd
    { x with finished := true, out := if lv = 0 then [] else [x.token lv 0 (fun _ => 0)] }
  else x

/-- The stream rules of R290. -/
def streamRules (d : List Byte) (x : Stream) : Bool :=
  let nd := x.exts.length
  let code := x.shape.etype.code
  let vector := decide (code ≤ 6) || decide (8 ≤ code ∧ code ≤ 13)
  let beats := code == 0 || decide (7 ≤ code)
  rising x.stops && (bytesAt d 40 8 / 8 ^ nd == 0) &&
  (if x.beat then
    !x.store && beats && x.exts.head? == some 4 && (x.stops.take 2).all (fun l => l == 0) &&
    (match x.shape.etype with
    | .e4m3 | .e5m2 | .e3m2 | .e2m1 => x.scales != 0
    | .i8 | .i4 => true
    | _ => x.scales == 0)
  else vector && x.scales == 0) &&
  (!x.held || x.store) && (!x.bound.isSome || !x.store) && (x.bound.isSome || bytesAt d 37 1 == 0) &&
  (!x.store || (x.stops.getLast?.getD 0) != 0)

/-- Reasons 18 to 20 for a (region, port, context) that an engine of the executing thread names (R280, R179). -/
def State.engineTarget (s : State) (h port ctx : Nat) (out : Bool) (ty : EType) : Except Nat Region :=
  match s.myRegion h with
  | none => .error 18
  | some r =>
    match r.image with
    | none => .error 18
    | some i =>
      if i.ports.length ≤ port ∨ !i.runs ctx ∨ r.port port ≠ ⟨out, ty⟩ ∨ r.bqwFed port then .error 18
      else if (s.bindingAt r port ctx).isSome then .error 19
      else .ok r

/-- SSPEC (R298). -/
def execSspec (r : Fin 32) (a : Fin 16) (st : State) : Out :=
  match slotOf (st.me.getX r) with
  | none => .next (st.refuse 16)
  | some k =>
    let va := st.me.getA a
    if (tget st.me.ss k).isSome then .next (st.refuse 17)
    else if va.toNat % 16 ≠ 0 then .next (st.refuse 21)
    else match st.readDesc va 8 [] with
      | .stop s => .next s
      | .bytes d s =>
        let shape : Addr := BitVec.ofNat 80 (bytesAt d 0 10)
        if shape.toNat % 16 ≠ 0 then .next (s.refuse 21)
        else match s.readDesc shape 26 [] with
          | .stop s => .next s
          | .bytes sh s =>
            let t := s.cur
            let x := streamOf d sh s.me.gen s.me.cur (dieOf t).val s.nextId s.me.dclk.toList
            if !streamFields d sh then .next (s.refuse 16)
            else match s.engineTarget x.region.toNat x.port x.ctx.val x.store x.shape.etype with
              | .error e => .next (s.refuse e)
              | .ok rg =>
                let col := x.rim % 48
                if rg.die ≠ dieOf t ∨ col < 4 * rg.bx ∨ 4 * (rg.bx + rg.w) ≤ col then .next (s.refuse 20)
                else if !streamRules d x then .next (s.refuse 21)
                else .next ({ s.setStream t k x with nextId := s.nextId + 1 }.onMe Thread.advance)

/-! ### SSTOP, SRESUME, SWAIT, SSTAT (R299 to R302, R388) -/

/-- What of a load stream's tokens stands before a place in the visit order, from the elements delivered on: a token across it is cut, and a
stop at it stays. Also the place behind the tokens. -/
def Stream.cutOut (x : Stream) (b : Nat) : List Token → Nat → List Token × Nat
  | [], p => ([], p)
  | tok :: r, p =>
    let n := x.elements tok
    let (ts, q) := x.cutOut b r (p + n)
    if tok.stop.val ≠ 0 then (if p ≤ b then tok :: ts else ts, q)
    else if b ≤ p then (ts, q)
    else if p + n ≤ b then (tok :: ts, q)
    else ({ tok with valid := BitVec.ofNat 16 (2 ^ (b - p) - 1) } :: ts, q)

/-- A load stream goes back to a place that it has read past: what lies behind is discarded and read again on resumption (R299). -/
def Stream.cutAt (x : Stream) (b : Nat) : Stream :=
  let (ts, p) := x.cutOut b x.out x.sent
  let y : Stream := { x with out := ts, lanes := x.lanes.take (b - p), ahead := [], fault := none, reading := none, since := none }
  { y.flush with idx := idxOf b x.exts, finished := false, stopping := true }

/-- The end of the outermost iteration that a load stream's delivery stands in: the boundary itself where it stands at one. -/
def Stream.boundary (x : Stream) : Nat :=
  let per := x.exts.dropLast.foldl (· * ·) 1
  (x.sent + per - 1) / per * per

/-- A running stream is told to pause: at a boundary of its delivery, or its position, at once, the boundary's stop first. -/
def State.pauseStream (s : State) (t slot : Nat) (x : Stream) : State :=
  let asked := s.setStream t slot { x with pauseAsked := true }
  if x.state = .fault then asked
  else if x.state ≠ .run then s
  else if x.store then
    if x.finished || !x.atBoundary || x.taken.isSome then asked else s.streamEnds t slot x .paused
  else
    let read := if x.finished then x.total else posOf x.idx x.exts
    if x.total ≤ x.boundary || read < x.boundary then asked else (s.forgetWalks (.stream t slot)).settleStream t slot (x.cutAt x.boundary)

/-- A chain slot ends without a word to its neighbours (R388). -/
def State.endChain (s : State) (t slot : Nat) (c : Chain) (k : SlotState) (kind : Nat) : State :=
  (s.onThread t (fun th => { th with ss := tput th.ss slot (.chain { c with state := k, fkind := kind, inbox := [], outbox := [], transit := [] }) })).leavesRun t c.state

/-- SSTOP by its operands (R299, R388). -/
def State.sstop (s : State) (r m : Fin 32) : Out :=
  let mode := s.me.getX m
  match slotOf (s.me.getX r) with
  | none => .next (s.refuse 16)
  | some k =>
    if 1 < mode.toNat then .next (s.refuse 16)
    else match tget s.me.ss k with
      | some (.stream x) =>
        if !liveSlot x.state then .next (s.refuse 17)
        else if mode = 1 then .next ((s.abortStream s.cur k x false).onMe Thread.advance)
        else .next ((s.pauseStream s.cur k x).onMe Thread.advance)
      | some (.chain c) =>
        if !liveSlot c.state then .next (s.refuse 17)
        else if mode = 1 then .next ((s.endChain s.cur k c .aborted 0).onMe Thread.advance)
        else .next (s.onMe (fun th => { th with ss := tput th.ss k (.chain { c with drainAsked := true }) }.advance))
      | none => .next (s.refuse 17)

/-- SSTOP with mode 0, a pause (R299). -/
def execSstopPause (r m : Fin 32) (st : State) : Out := st.sstop r m

/-- SSTOP with mode 1, an abort (R299). -/
def execSstopAbort (r m : Fin 32) (st : State) : Out := st.sstop r m

/-- SRESUME (R300): streams in FAULT of kinds 1 to 6 or PAUSED; chains never. -/
def execSresume (r : Fin 32) (st : State) : Out :=
  match slotOf (st.me.getX r) with
  | none => .next (st.refuse 16)
  | some k =>
    match tget st.me.ss k with
    | some (.stream x) =>
      let faulted := x.state == .fault && decide (1 ≤ x.fkind ∧ x.fkind ≤ 6)
      if faulted || x.state == .paused then
        .next ((st.setStream st.cur k { x with state := .run, fkind := 0, resumed := faulted, since := none }).onMe Thread.advance)
      else .next (st.refuse 17)
    | _ => .next (st.refuse 17)

/-- State codes of R288 and R306. -/
def SlotState.code : SlotState → Nat
  | .free => 0
  | .run => 1
  | .fault => 2
  | .paused => 3
  | .done => 4
  | .aborted => 5
  | .cancelled => 6

/-- The state word of a stream (R301). -/
def Stream.word (x : Stream) : Nat :=
  x.ctx.val * 2 ^ 38 + x.port * 2 ^ 32 + x.region.toNat * 2 ^ 16 + (x.exts.length - 1) * 2 ^ 12 + (if x.state = .fault then x.fkind else 0) * 2 ^ 8 +
  x.held.toNat * 2 ^ 4 + x.store.toNat * 2 ^ 3 + x.state.code

/-- The state word of a chain: NDIM and DIR have no meaning there, nor PORT unless one port is bound, and are left open (log 19). -/
def Chain.word (c : Chain) (k : Nat) : Nat :=
  let ports := [c.sport, c.rport].filter (fun p => p != 0xFF)
  let port := match ports with
    | [p] => p
    | _ => Config.chainField k % 64
  c.ctx.val * 2 ^ 38 + port * 2 ^ 32 + c.region.toNat * 2 ^ 16 + Config.chainField (k + 1) % 16 * 2 ^ 12 + (if c.state = .fault then c.fkind else 0) * 2 ^ 8 +
  Config.chainField (k + 2) % 2 * 2 ^ 3 + c.state.code

def SSlot.word (x : SSlot) (k : Nat) : Nat :=
  match x with
  | .stream x => x.word
  | .chain c => c.word k
def SSlot.state (x : SSlot) : SlotState :=
  match x with
  | .stream x => x.state
  | .chain c => c.state

/-- SWAIT (R301): a slot in DONE or ABORTED is freed, and DONE acquires its writes (R294). -/
def execSwait (d r : Fin 32) (st : State) : Out :=
  match slotOf (st.me.getX r) with
  | none => .next (st.refuse 16)
  | some k =>
    match tget st.me.ss k with
    | none => .next (st.onMe (fun th => (th.setX d 0).advance))
    | some x =>
      let put (s : State) : State := { s.onMe (fun th => (th.setX d (BitVec.ofNat 64 (x.word s.freeCtr))).advance) with freeCtr := s.freeCtr + 3 }
      match x.state with
      | .run => .next (st.waitFor .slot)
      | .done => .next ((put (st.onMe (fun th => { th with ss := tdel th.ss k }))).acquire st.cur)
      | .aborted => .next (put (st.onMe (fun th => { th with ss := tdel th.ss k })))
      | _ => .next (put st)

/-- A word of a slot (R302, R388). -/
def SSlot.stat (x : SSlot) (sel k : Nat) : Nat :=
  match x, sel with
  | x, 0 => x.word k
  | .stream x, 1 => x.faddr.toNat % 2 ^ 64
  | .stream x, 2 => x.faddr.toNat / 2 ^ 64
  | .stream x, 3 => x.count % 2 ^ 64
  | .stream x, n => x.idx.getD (n - 4) 0 % 2 ^ 64
  | .chain _, 1 => 0
  | .chain c, 3 => c.count % 2 ^ 64
  | .chain _, _ => Config.chainField k

/-- SSTAT (R302). -/
def execSstat (d r : Fin 32) (st : State) : Out :=
  let w := st.me.getX r
  if w.toNat / 2 ^ 8 ≠ 0 ∨ wf w 3 3 ≠ 0 then .next (st.refuse 16)
  else
    let v := match tget st.me.ss (wf w 2 0) with
      | some x => x.stat (wf w 7 4) st.freeCtr
      | none => 0
    .next { st.onMe (fun th => (th.setX d (BitVec.ofNat 64 v)).advance) with freeCtr := st.freeCtr + 3 }

end Sys2Proof.Machine
end

