-- ==== Sys2Proof/Machine/Fabric.lean ====
section
/-!
DEFINITION. The FABRIC instructions but for the swaps (R189 to R195, R207, R211, R212), discards (R207, R260, R369, R373, R374), the brake line (R258, R259) and the
fault tree's events (R370 to R372).
-/
namespace Sys2Proof.Machine

/-! ### Checks and turns (R190, R191) -/

/-- Reasons 1 to 3. What a field may hold can depend on the region. A handle with a bit set above [13:0] is one that does not exist, reason 2 and not 1
(DESIGN CHOICE, log 27: R188 marks [15:14] as zero and names no reason for them). -/
def State.fabricRegion (s : State) (fieldsOk : Bool) (h : Word) (inRange : Region → Bool := fun _ => true) : Except Nat Region :=
  if !fieldsOk then .error 1
  else match (if h.toNat < 2 ^ 16 then s.myRegion h.toNat else none) with
    | none => .error 2
    | some r => if r.die = dieOf s.cur then .ok r else .error (if inRange r then 3 else 1)

/-- A thread's FABRIC instruction is the one that the sequencers take now: it is at work, or nothing is and it has arrived first. -/
def Region.turnOf (r : Region) (t : Nat) : Bool := r.busyWith == some t || (r.busyWith.isNone && (r.line.headD t == t))

/-- A thread stands among those whose instructions have arrived, or leaves them. -/
def Region.join (r : Region) (t : Nat) : Region := if r.line.contains t then r else { r with line := r.line ++ [t] }
def Region.leave (r : Region) (t : Nat) : Region := { r with line := r.line.filter (fun u => u != t) }

/-- A FABRIC instruction of a region: its checks in reason order, its turn among the region's instructions, then its effect. One that is at work
is not checked again. -/
def State.fabric (s : State) (fieldsOk : Bool) (h : Word) (inRange : Region → Bool) (checks : Region → List (Bool × Nat)) (wait : WaitKind)
    (body : Region → State → Out) : Out :=
  match s.fabricRegion fieldsOk h inRange with
  | .error e => .next (s.refuse e)
  | .ok r =>
    if r.busyWith = some s.cur then body r s
    else if !r.turnOf s.cur then .next ((s.setRegion r.key (r.join s.cur)).waitFor wait)
    else
      let r := r.leave s.cur
      let s := s.setRegion r.key r
      match ((!inRange r, 1) :: checks r).find? (fun c => c.1) with
      | some c => .next (s.refuse c.2)
      | none => body r s

/-- The instruction waits and keeps the region's later instructions back. -/
def State.fabricHold (s : State) (r : Region) : State := (s.setRegion r.key { r with busyWith := some s.cur }).waitFor .region

/-- The instruction leaves issue. -/
def State.fabricDone (s : State) (r : Region) (f : Thread → Thread) : State :=
  (s.setRegion r.key { r with busyWith := none }).onMe (fun th => (f th).advance)

/-! ### RGNALLOC and RGNFREE (R188, R192, R193, R375) -/

/-- A region just allotted. -/
def Region.new (part : Fin 8) (num uid : Nat) (die : Fin 4) (bx by' w h : Nat) : Region where
  part := part
  num := num
  uid := uid
  die := die
  bx := bx
  by' := by'
  w := w
  h := h
  slots := Vector.replicate 4 none
  active := none
  cur := 0
  named := none
  chans := []
  ces := []
  mts := []
  closedPorts := []
  entered := []
  midway := []
  ingress := []
  args := []
  trigger := none
  swap := none
  waiters := []
  freezing := false
  frozen := false
  faults := []
  brake := false
  brakeBy := []
  cnt := Vector.replicate 6 0
  busyWith := none
  line := []

/-- A service bogie: in the partition's MAP and in its die's service rectangle (R375). -/
def Part.service (p : Part) (d x y : Nat) : Bool :=
  let w := bf (p.reg 0x3A0) (32 * d + 31) (32 * d)
  bf w 31 31 == 1 && p.hasBogie d (12 * y + x) && decide (bf w 3 0 ≤ x ∧ x < bf w 3 0 + max 1 (bf w 11 8)) &&
  decide (bf w 7 4 ≤ y ∧ y < bf w 7 4 + max 1 (bf w 15 12))

/-- A bogie lies in a region. -/
def Region.covers (r : Region) (d : Fin 4) (x y : Nat) : Bool :=
  r.die == d && decide (r.bx ≤ x ∧ x < r.bx + r.w) && decide (r.by' ≤ y ∧ y < r.by' + r.h)

/-- A candidate origin is accepted. -/
def State.candidate (s : State) (p : Fin 8) (d : Fin 4) (w h : Nat) (svc : Bool) (o : Nat × Nat) : Bool :=
  (List.range h).all (fun j => (List.range w).all (fun i =>
    let x := o.1 + i
    let y := o.2 + j
    (s.part p).hasBogie d.val (12 * y + x) && !s.regions.any (fun e => e.2.covers d x y) && (s.part p).service d.val x y == svc))

/-- Origins in ascending row, then column. -/
def origins (w h : Nat) : List (Nat × Nat) := (List.range (13 - h)).flatMap (fun y => (List.range (13 - w)).map (fun x => (x, y)))

/-- RGNALLOC (R192). -/
def execRgnalloc (d r : Fin 32) (st : State) : Out :=
  let w := st.me.getX r
  let first := wf w 31 31 == 1
  let svc := wf w 30 30 == 1
  let die : Fin 4 := ⟨wf w 29 28 % 4, Nat.mod_lt _ (by decide)⟩
  let hh := wf w 23 20
  let ww := wf w 19 16
  let bx := wf w 11 8
  let by' := wf w 15 12
  if svc ∧ st.me.cur = .worker then .next (st.privTrap ((encode (.rgnalloc d r)).getD 0))
  else if wf w 63 32 ≠ 0 ∨ wf w 27 24 ≠ 0 ∨ wf w 7 0 ≠ 0 ∨ (first ∧ (bx ≠ 0 ∨ by' ≠ 0)) ∨ hh = 0 ∨ 12 < hh ∨ ww = 0 ∨ 12 < ww ∨ 12 < bx + ww ∨ 12 < by' + hh then
    .next (st.refuse 1)
  else
    let p := st.partOf st.cur
    match (if first then origins ww hh else [(bx, by')]).find? (st.candidate p die ww hh svc) with
    | none => .next (st.onMe (fun th => (th.setX d 0).advance))
    | some o =>
      match (List.range 4096).find? (fun n => n != 0 && (st.region (rkey p (die.val * 4096 + n))).isNone) with
      | none => .next (st.onMe (fun th => (th.setX d 0).advance))
      | some n =>
        let rg := Region.new p n st.nextId die o.1 o.2 ww hh
        .next (({ st with nextId := st.nextId + 1 }.setRegion rg.key rg).onMe (fun th => (th.setX d (BitVec.ofNat 64 rg.handle)).advance))

/-- A queue, bq, stream or chain of the partition is bound to the region (reason 5). -/
def State.boundTo (s : State) (r : Region) : Bool :=
  (s.bindings r).any (fun e => match e.2.2 with | .pool _ _ | .copy _ _ => false | _ => true)

def MtWork.thread? : MtWork → Option Nat
  | .arrive t _ _ | .bwait t _ | .window t _ _ | .barrier t _ _ | .claim t _ _ _ => some t
  | _ => none

/-- A region ceases: what its tiles have answered reaches its threads, and what they have not is refused with reason 22 (R284). -/
def State.dropRegion (s : State) (r : Region) : State :=
  let refused := r.mts.flatMap (fun e => e.2.arriving ++ e.2.queue ++ e.2.waiting)
  let answered := r.mts.flatMap (fun e => e.2.respond)
  let s := refused.foldl (fun (s : State) q => match q.work.thread? with
    | some t => s.onThread t (fun th => { th with reply := some (refusedAnswer 22) })
    | none => s) s
  let s := answered.foldl (fun (s : State) q => match q.work.thread? with
    | some t => s.onThread t (fun th => { th with reply := some q.off })
    | none => s) s
  let s := (r.faults.filter (fun f => !f.gone)).foldl (fun (s : State) f => s.sendRecord r.part f.record) s
  { s with regions := tdel s.regions r.key }

/-- RGNFREE (R193). -/
def execRgnfree (h : Fin 32) (st : State) : Out :=
  st.fabric true (st.me.getX h) (fun _ => true) (fun r => [(st.boundTo r, 5), (r.frozen, 7)]) .region (fun r s => .next ((s.dropRegion r).onMe Thread.advance))

/-! ### CFGLD (R194, R195) -/

/-- A slot takes an image: its tasks' counts at zero, its pending argument writes dropped, and active if no slot was. -/
def Region.loadSlot (r : Region) (k : Fin 4) (i : Image) : Region :=
  let on := (i.blocks.map ceKeyOf).eraseDups
  { r with
    slots := r.slots.set k.val (some i) k.isLt
    active := some (r.active.getD k)
    args := r.args.filter (fun a => a.slot != k.val)
    ces := on.foldl (fun (t : Tbl Ce) c => tput t c { tgetD t c Ce.new with last := 0 }) r.ces }

/-- The image that a byte string is, placed, with the cache after it; or its offending offset (R64, R71). -/
def State.imageFor (s : State) (r : Region) (bs : List Byte) : Except Nat (Image × List Placed) :=
  match parseImage bs r.w r.h with
  | .error o => .error o
  | .ok i =>
    let cache := (s.part r.part).cache
    if imgPlaced bs then .ok (i, cache)
    else match placeImage cache i bs r.w r.h with
      | some (ps, cache) => .ok (i.place ps, cache)
      | none => .error 8

/-- The images in the other slots of a region, against which a new one is charged (R195). -/
def Region.others (r : Region) (k : Fin 4) : List (Option Image) := ((List.finRange 4).filter (fun j => j != k)).map r.slots.get

/-- What a CFGLD comes to that has not read its image: it waits for a walk and keeps the region's later instructions back, or its turn is over. -/
def State.loadHeld (s : State) (key : Nat) : State :=
  if s.me.wait.isSome then (s.onRegion key (fun r => { r with busyWith := some s.cur })).waitFor .load
  else s.onRegion key (fun r => { r with busyWith := none })

/-- CFGLD (R195). -/
def execCfgld (h r : Fin 32) (a : Fin 16) (st : State) : Out :=
  let w := st.me.getX r
  let k : Fin 4 := ⟨w.toNat % 4, Nat.mod_lt _ (by decide)⟩
  let va := st.me.getA a
  st.fabric (decide (w.toNat < 4)) (st.me.getX h) (fun _ => true) (fun rg => [(rg.active == some k, 4)]) .load (fun rg st =>
    let refuse (s : State) (o : Nat) : Out := .next ((s.onRegion rg.key (fun r => { r with busyWith := none })).trapSync 0x0D (BitVec.ofNat 64 o))
    if va.toNat % 128 ≠ 0 then refuse st 0
    else match st.readDesc va 8 [] with
      | .stop s => .next (s.loadHeld rg.key)
      | .bytes head s =>
        match s.readDesc (va + 64) ((imgLength head - 64 + 7) / 8) head with
        | .stop s => .next (s.loadHeld rg.key)
        | .bytes bs s =>
          match s.imageFor rg (bs.take (max 64 (imgLength head))) with
          | .error o => refuse s o
          | .ok (i, cache) =>
            let s := s.onPart rg.part (fun p => { p with cache := cache })
            match i.overload (rg.others k) with
            | some o => refuse s o
            | none => .next (s.fabricDone (rg.loadSlot k i) id))

/-! ### ARGW (R212) -/

/-- One argument write takes effect. -/
def Region.applyArg (r : Region) (a : ArgWrite) : Region :=
  let k : Fin 4 := ⟨a.slot % 4, Nat.mod_lt _ (by decide)⟩
  match (r.slots.get k).bind (fun i => i.blocks[a.block]?) with
  | some bl => r.setBlock k a.block { bl with consts := tput bl.consts a.ctx ((tgetD bl.consts a.ctx bl.loaded).set a.kidx a.v) }
  | none => r

/-- The pending writes that a test selects are applied in issue order and leave the network. -/
def Region.applyPending (r : Region) (f : ArgWrite → Bool) : Region :=
  let r' := (r.args.filter (fun a => f a && !a.done)).foldl Region.applyArg r
  { r' with args := r.args.filter (fun a => !f a) }

/-- Whether the task of a block in the active slot has started a round in a context since its last marker round there. -/
def Region.hasStarted (r : Region) (bl : Block) (ctx : Nat) : Bool := (r.ce (ceKeyOf bl)).started.contains (rcKey bl.slot ctx)

/-- ARGW (R212). -/
def execArgw (h r c : Fin 32) (st : State) : Out :=
  let w := st.me.getX r
  let slot : Fin 4 := ⟨wf w 25 24 % 4, Nat.mod_lt _ (by decide)⟩
  let a : ArgWrite := ⟨slot.val, wf w 23 22, wf w 20 16, wf w 15 0, st.me.getX c, false⟩
  let blockOf (rg : Region) : Option Block := (rg.slots.get slot).bind (fun i => i.blocks[a.block]?)
  st.fabric (decide (wf w 63 26 = 0 ∧ wf w 21 21 = 0)) (st.me.getX h) (fun _ => true)
    (fun rg => [((rg.slots.get slot).isNone, 4),
      (!(blockOf rg).any (fun bl => decide (a.kidx < bl.loaded.length) && bl.ctxm.contains a.ctx), 6), (rg.frozen, 7)]) .region
    (fun rg s =>
      if 16 ≤ rg.args.length then .next (s.fabricHold rg)
      else if rg.active == some slot && (blockOf rg).any (fun bl => rg.hasStarted bl a.ctx) then
        .next (s.fabricDone { rg with args := rg.args ++ [a] } id)
      else .next (s.fabricDone (rg.applyArg a) id))

/-! ### CFGTRIG (R211) -/

/-- Input ports of the active image. -/
def Region.inPorts (r : Region) : List Nat := ((r.image.map (fun i => i.ports)).getD []).zipIdx.filterMap (fun e => if e.1.out then none else some e.2)

/-- Every ingress point closes for every context (R208). -/
def Region.closeAll (r : Region) : Region := { r with closedPorts := r.inPorts.flatMap (fun p => [0, 1, 2, 3].map (fun c => (p, c))) }

/-- A trigger that has counted its last token starts its swap, from step 2 of a plain one, and is disarmed (R211). -/
def Region.fireTrigger (r : Region) : Region :=
  match r.trigger with
  | some g => if g.fired && r.swap.isNone then { r.closeAll with trigger := none, swap := some ⟨g.t, true, g.slot, none, [], none⟩ } else r
  | none => r

/-- CFGTRIG by its trigger word. -/
def State.cfgtrig (s : State) (h r c : Fin 32) : Out :=
  let w := s.me.getX r
  let n := (s.me.getX c).toNat
  let disarm := wf w 10 10 == 1
  let slot : Fin 4 := ⟨wf w 1 0 % 4, Nat.mod_lt _ (by decide)⟩
  let ok := if disarm then w.toNat == 2 ^ 10 else decide (w.toNat < 2 ^ 10 ∧ wf w 8 8 = 0 ∧ 1 ≤ n ∧ n < 2 ^ 32)
  let inPort (rg : Region) : Bool := rg.image.any (fun i => (i.ports[wf w 7 2]?).any (fun p => !p.out))
  s.fabric ok (s.me.getX h) (fun rg => disarm || inPort rg) (fun rg => [(!disarm && (rg.slots.get slot).isNone, 4), (rg.frozen, 7)]) .region (fun rg s =>
    let rg := rg.fireTrigger
    if rg.trigger.any Trigger.fired then .next (s.fabricHold rg)
    else .next (s.fabricDone { rg with trigger := if disarm then none else some ⟨s.cur, wf w 7 2, wf w 9 9 == 1, slot.val, n, false⟩ } id))

/-- CFGTRIG that arms (R211). -/
def execCfgtrig (h r c : Fin 32) (st : State) : Out := st.cfgtrig h r c

/-- CFGTRIG with DISARM (R211). -/
def execCfgtrigDisarm (h r c : Fin 32) (st : State) : Out := st.cfgtrig h r c

/-! ### Discards (R207, R260, R369, R373, R374) -/

/-- A group in a register of a CE goes with some contexts: a K-step task of one of them would take it, or a token of it is of one. -/
def Region.dropsGroup (r : Region) (cs : List Nat) (key : Nat) (g : List Token) : Bool :=
  g.any (fun t => cs.contains t.ctx.val) || (r.tasksOn key).any (fun e => e.2.isKstep && e.2.ctxm.any cs.contains)

/-- Tokens of some contexts inside a region: in channels, in registers, restored ones, and requests held by tiles. -/
def Region.tokensOf (r : Region) (cs : List Nat) : Nat :=
  let group (key : Nat) (g : List Token) : Nat := if r.dropsGroup cs key g then g.length else 0
  r.chans.foldl (fun n e => if cs.contains (e.1 % 4) then n + e.2.buf.length + e.2.transit.length else n) 0 +
  r.ces.foldl (fun n e => n + group e.1 e.2.aReg + group e.1 e.2.bReg) 0 + (r.ingress.filter (fun e => cs.contains e.2.ctx.val)).length +
  r.mts.foldl (fun n e => n + ((e.2.arriving ++ e.2.queue).filter (fun q => q.work.thread?.isNone && cs.contains q.ctx.val)).length) 0

/-- A CE after a discard: rounds and groups abandoned, counters and flags of the contexts at zero, banks they own restored. -/
def Ce.discard (c : Ce) (cs : List Nat) (drops : List Token → Bool) : Ce :=
  { c with
    rounds := c.rounds.filter (fun rd => !cs.contains rd.ctx.val)
    rc := c.rc.filter (fun e => !cs.contains (e.1 % 4))
    started := c.started.filter (fun e => !cs.contains (e % 4))
    banks := c.banks.map (fun b => if b.owner.any (fun o => cs.contains o.val) then { b with live := b.check, count := b.checkCount } else b)
    aReg := if drops c.aReg then [] else c.aReg
    bReg := if drops c.bReg then [] else c.bReg
    flags := Vector.ofFn (fun i => if cs.contains i.val then 0 else c.flags.get i) }

/-- A tile after a discard: element requests of the contexts and their flags go. -/
def Mt.discard (m : Mt) (cs : List Nat) : Mt :=
  let keep (q : MtReq) : Bool := q.work.thread?.isSome || !cs.contains q.ctx.val
  { m with
    arriving := m.arriving.filter keep
    queue := m.queue.filter keep
    flags := Vector.ofFn (fun i => if cs.contains i.val then 0 else m.flags.get i) }

/-- A fault that the present freeze has recorded: not a barrier overrun's. -/
def RegionFault.counts (f : RegionFault) : Bool := !f.old && f.record.kind != 7

/-- A discard releases a freeze (R369): a DRAIN's by naming every context that has a fault, the sequencers' once each has had its own (log 29). -/
def Region.releases (r : Region) (cs : List Nat) (auto : Bool) : Bool :=
  (r.frozen || r.freezing) && r.faults.all (fun f => !f.counts || cs.contains f.record.ctx.val || (auto && f.discarded))

/-- A freeze is over: every point reopens and the brake line is released (R369). -/
def Region.thaw (r : Region) : Region :=
  { r with
    frozen := false
    freezing := false
    brake := false
    brakeBy := []
    faults := (r.faults.filter (fun f => !f.gone)).map (fun f => { f with old := true }) }

/-- The region's side of a discard (R207), with the release of a freeze (R369) and of the brake (R258, R260). -/
def Region.discard (r : Region) (cs : List Nat) (auto : Bool) : Region :=
  let kstep := r.image.any (fun i => i.blocks.any (fun b => b.isKstep && b.ctxm.any cs.contains))
  let r := { r with
    chans := r.chans.filter (fun e => !cs.contains (e.1 % 4))
    ces := r.ces.map (fun (e : Nat × Ce) => (e.1, e.2.discard cs (r.dropsGroup cs e.1)))
    mts := r.mts.map (fun (e : Nat × Mt) => (e.1, e.2.discard cs))
    ingress := r.ingress.filter (fun e => !cs.contains e.2.ctx.val)
    faults := r.faults.map (fun (f : RegionFault) => if auto && f.counts && cs.contains f.record.ctx.val then { f with discarded := true } else f) }
  let r := r.applyPending (fun a => cs.contains a.ctx)
  let r := if kstep then { r with brake := false, brakeBy := [] } else r
  if r.releases cs auto then r.thaw else r

/-- F, CX, CY and ROUND of the discard word: of the first record of the freeze that names a discarded context (R374). -/
def discardFault (r : Region) (cs : List Nat) : Nat :=
  match (if r.frozen || r.freezing then r.faults.find? (fun f => f.counts && cs.contains f.record.ctx.val) else none) with
  | some f => 2 ^ 35 + f.record.x.toNat % 64 * 2 ^ 29 + f.record.y.toNat % 64 * 2 ^ 23 + f.record.round.toNat
  | none => 0

/-- Contexts as a mask. -/
def maskCtx (cs : List Nat) : Nat := ([0, 1, 2, 3].filter cs.contains).foldl (fun n c => n + 2 ^ c) 0

/-- A DISCARD of contexts of a region, by an instruction or by the sequencers (auto): the tokens removed and the state after all its effects. The
issuer of a DRAIN alone takes no trap (R374). -/
def State.discard (s : State) (r : Region) (cs : List Nat) (auto : Bool) (issuer : Option Nat) : Nat × State :=
  let bound := (s.bindings r).filter (fun e => cs.contains e.2.1)
  let streams := bound.filterMap (fun e => match e.2.2 with | .stream t k => some (t, k) | _ => none)
  let queues := bound.filterMap (fun e => match e.2.2 with | .queue t q => some (t, q) | _ => none)
  let threads := (bound.filterMap (fun e => match e.2.2 with | .queue t _ | .bq t | .stream t _ => some t | _ => none)).eraseDups
  let word (t : Nat) : Nat :=
    r.handle * 2 ^ 48 + maskCtx cs * 2 ^ 44 + (streams.filter (fun e => e.1 == t)).foldl (fun n e => n + 2 ^ (36 + e.2)) 0 + discardFault r cs
  let n := r.tokensOf cs
  let s := s.setRegion r.key (r.discard cs auto)
  let s := streams.foldl (fun (s : State) e => match s.streamAt e.1 e.2 with
    | some x => s.abortStream e.1 e.2 x true
    | none => s) s
  let s := if !auto then s else queues.foldl (fun (s : State) e => s.onThread e.1 (fun th =>
    match tget th.qs e.2 with
    | some q => if q.out then th else { th with qs := tput th.qs e.2 q.discard.2 }
    | none => th)) s
  let s := s.bump r.part 0x3F0 63 32 cs.length
  (n, (threads.filter (fun t => some t != issuer)).foldl (fun (s : State) t => s.raise t 0x0C (BitVec.ofNat 64 (word t))) s)

/-! ### DRAIN (R207) -/

/-- The status word of QUIET and WAIT. -/
def Region.status (r : Region) : Nat :=
  let bits (f : Nat → Bool) : Nat := maskCtx ([0, 1, 2, 3].filter f)
  r.frozen.toNat * 2 ^ 16 + (r.swap.isSome || r.trigger.any Trigger.fired).toNat * 2 ^ 15 + (r.trigger.any (fun g => !g.fired)).toNat * 2 ^ 14 +
  bits (fun k => (r.slots[k]?).any Option.isSome) * 2 ^ 10 + ((r.active.map Fin.val).getD 0) * 2 ^ 8 + bits r.runs * 2 ^ 4 + bits r.quiet

/-- The USE word. -/
def Region.use (r : Region) : Nat :=
  let slots := r.slots.toList
  let keys := (slots.flatMap (fun o => match o with | some i => i.blocks.map ceKeyOf | none => [])).eraseDups
  let most (f : Nat → Nat) : Nat := keys.foldl (fun m k => max m (f k)) 0
  let act (f : Charge → Nat) : Nat := most (fun k => f ((r.image.map (fun i => i.charge k)).getD .zero))
  act Charge.tasks * 2 ^ 34 + act Charge.slots * 2 ^ 28 + act Charge.frames * 2 ^ 21 + most (fun k => (slotsCharge slots k).2) * 2 ^ 12 +
  most (fun k => (slotsCharge slots k).1)

/-- A DRAIN operation word keeps its layout. -/
def drainWordOk (w : Word) : Bool :=
  let op := wf w 2 0
  let sel := wf w 7 4
  let clr := wf w 12 12
  decide (wf w 63 13 = 0 ∧ wf w 3 3 = 0 ∧ op ≤ 3) && (if op = 3 then decide (sel ≤ 6) && !(clr == 1 && sel == 6) else sel == 0 && clr == 0)

/-- DRAIN STAT: a counter, cleared if asked, or the usage word. -/
def State.drainStat (s : State) (d : Fin 32) (r : Region) (sel : Nat) (clr : Bool) : State :=
  if h : sel < 6 then
    let s := if clr then s.setRegion r.key { r with cnt := r.cnt.set sel 0 h } else s
    s.onMe (fun th => (th.setX d (BitVec.ofNat 64 (r.cnt[sel]).toNat)).advance)
  else s.onMe (fun th => (th.setX d (BitVec.ofNat 64 r.use)).advance)

/-- DRAIN by its operation word. -/
def State.drain (s : State) (d h o : Fin 32) : Out :=
  let w := s.me.getX o
  let ctxm := if wf w 11 8 = 0 then [0, 1, 2, 3] else [0, 1, 2, 3].filter (fun c => (wf w 11 8).testBit c)
  let hx := s.me.getX h
  match s.fabricRegion (drainWordOk w) hx with
  | .error e => .next (s.refuse e)
  | .ok r =>
    match wf w 2 0 with
    | 0 => .next (s.onMe (fun th => (th.setX d (BitVec.ofNat 64 r.status)).advance))
    | 3 => .next (s.drainStat d r (wf w 7 4) (wf w 12 12 == 1))
    | 1 => s.fabric true hx (fun _ => true) (fun _ => []) .region (fun r s =>
        match r.waiters.find? (fun e => e.1 == s.cur) with
        | none => .next (s.fabricHold { r with waiters := r.waiters ++ [(s.cur, ctxm)] })
        | some e =>
          if e.2.isEmpty then .next (s.fabricDone { r with waiters := r.waiters.erase e } (fun th => th.setX d (BitVec.ofNat 64 r.status)))
          else .next (s.waitFor .region))
    | _ => s.fabric true hx (fun _ => true) (fun _ => []) .region (fun r s =>
        let (n, s') := s.discard r ctxm false (some s.cur)
        .next (s'.onMe (fun th => (th.setX d (BitVec.ofNat 64 n)).advance)))

/-- DRAIN QUIET (R207). -/
def execDrainQuiet (d h o : Fin 32) (st : State) : Out := st.drain d h o

/-- DRAIN WAIT (R207). -/
def execDrainWait (d h o : Fin 32) (st : State) : Out := st.drain d h o

/-- DRAIN DISCARD (R207). -/
def execDrainDiscard (d h o : Fin 32) (st : State) : Out := st.drain d h o

/-- DRAIN STAT (R207). -/
def execDrainStat (d h o : Fin 32) (st : State) : Out := st.drain d h o

/-! ### The brake line (R258, R259) -/

/-- BRAKE_ENGAGE: for a stream fault in the cycle after the stream stopped, or for a freeze. -/
def execBrakeEngage (rgn : Nat) (freeze : Bool) (st : State) : Out :=
  match st.region rgn with
  | none => .next st
  | some r =>
    if r.brake || !(if freeze then r.frozen else !r.brakeBy.isEmpty) then .next st
    else
      let s := st.setRegion rgn { r with brake := true }
      .next (s.onPart r.part (fun p => ((p.bump 0x170 127 96 1).setFld 0x170 49 48 (if freeze then 2 else 1)).setFld 0x170 47 32 r.handle))

/-- BRAKE_RELEASE: no stream that engaged it is still stopped, and the region is not frozen. -/
def execBrakeRelease (rgn : Nat) (st : State) : Out :=
  .next (st.onRegion rgn (fun r => if r.brakeBy.isEmpty && !r.frozen then { r with brake := false } else r))

/-! ### The fault tree (R370 to R372) -/

/-- FAULT_RECORD_LEAVE (R370): records whose time has come leave the region root in detection order. -/
def execFaultRecordLeave (rgn : Nat) (st : State) : Out :=
  match st.region rgn with
  | none => .next st
  | some r =>
    let due := (r.faults.filter (fun f => !f.gone)).takeWhile (fun f => f.left == 0)
    let left := r.faults.map (fun f => if due.contains f then { f with gone := true } else f)
    let s := st.setRegion rgn { r with faults := if r.frozen then left else left.filter (fun f => !f.gone) }
    .next (due.foldl (fun (s : State) f => s.sendRecord r.part f.record) s)

/-- AUTO_DISCARD (R371): with AUTO set, each faulted context whose record has left is discarded. -/
def execAutoDiscard (rgn : Nat) (st : State) : Out :=
  match st.region rgn with
  | none => .next st
  | some r =>
    if !r.frozen || (st.part r.part).fld 0x3C0 65 65 = 0 then .next st
    else
      let cs := ((r.faults.filter (fun f => f.counts && f.gone && !f.discarded)).map (fun f => f.record.ctx.val)).eraseDups
      .next (cs.foldl (fun (s : State) c => match s.region rgn with
        | some r => (s.discard r [c] true none).2
        | none => s) st)

/-- A record as the ring holds it (R372). -/
def FaultRecord.bytes (f : FaultRecord) (seq : Nat) : List Byte :=
  leBytes seq 8 ++ leBytes f.kind.val 1 ++ leBytes f.part.val 1 ++ leBytes f.module.toNat 2 ++ leBytes f.region.toNat 2 ++ leBytes f.ctx.val 1 ++
  leBytes f.unit.val 1 ++ leBytes f.x.toNat 1 ++ leBytes f.y.toNat 1 ++ leBytes f.slot.toNat 1 ++ [0] ++ leBytes f.round.toNat 2 ++ leBytes f.lidx.toNat 2 ++
  leBytes f.gtime.toNat 8 ++ leBytes f.addr.toNat 16 ++ leBytes f.info.toNat 8 ++ leBytes 0 8

/-- Physical address of a record of the ring, by its number. -/
def Part.recordAt (q : Part) (seq : Nat) : Nat :=
  let k := q.fld 0x3D0 103 96
  q.fld 0x3D0 56 14 * 2 ^ 14 + 64 * (seq % 2 ^ (if 6 ≤ k ∧ k ≤ 20 then k else 6))

/-- The ring takes no record: it is not valid, full, or on a die that is lost. -/
def State.ringShut (s : State) (q : Part) : Bool :=
  let k := q.fld 0x3D0 103 96
  let seq := q.fld 0x3E0 127 64
  q.fld 0x3D0 0 0 == 0 || decide (2 ^ (if 6 ≤ k ∧ k ≤ 20 then k else 6) ≤ (seq + 2 ^ 64 - q.fld 0x3E0 63 0) % 2 ^ 64) || s.homeLost (q.recordAt seq)

/-- The oldest record has been performed in memory: its cause becomes pending. A HALTED server takes it at once (R106), and the trap acquires
the record. -/
def State.recordWritten (s : State) (p : Fin 8) : State :=
  let q := s.part p
  match q.records with
  | [] => s
  | (lidx, f) :: rest =>
    let seq := q.fld 0x3E0 127 64
    let s := s.onPart p (fun q => { q.setFld 0x3E0 127 64 (seq + 1) with records := rest, recordOut := false })
    match (q.threads)[lidx.toNat]? with
    | some t =>
      let trapsNow := decide ((s.thread t).st = .halted) && !(s.thread t).hold
      let s := s.raise t (if f.kind = 7 then 0x0B else 0x14) (BitVec.ofNat 64 seq)
      if trapsNow then s.acquire t else s
    | none => s

/-- FAULT_RECORD_WRITE (R372): the oldest waiting record leaves for the ring, or has been performed there. -/
def execFaultRecordWrite (p : Fin 8) (st : State) : Out :=
  let q := st.part p
  let done (s : State) : State := if s.busy (.records p) then s else s.recordWritten p
  match q.records with
  | [] => .next st
  | (_, f) :: _ =>
    if q.recordOut then .next (done st)
    else if st.ringShut q then .next st
    else
      let seq := q.fld 0x3E0 127 64
      .next (done ((st.onPart p (fun q => { q with recordOut := true })).writePhys (.records p) p (q.recordAt seq) (FaultRecord.bytes f seq) 2))

end Sys2Proof.Machine
end

