-- ==== Sys2Proof/Machine/Save.lean ====
section
/-!
DEFINITION. Save areas (R209, R377 to R379): their pages, the region part as bytes, tokens that wait behind closed ingress points, and the CTX instructions
on regions.
-/
namespace Sys2Proof.Machine

/-! ### Bytes of an area (R377) -/

def pageCount (n : Nat) : Nat := (n + 0x3FFF) / 0x4000

/-- The page of an offset, and the physical address of it. -/
def areaPage (pages : List AreaPage) (off : Nat) : AreaPage := pages.getD (off / 0x4000) ⟨0, 6, 2 ^ 80⟩
def areaPa (pages : List AreaPage) (off : Nat) : Nat := (areaPage pages off).pa + off % 0x4000

/-- Bytes at an offset leave for their homes, line by line, each with the translation of its page (R156). -/
def State.writeArea (s : State) (t : Nat) (pages : List AreaPage) : Nat → Nat → List Byte → State
  | 0, _, _ => s
  | n + 1, off, bs =>
    let k := 128 - off % 128
    if bs.isEmpty then s
    else
      let p := s.partOf t
      let (level, vpn) := (areaPage pages off).tlb
      (s.engineStore (.area t) p 0 (areaPa pages off) { physEntry p with level := level, vpn := vpn } (offsetsFrom (off % 128) (bs.take k))).writeArea t pages n (off + k) (bs.drop k)

/-- Read bytes at an offset. -/
def State.readArea (s : State) (pages : List AreaPage) (off n : Nat) : List Byte := (List.range n).map (fun i => memByte s.mem (areaPa pages (off + i)))

/-- Offset of the first poisoned line of some ranges. -/
def State.poisonIn (s : State) (pages : List AreaPage) (ranges : List (Nat × Nat)) : Option Nat :=
  (ranges.flatMap (fun e => (List.range ((e.2 + 127) / 128)).map (fun i => e.1 + 128 * i))).find? (fun off => s.isPoisoned (areaPa pages off))

/-- Zeros behind, to a length. -/
def padTo (n : Nat) (l : List Byte) : List Byte := l ++ List.replicate (n - l.length) 0

/-- A token record (R378). -/
def tokenRecord (t : Token) (idx pos : Nat) : List Byte := t.payload ++ leBytes t.sideband.toNat 8 ++ leBytes idx 2 ++ leBytes pos 1 ++ [1] ++ leBytes 0 4
def readToken (b : List Byte) : Token := Token.ofSideband (bytesAt b 128 8) (b.take 128)
def recordUsed (b : List Byte) : Bool := bytesAt b 139 1 == 1

/-! ### The region part (R378) -/

def Region.ceCount (r : Region) : Nat := 16 * r.w * r.h
def Region.mtCount (r : Region) : Nat := 2 * r.w * r.h
def Region.scrOff (r : Region) : Nat := 131072 + 16384 * r.ceCount
def Region.ingOff (r : Region) : Nat := r.scrOff + 524288 * r.mtCount

/-- CEs in row order, tiles in column order, as keys. -/
def Region.ceKeys (r : Region) : List Nat := (List.range (4 * r.h)).flatMap (fun y => (List.range (4 * r.w)).map (fun x => y * 64 + x))
def Region.mtKeys (r : Region) : List Nat := (List.range (2 * r.w)).flatMap (fun u => (List.range r.h).map (fun v => mtKey u v))

/-- Tasks of a CE in slot order. -/
def Region.tasksBySlot (r : Region) (key : Nat) : List (Nat × Block) := sortBy (fun a b => decide (a.2.slot ≤ b.2.slot)) (r.tasksOn key)

/-- Constants of a CE in constant-store order: block, context, index. -/
def Region.constOrder (r : Region) (key : Nat) : List (Nat × Nat × Nat) :=
  (r.tasksBySlot key).flatMap (fun e => e.2.ctxm.flatMap (fun c => (List.range e.2.loaded.length).map (fun k => (e.1, c, k))))

/-- Channels whose buffers stand on a CE (R196). -/
def Region.chansOn (r : Region) (key : Nat) : List Nat :=
  match r.image with
  | none => []
  | some i =>
    let on (b : Nat) : Bool := (i.blocks[b]?).any (fun bl => ceKeyOf bl == key)
    (i.chans.zipIdx.filter (fun e => match e.1.to', e.1.from' with
      | .block b _, _ => on b
      | .port _, .block b _ => on b
      | _, _ => false)).map (·.2)

def bankBytes (b : Bank) : List Byte :=
  b.live.toList.flatMap (fun w => leBytes w.toNat 8) ++ b.check.toList.flatMap (fun w => leBytes w.toNat 8) ++ leBytes b.count.toNat 4 ++
  leBytes b.checkCount.toNat 4 ++ leBytes ((b.owner.map Fin.val).getD 0xFF) 1 ++ leBytes 0 23

def readBank (b : List Byte) : Bank :=
  ⟨Vector.ofFn (fun l => BitVec.ofNat 64 (bytesAt b (8 * l.val) 8)), Vector.ofFn (fun l => BitVec.ofNat 64 (bytesAt b (128 + 8 * l.val) 8)),
    BitVec.ofNat 32 (bytesAt b 256 4), BitVec.ofNat 32 (bytesAt b 260 4),
    if bytesAt b 264 1 = 0xFF then none else some ⟨bytesAt b 264 1 % 4, Nat.mod_lt _ (by decide)⟩⟩

/-- A CE record. -/
def Region.ceRecord (r : Region) (cs : List Nat) (key : Nat) : List Byte :=
  let c := r.ce key
  let toks := (r.chansOn key).flatMap (fun k => cs.flatMap (fun x => (r.chan k x).buf.zipIdx.map (fun e => tokenRecord e.1 k e.2)))
  padTo 2048 ((r.constOrder key).flatMap (fun (b, x, k) =>
    leBytes (((r.image.bind (fun i => i.blocks[b]?)).map (fun bl => ((tgetD bl.consts x bl.loaded).getD k 0).toNat)).getD 0) 8)) ++
  c.banks.toList.flatMap bankBytes ++
  ((List.range 16).flatMap (fun sl => [0, 1, 2, 3].flatMap (fun x => leBytes (if cs.contains x then tgetD c.rc (rcKey sl x) 0 else 0) 4))) ++
  padTo 128 ((List.finRange 4).flatMap (fun x => leBytes (if cs.contains x.val then (c.flags.get x).toNat else 0) 1)) ++
  c.bn.toList.flatMap (fun p => padTo 64 (p.take 64)) ++ padTo 8640 (toks.take 60).flatten ++ leBytes 0 3648

/-- An MT record; windows and barriers only with SCR. -/
def Mt.record (m : Mt) (cs : List Nat) (scr : Bool) : List Byte :=
  let (off, len) := if scr then m.win.getD (0, 0) else (0, 0)
  let bars := if scr then m.barriers else []
  leBytes off 4 ++ leBytes len 4 ++ leBytes bars.length 1 ++ leBytes 0 3 ++
  (List.finRange 4).flatMap (fun x => leBytes (if cs.contains x.val then (m.flags.get x).toNat else 0) 1) ++
  padTo 240 (bars.flatMap (fun b => leBytes (b / 32) 2))

/-- The save area of a region in chunks, as (offset, bytes). -/
def State.regionArea (s : State) (r : Region) (cs : List Nat) (scr : Bool) (ing : List (Nat × Token)) : List (Nat × List Byte) :=
  let head := leBytes 0x31435853 4 ++ leBytes 1 2 ++ leBytes r.w 1 ++ leBytes r.h 1 ++ leBytes ((r.image.map (fun i => i.pkey.toNat)).getD 0) 8 ++
    leBytes (maskCtx cs) 1 ++ leBytes ((r.active.map Fin.val).getD 0) 1 ++ leBytes 0 2 ++ leBytes ing.length 4 ++
    leBytes (r.ingOff + 144 * ing.length) 8 ++ leBytes (s.gtime r.die) 8
  let mts := (r.mtKeys).flatMap (fun k => (tgetD r.mts k Mt.new).record cs scr)
  let seen (n : Nat) (e : Nat × Token) : Nat := ((ing.take n).filter (fun o => o.1 == e.1 && o.2.ctx == e.2.ctx)).length
  [(0, padTo 131072 (padTo 256 head ++ mts))] ++
  r.ceKeys.zipIdx.map (fun (k, n) => (131072 + 16384 * n, r.ceRecord cs k)) ++
  (if scr then r.mtKeys.zipIdx.map (fun (k, n) => (r.scrOff + 524288 * n, memBytes (tgetD r.mts k Mt.new).scratch 0 524288)) else []) ++
  ing.zipIdx.map (fun (e, n) => (r.ingOff + 144 * n, tokenRecord e.2 e.1 (seen n e)))

def State.writeChunks (s : State) (t : Nat) (pages : List AreaPage) (cs : List (Nat × List Byte)) : State :=
  cs.foldl (fun (s : State) e => s.writeArea t pages e.2.length e.1 e.2) s

/-- A load stream's ready tokens leave it as if they had been delivered. -/
def Stream.takeOut (x : Stream) : List Token × Stream :=
  x.out.foldl (fun (acc : List Token × Stream) o =>
    let (l, y) := acc
    let z : Stream := { y with count := y.count + 1, sent := y.sent + y.elements o }
    (l ++ [{ o with round := BitVec.ofNat 15 y.count }], if isMarker o then { z with markIdx := idxOf z.sent z.exts, markCount := z.count } else z))
    ([], { x with out := [] })

/-- Tokens of some contexts that wait behind the region's ingress points leave their holders, port by port: restored ones, then those of bound
queues, streams and chains (R209, R378). -/
def State.takeWaiting (s : State) (r : Region) (cs : List Nat) : List (Nat × Token) × State :=
  let restored := r.ingress.filter (fun e => cs.contains e.2.ctx.val)
  let s := s.onRegion r.key (fun r => { r with ingress := r.ingress.filter (fun e => !cs.contains e.2.ctx.val) })
  ((s.bindings r).filter (fun e => cs.contains e.2.1)).foldl (fun (acc : List (Nat × Token) × State) e =>
    let (l, s) := acc
    match e.2.2 with
    | .queue t k =>
      match tget (s.thread t).qs k with
      | some q =>
        if q.out then acc
        else (l ++ (q.toks.filter (fun x => !x.2.2)).map (fun x => (e.1, x.1)),
          s.onThread t (fun th => { th with qs := tput th.qs k { q with toks := q.toks.filter (fun x => x.2.2) } }))
      | none => acc
    | .stream t k =>
      match s.streamAt t k with
      | some x =>
        if x.store then acc
        else
          let (toks, y) := x.takeOut
          (l ++ toks.map (fun o => (e.1, o)), s.settleStream t k y)
      | none => acc
    | .chainR t k =>
      match tget (s.thread t).ss k with
      | some (.chain c) =>
        (l ++ (c.outbox.filter (fun o => o.1 == e.1)),
          s.onThread t (fun th => { th with ss := tput th.ss k (.chain { c with outbox := c.outbox.filter (fun o => o.1 != e.1) }) }))
      | _ => acc
    | _ => acc) (restored, s)

/-- Write a CE record into the region: what all contexts share, and the named contexts' own. -/
def Region.loadCe (r : Region) (cs : List Nat) (key : Nat) (b : List Byte) : Region :=
  match r.active, r.image with
  | some slot, some i =>
    let r := (r.constOrder key).zipIdx.foldl (fun (r : Region) (e : (Nat × Nat × Nat) × Nat) =>
      let (bi, x, k) := e.1
      if cs.contains x then r.applyArg ⟨slot.val, x, k, bi, BitVec.ofNat 64 (bytesAt b (8 * e.2) 8), false⟩ else r) r
    let rc (sl x : Nat) : Nat := bytesAt b (3200 + 4 * (4 * sl + x)) 4
    let keys := (r.tasksOn key).flatMap (fun e => (e.2.ctxm.filter cs.contains).map (fun x => (e.2.slot, x)))
    let c := r.ce key
    let c := { c with
      banks := Vector.ofFn (fun (n : Fin 4) => readBank (b.drop (2048 + 288 * n.val)))
      rc := keys.foldl (fun (t : Tbl Nat) e => tput t (rcKey e.1 e.2) (rc e.1 e.2)) c.rc
      started := keys.foldl (fun (l : List Nat) e => if rc e.1 e.2 = 0 then l.filter (fun k => k != rcKey e.1 e.2) else insertNat (rcKey e.1 e.2) l) c.started
      flags := Vector.ofFn (fun x => if cs.contains x.val then BitVec.ofNat 7 (bytesAt b (3456 + x.val) 1) else c.flags.get x)
      bn := Vector.ofFn (fun n => (b.drop (3584 + 64 * n.val)).take 64) }
    let r := { r with ces := tput r.ces key c }
    let recs := (List.range 60).filterMap (fun n =>
      let x := (b.drop (4096 + 144 * n)).take 144
      let t := readToken x
      if recordUsed x && decide (bytesAt x 136 2 < i.chans.length) && cs.contains t.ctx.val then some (bytesAt x 136 2, bytesAt x 138 1, t) else none)
    (sortBy (fun a b => decide (a.1 < b.1 ∨ (a.1 = b.1 ∧ a.2.1 ≤ b.2.1))) recs).foldl (fun (r : Region) e =>
      let st := r.chan e.1 e.2.2.ctx.val
      r.setChan e.1 e.2.2.ctx.val { st with buf := st.buf ++ [e.2.2] }) r
  | _, _ => r

/-- Write an MT record, and with SCR its window, barriers and scratch, into the region: a BWAIT whose barrier has gone is refused, and one whose
condition a restored phase meets is answered (R283, R284). -/
def Region.loadMt (r : Region) (cs : List Nat) (key : Nat) (b : List Byte) (scr : Option (List Byte)) : Region :=
  let m := tgetD r.mts key Mt.new
  let m := { m with flags := Vector.ofFn (fun x => if cs.contains x.val then BitVec.ofNat 7 (bytesAt b (12 + x.val) 1) else m.flags.get x) }
  let m := match scr with
    | none => m
    | some bytes =>
      let bars := (List.range (min 64 (bytesAt b 8 1))).foldl (fun l k => insertNat (32 * bytesAt b (16 + 2 * k) 2) l) []
      (({ m with
        scratch := memWrite [] 0 bytes
        win := if bytesAt b 4 4 = 0 then none else some (bytesAt b 0 4, bytesAt b 4 4)
        barriers := bars }).refuseWaiters (fun o => !bars.contains o) 23).wakeAll
  { r with mts := tput r.mts key m }

/-! ### CTXSAVE and CTXRST of a region (R376 to R378) -/

/-- The save word keeps its zero fields (reason 32). -/
def saveWordOk (w : Word) : Bool := decide (wf w 62 32 = 0 ∧ wf w 11 9 = 0 ∧ wf w 7 0 = 0) && (wf w 63 63 == 0 || wf w 31 12 == 0)

/-- Contexts that a save word names. -/
def saveCtx (r : Region) (w : Word) : List Nat :=
  if wf w 15 12 = 0 then [0, 1, 2, 3].filter r.runs else [0, 1, 2, 3].filter (fun c => (wf w 15 12).testBit c)

/-- What an area whose pages do not stand comes to: the thread stays FROZEN while a walk is waited for; a failure ends the instruction, with
what it has done undone first. -/
def Pages.stop (k : Pages) (undo : State → State) : State :=
  match k with
  | .ok _ s => s
  | .wait l s => (s.onMe (fun th => { th with st := .frozen })).waitFor (.pages l)
  | .trap c va s => (undo s).trapSync c (lo64 va)
  | .bad _ s => (undo s).refuse 33

/-- The executing thread is FROZEN by its own CTX instruction no more. -/
def State.thawMe (s : State) : State := s.onMe (fun th => { th with st := .active })

/-- A CTX instruction on a region is over, or as if it had not begun: the thread goes on, and the ingress points of the contexts reopen unless a
swap holds them. -/
def State.ctxUndo (s : State) (key : Nat) (cs : List Nat) : State :=
  (s.onRegion key (fun r => { r.leave s.cur with
    busyWith := none
    closedPorts := if r.swap.isSome then r.closedPorts else r.closedPorts.filter (fun e => !cs.contains e.2) })).thawMe

/-- The instruction is complete. -/
def State.ctxDone (s : State) (key : Nat) (cs : List Nat) (d : Fin 32) (v : Nat) : State :=
  (s.ctxUndo key cs).onMe (fun th => (th.setX d (BitVec.ofNat 64 v)).advance)

/-- The bytes have left; once they are performed the instruction ends by a rule of its own. The value it returns is kept meanwhile. -/
def State.drainArea (s : State) (v : Nat) (fin : State → Nat → State) : State :=
  if s.busy (.area s.cur) then (s.onMe (fun th => { th with st := .frozen, reply := some v })).waitFor .drain else fin s v

/-- Whether the instruction in issue waits for its own writes. -/
def Thread.drains (th : Thread) : Bool :=
  match th.wait with
  | some ⟨.drain, _, _⟩ => true
  | _ => false

/-- Bytes moved: without SCR the scratch of every tile is not. -/
def Region.moved (r : Region) (len : Nat) (scr : Bool) : Nat := if scr then len else len - 524288 * r.mtCount

/-- Quiet but for tokens that wait behind the ingress points, which are moved (R209, R378). -/
def Region.quietInside (r : Region) (c : Nat) : Bool := ({ r with ingress := [] }).quiet c

/-- CTXSAVE once the contexts are quiet: every pending argument write is applied, and tokens behind the points move with the rest. -/
def State.saveRegion (s : State) (r : Region) (cs : List Nat) (scr : Bool) (d : Fin 32) (va : Addr) : State :=
  let len (ing : List (Nat × Token)) : Nat := r.ingOff + 144 * ing.length
  match s.myPages true 0 va (pageCount (len (s.takeWaiting r cs).1)) with
  | .ok pages s =>
    let r := r.applyPending (fun _ => true)
    let (ing, s) := (s.setRegion r.key r).takeWaiting r cs
    (s.writeChunks s.cur pages.reverse (s.regionArea r cs scr ing)).drainArea (r.moved (len ing) scr) (fun s v => s.ctxDone r.key cs d v)
  | k => k.stop (fun s => s.ctxUndo r.key cs)

/-- Poisoned data that a CTXRST reads (R378): the contexts are discarded, and POISON becomes pending. -/
def State.restorePoison (s : State) (r : Region) (cs : List Nat) (d : Fin 32) (va : Addr) (pages : List AreaPage) (off : Nat) : State :=
  let s := (s.countUncorr r.part (areaPa pages off)).discard r cs false none
  (s.2.ctxDone r.key [] d 0).raise s.2.cur 0x13 (lo64 (va + BitVec.ofNat 80 off))

/-- CTXRST of a region whose header and pages stand. -/
def State.restoreRegion (s : State) (r : Region) (cs : List Nat) (scr : Bool) (d : Fin 32) (va : Addr) (pages : List AreaPage) (ning : Nat) : State :=
  let len := r.ingOff + 144 * ning
  let ranges := if scr then [(0, len)] else [(0, r.scrOff), (r.ingOff, 144 * ning)]
  match s.poisonIn pages ranges with
  | some off => s.restorePoison r cs d va pages off
  | none =>
    let r := r.ceKeys.zipIdx.foldl (fun (r : Region) (e : Nat × Nat) => r.loadCe cs e.1 (s.readArea pages (131072 + 16384 * e.2) 16384)) r
    let r := r.mtKeys.zipIdx.foldl (fun (r : Region) (e : Nat × Nat) =>
      r.loadMt cs e.1 (s.readArea pages (256 + 256 * e.2) 256) (if scr then some (s.readArea pages (r.scrOff + 524288 * e.2) 524288) else none)) r
    let ing := (List.range ning).filterMap (fun n =>
      let b := s.readArea pages (r.ingOff + 144 * n) 144
      let t := readToken b
      if recordUsed b && cs.contains t.ctx.val && decide (bytesAt b 136 2 < ((r.image.map (fun i => i.ports.length)).getD 0)) then some (bytesAt b 136 2, t) else none)
    (s.setRegion r.key { r with ingress := r.ingress ++ ing }).ctxDone r.key [] d (r.moved len scr)

/-- CTXRST of a region, the pages of its fixed part found: poison before what the header says. -/
def State.restoreHead (s : State) (r : Region) (cs : List Nat) (scr : Bool) (d : Fin 32) (va : Addr) (pages : List AreaPage) : State :=
  let undo (s : State) : State := s.ctxUndo r.key []
  let head := s.readArea pages 0 256
  let ning := bytesAt head 20 4
  match s.poisonIn pages [(0, 256)] with
  | some off => s.restorePoison r cs d va pages off
  | none =>
    if bytesAt head 6 1 ≠ r.w ∨ bytesAt head 7 1 ≠ r.h ∨ r.image.map (fun i => i.pkey.toNat) ≠ some (bytesAt head 8 8) then (undo s).refuse 34
    else if bytesAt head 0 4 ≠ 0x31435853 ∨ bytesAt head 4 2 ≠ 1 ∨ bytesAt head 24 8 ≠ r.ingOff + 144 * ning then (undo s).refuse 36
    else match s.areaPages s.cur false 0 va (pageCount (r.ingOff + 144 * ning) - pages.length) pages.reverse with
      | .ok l s => s.restoreRegion r cs scr d va l.reverse ning
      | k => k.stop undo

/-- The region part of CTXSAVE and CTXRST: checks in the order 32, 2, 3, 33, 34, 36, after privilege (R377). The instruction takes its turn among
those of the region (R191). -/
def State.ctxRegion (s : State) (save : Bool) (d : Fin 32) (w : Word) (va : Addr) : State :=
  let scr := wf w 8 8 == 1
  match s.fabricRegion true (BitVec.ofNat 64 (wf w 31 16)) with
  | .error e => s.thawMe.refuse e
  | .ok r =>
    let cs := saveCtx r w
    if r.busyWith = some s.cur then
      if s.me.drains then s.drainArea (s.me.reply.getD 0) (fun s v => s.ctxDone r.key cs d v)
      else if cs.all r.quietInside then s.saveRegion r cs scr d va else s.waitFor .region
    else if !r.turnOf s.cur then ((s.setRegion r.key (r.join s.cur)).onMe (fun th => { th with st := .frozen })).waitFor .region
    else
      let r := r.join s.cur
      let s := s.setRegion r.key r
      let refuse (n : Nat) (s : State) : State := (s.ctxUndo r.key []).refuse n
      if va.toNat % 0x4000 ≠ 0 then refuse 33 s
      else match s.myPages save 0 va (pageCount r.ingOff) with
        | .ok pages s =>
          if cs.isEmpty || !cs.all r.runs || r.frozen then refuse 34 s
          else if save then
            let r := { r.leave s.cur with closedPorts := r.closedPorts ++ r.inPorts.flatMap (fun p => cs.map (fun c => (p, c))), busyWith := some s.cur }
            let s := (s.setRegion r.key r).onMe (fun th => { th with st := .frozen })
            if cs.all r.quietInside then s.saveRegion r cs scr d va else s.waitFor .region
          else if !cs.all (s.idleCtx r) then refuse 34 s
          else s.restoreHead r cs scr d va pages.reverse
        | k => k.stop (fun s => s.ctxUndo r.key [])

end Sys2Proof.Machine
end

