-- ==== Sys2Proof/Machine/Swap.lean ====
section
/-!
DEFINITION. Swaps of a region's configuration (R208 to R211): CFGSWAP plain and forced, the trigger's swap, what becomes of bindings, and how a
wait in a FABRIC instruction ends without effect (R191).
-/
namespace Sys2Proof.Machine

/-! ### Activation (R208, R210) -/

/-- A queue after a swap. -/
def Queue.rebind (q : Queue) (r : Region) : Queue :=
  match r.image.bind (fun i => i.ports[q.port]?) with
  | some p => if p.out == q.out && !(q.out && r.bqwFed q.port) then { q with etype := p.etype, closed := false } else { q with closed := true }
  | none => { q with closed := true }

def Bq.rebind (b : Bq) (r : Region) : Bq :=
  { b with closed := !((r.image.bind (fun i => i.ports[b.port]?)).any (fun p => p.out) && r.bqwFed b.port) }

/-- A stream follows the same rule; its ETYPE is its shape's. -/
def SSlot.rebind (x : SSlot) (r : Region) : SSlot :=
  let ok (p : Nat) (out : Bool) : Bool := (r.image.bind (fun i => i.ports[p]?)).any (fun q => q.out == out) && !(out && r.bqwFed p)
  match x with
  | .stream y => .stream { y with closed := !ok y.port y.store }
  | .chain c => .chain { c with closed := c.sport != 0xFF && !ok c.sport true }

/-- Every binding to the region refers to the ports of its new image. -/
def State.rebind (s : State) (r : Region) : State :=
  let h := BitVec.ofNat 16 r.handle
  (s.threadsOn r.part r.die).foldl (fun (s : State) t => s.onThread t (fun th => { th with
    qs := th.qs.map (fun (e : Nat × Queue) => if e.2.region == h then (e.1, e.2.rebind r) else e)
    bq := th.bq.map (fun b => if b.region == h then b.rebind r else b)
    ss := th.ss.map (fun (e : Nat × SSlot) => (e.1, match e.2 with
      | .stream y => if y.region == h then SSlot.rebind (.stream y) r else .stream y
      | .chain c => if c.region == h then SSlot.rebind (.chain c) r else .chain c)) })) s

/-- Steps 4 and 5 of a swap: every pending argument write is applied, the slot becomes active with its counts at zero, and the ingress points
reopen; a port that a trigger has closed meanwhile stays closed behind its last token. -/
def Region.activate (r : Region) (slot : Nat) : Region :=
  let r := r.applyPending (fun _ => true)
  { r with
    active := some ⟨slot % 4, Nat.mod_lt _ (by decide)⟩
    cur := 0
    named := none
    chans := []
    ces := r.ces.map (fun (e : Nat × Ce) => (e.1, { e.2 with passed := [], rc := [], started := [] }))
    midway := []
    swap := none
    closedPorts := match r.trigger with
      | some g => if g.fired then [0, 1, 2, 3].map (fun c => (g.port, c)) else []
      | none => [] }

/-- A swap ends: its thread, if it waits in a CFGSWAP, is answered; a trigger's owner gets its event bit (R211). -/
def State.endSwap (s : State) (r : Region) (w : Swap) : State :=
  let r := r.activate w.slot
  let s := (s.setRegion r.key r).rebind r
  if w.trig then s.setEv w.t else s.onThread w.t (fun th => { th with reply := some 1 })

/-! ### The forced form (R209) -/

/-- Contexts the active slot runs. -/
def Region.runCtx (r : Region) : List Nat := [0, 1, 2, 3].filter r.runs

/-- Points that stand at a marker close at once; the others close behind their next marker. -/
def Region.closeAtMarkers (r : Region) : Region :=
  { r with closedPorts := r.closedPorts ++
      r.inPorts.flatMap (fun p => (r.runCtx.filter (fun c => !r.midway.contains (p, c) && !r.closedPorts.contains (p, c))).map (fun c => (p, c))) }

def Region.allClosed (r : Region) : Bool := r.inPorts.all (fun p => r.runCtx.all (fun c => r.closedPorts.contains (p, c)))

/-- A save fault ends the swap with the points closed, and the thread traps as for a stream fault of engine 11 (R378). -/
def State.saveFault (s : State) (r : Region) (w : Swap) (kind : Nat) : State :=
  let s := s.setRegion r.key { r with swap := none, busyWith := none }
  s.engineFault w.t 0 kind 3

/-- Step 2: once every page of the save area has been found, tokens behind the closed points go there; then the swap proceeds. -/
def State.forcedStep (s : State) (r : Region) (w : Swap) (va : Addr) : State :=
  let n := pageCount (r.ingOff + 144 * (s.takeWaiting r r.runCtx).1.length)
  match s.areaPages w.t true 0 va (n - w.pages.length) w.pages with
  | .ok l s =>
    let r := r.applyPending (fun _ => true)
    let (ing, s) := (s.setRegion r.key r).takeWaiting r r.runCtx
    let s := s.writeChunks w.t l.reverse (s.regionArea r r.runCtx false ing)
    match s.region r.key with
    | some r => s.endSwap r w
    | none => s
  | .wait l s => s.setRegion r.key { r with swap := some { w with pages := l } }
  | .trap c _ s => s.saveFault r w (if c = 0x0A then 5 else transKind c)
  | .bad _ s => s.saveFault r w 2

/-! ### CFGSWAP (R208, R209) -/

/-- CFGSWAP by its swap word and its save area. A forced one is over once what it has saved is performed. A swap word whose FORCE does not fit the
rc field is judged as a field out of range, reason 1, not as an encoding (DESIGN CHOICE, log 42). -/
def State.cfgswap (s : State) (h r : Fin 32) (a : Fin 16) : Out :=
  let w := s.me.getX r
  let force := wf w 8 8 == 1
  let slot : Fin 4 := ⟨w.toNat % 4, Nat.mod_lt _ (by decide)⟩
  let ok := decide (wf w 63 9 = 0 ∧ wf w 7 2 = 0) && (force || a == 0)
  s.fabric ok (s.me.getX h) (fun _ => true) (fun rg => [((rg.slots.get slot).isNone, 4), (rg.frozen, 7)]) .region (fun rg s =>
    match rg.swap with
    | some _ => .next (s.fabricHold rg)
    | none =>
      if s.me.reply.isSome then if s.busy (.area s.cur) then .next (s.fabricHold rg) else .next (s.fabricDone rg id)
      else if rg.trigger.any Trigger.fired then .next (s.fabricHold rg.fireTrigger)
      else if force then .next (s.fabricHold { rg.closeAtMarkers with swap := some ⟨s.cur, false, slot.val, some (s.me.getA a), [], none⟩ })
      else .next (s.fabricHold { rg.closeAll with trigger := none, swap := some ⟨s.cur, false, slot.val, none, [], rg.trigger⟩ }))

/-- CFGSWAP (R208). -/
def execCfgswap (h r : Fin 32) (st : State) : Out := st.cfgswap h r 0

/-- CFGSWAP with FORCE (R209). -/
def execCfgswapForce (h r : Fin 32) (a : Fin 16) (st : State) : Out := st.cfgswap h r a

/-- SWAP_ACTIVATE (R208, R209): a swap whose region has become quiet. -/
def execSwapActivate (rgn : Nat) (st : State) : Out :=
  match st.region rgn with
  | none => .next st
  | some r =>
    match r.swap with
    | none => .next st
    | some w =>
      if r.frozen then .next st
      else match w.forced with
        | none => if r.allQuiet then .next (st.endSwap r w) else .next st
        | some va => if r.allClosed && [0, 1, 2, 3].all r.quietInside then .next (st.forcedStep r w va) else .next st

/-- TRIGGER_FIRE (R211). -/
def execTriggerFire (rgn : Nat) (st : State) : Out := .next (st.onRegion rgn Region.fireTrigger)

/-! ### Interrupted waits (R191, R208) -/

/-- A FABRIC instruction of a thread may still end without effect: neither a forced swap that has begun nor one that has been made. -/
def State.fabricInterruptible (s : State) (t : Nat) : Bool :=
  !s.regions.any (fun e => e.2.busyWith == some t && e.2.swap.any (fun w => !w.trig && w.t == t && w.forced.isSome)) && (s.thread t).reply.isNone

/-- The wait of a thread in a FABRIC instruction ends: the points its swap has closed reopen, and the trigger it has cancelled stands again; its
DRAIN WAIT and its place in line are forgotten. -/
def State.cancelFabric (s : State) (t : Nat) : State :=
  { s with regions := s.regions.map (fun (e : Nat × Region) =>
      let r := e.2.leave t
      if r.busyWith != some t then (e.1, r)
      else
        match r.swap.filter (fun w => !w.trig && w.t == t) with
        | some w => (e.1, { r with busyWith := none, waiters := r.waiters.filter (fun w => w.1 != t), swap := none, closedPorts := [], trigger := w.armed })
        | none => (e.1, { r with busyWith := none, waiters := r.waiters.filter (fun w => w.1 != t) })) }

end Sys2Proof.Machine
end

