-- ==== Sys2Proof/Machine/Sync.lean ====
section
/-!
DEFINITION. The SYNC instructions of access threads (R279 to R285): requests to memory tiles and their answers.
-/
namespace Sys2Proof.Machine

/-- A scratch name: reasons 16 and 22, or its region, tile and offset (R265, R280). -/
def State.scratchName (s : State) (name : Word) (align : Nat) (fieldsOk : Bool) : Except Nat (Region × Nat × Nat) :=
  let off := wf name 18 0
  if !fieldsOk || wf name 63 48 != 0 || wf name 22 19 != 0 then .error 16
  else match s.myRegion (wf name 47 32) with
    | none => .error 22
    | some r =>
      if r.die ≠ dieOf s.cur ∨ !r.hasTile (wf name 31 27) (wf name 26 23) ∨ off % align ≠ 0 then .error 22
      else .ok (r, mtKey (wf name 31 27) (wf name 26 23), off)

/-- A request leaves for a tile, and the thread waits for its answer; the way back is as long (R271). -/
def State.sendSync (s : State) (r : Region) (mt off : Nat) (w : MtWork) : State :=
  let hops := linkCount (coreNode (coreOf s.cur)) (r.mtNode (mt % 32) (mt / 32))
  let q : MtReq := ⟨w, off, 0, 0, 0, 0, 0, hops, [], Token.empty, 0, hops, false⟩
  let m := tgetD r.mts mt Mt.new
  (s.setRegion r.key { r with mts := tput r.mts mt { m with arriving := m.arriving ++ [q] } }).waitFor .region

/-- An answer that has come back: a refusal traps with its reason (R280). -/
def State.syncAnswer (s : State) (v : Nat) (done : Word → State) : State :=
  if 2 ^ 64 ≤ v then s.refuse (v - 2 ^ 64) else done (BitVec.ofNat 64 v)

/-- The request of the thread's instruction is under way. -/
def Thread.syncSent (th : Thread) : Bool := th.wait.any (fun w => w.kind == .region)

/-- A SYNC instruction: answered, under way, or checked and sent. -/
def State.syncOp (s : State) (done : Word → State) (start : State) : Out :=
  match s.me.reply with
  | some v => .next (s.syncAnswer v done)
  | none => if s.me.syncSent then .next s else .next start

/-! ### BINIT (R281) -/

/-- BINIT by its init word. -/
def State.binit (s : State) (n v : Fin 32) : Out :=
  let w := s.me.getX v
  let window := wf w 63 63 == 1
  let len := wf w 19 0
  let expect := wf w 31 0
  s.syncOp (fun _ => s.onMe Thread.advance)
    (match s.scratchName (s.me.getX n) (if window then 128 else 32) (wf w 62 32 == 0 && (!window || wf w 31 20 == 0)) with
    | .error e => s.refuse e
    | .ok (r, mt, off) =>
      if window then
        if len % 128 ≠ 0 ∨ scratchSize < off + len then s.refuse 23 else s.sendSync r mt off (.window s.cur off len)
      else if expect = 0 ∨ 2 ^ 31 < expect then s.refuse 23
      else s.sendSync r mt off (.barrier s.cur off expect))

/-- BINIT of an owned window (R281). -/
def execBinitWindow (n v : Fin 32) (st : State) : Out := st.binit n v

/-- BINIT of a barrier (R281). -/
def execBinitBarrier (n v : Fin 32) (st : State) : Out := st.binit n v

/-! ### ARRIVE and BWAIT (R282, R283, R285) -/

/-- Every token the thread has closed stands in its channel's buffer, those of queues since released too (R282, R343). -/
def State.pushesEntered (s : State) (t : Nat) : Bool :=
  (s.thread t).qs.all (fun e => e.2.out || (e.2.toks.all (fun x => x.2.2) && !(s.feeds t e.2).any (fun e => e.2))) && !(s.thread t).left.any s.onWay

/-- ARRIVE with or without the release of .R. -/
def State.arrive (s : State) (d n p : Fin 32) (rel : Bool) : Out :=
  let q := s.me.getX p
  s.syncOp (fun v => s.onMe (fun th => (th.setX d v).advance))
    (match s.scratchName (s.me.getX n) 32 (wf q 63 32 == 0) with
    | .error e => s.refuse e
    | .ok (r, mt, off) =>
      if rel && !(s.pushesEntered s.cur && s.earlierDone s.cur s.nextId) then s.waitFor .memory
      else s.sendSync r mt off (.arrive s.cur rel (wf q 31 0)))

/-- ARRIVE (R282). -/
def execArrive (d n p : Fin 32) (st : State) : Out := st.arrive d n p false

/-- ARRIVE.R (R282, R285). -/
def execArriveR (d n p : Fin 32) (st : State) : Out := st.arrive d n p true

/-- BWAIT (R283): its return acquires (R285). -/
def execBwait (d n p : Fin 32) (st : State) : Out :=
  let q := st.me.getX p
  st.syncOp (fun v => (st.onMe (fun th => (th.setX d v).advance)).acquire st.cur)
    (match st.scratchName (st.me.getX n) 32 (wf q 63 32 == 0) with
    | .error e => st.refuse e
    | .ok (r, mt, off) => st.sendSync r mt off (.bwait st.cur (wf q 31 0)))

/-! ### Interrupted waits -/

def MtWork.isWait : MtWork → Bool
  | .bwait _ _ => true
  | _ => false

/-- The request of a thread's BWAIT is taken back, its answer too if that is on its way (R283). -/
def State.cancelBwait (s : State) (t : Nat) : State :=
  let keep (q : MtReq) : Bool := !(q.work.isWait && q.work.thread? == some t)
  let drop (m : Mt) : Mt :=
    { m with arriving := m.arriving.filter keep, queue := m.queue.filter keep, waiting := m.waiting.filter keep, respond := m.respond.filter keep }
  { s with regions := s.regions.map (fun (e : Nat × Region) => (e.1, { e.2 with mts := e.2.mts.map (fun (m : Nat × Mt) => (m.1, drop m.2)) })) }

/-- A request of a thread other than a BWAIT is at a tile or on its way: its answer comes before any trap. -/
def State.syncBusy (s : State) (t : Nat) : Bool :=
  s.regions.any (fun e => e.2.mts.any (fun m => (m.2.arriving ++ m.2.queue ++ m.2.respond).any (fun q => q.work.thread? == some t && !q.work.isWait)))

end Sys2Proof.Machine
end

