-- ==== Sys2Proof/Machine/Tier.lean ====
section
/-!
DEFINITION. The capacity tier (R303 to R317): pools in the order of R49, bulk copies with deadlines and budgets, and completion tokens.
-/
namespace Sys2Proof.Machine

/-! ### Slot words and completion targets (R305, R310) -/

/-- A slot word: its slot with RESUME and ABANDON, or nothing where reason 16 holds. -/
def tierWord (w : Word) (tier : Bool) : Option (Nat × Bool × Bool) :=
  let res := wf w 8 8 == 1
  let ab := wf w 9 9 == 1
  if wf w 63 10 ≠ 0 ∨ wf w 7 3 ≠ 0 ∨ (res ∧ ab) ∨ ((res ∨ ab) ∧ !tier) then none else some (wf w 2 0, res, ab)

def isEngine : Binding → Bool
  | .pool _ _ | .copy _ _ => true
  | _ => false

/-- Reasons 18 to 20 for a completion triple: engines may share one. -/
def State.tokenTarget (s : State) (h port ctx : Nat) : Option Nat :=
  match s.myRegion h with
  | none => some 18
  | some r =>
    if ((r.image.map (fun i => i.ports.length)).getD 0) ≤ port ∨ !r.runs ctx ∨ r.port port ≠ ⟨false, .i64⟩ then some 18
    else if (s.bindings r).any (fun e => e.1 == port && e.2.1 == ctx && !isEngine e.2.2) then some 19
    else if r.die ≠ dieOf s.cur then some 20
    else none

/-- A key for an engine whose slot is free but whose token is still due. -/
def parkKey {β : Type} (t : Tbl β) : Nat := ((List.range (t.length + 1)).map (fun n => n + 8)).find? (fun k => (tget t k).isNone) |>.getD 8

/-! ### Pools (R307 to R312) -/

def Pool.ptr (p : Pool) (off : Nat) : Addr := BitVec.ofNat 80 (bytesAt p.desc off 10)
def Pool.nrows (p : Pool) : Nat := bytesAt p.desc 80 8
def Pool.nbags (p : Pool) : Nat := bytesAt p.desc 88 4
def Pool.rowlen (p : Pool) : Nat := bytesAt p.desc 92 2
def Pool.etype (p : Pool) : EType := EType.ofCode (bytesAt p.desc 94 1)
def Pool.ctl (p : Pool) (b : Nat) : Bool := (bytesAt p.desc 95 1).testBit b
def Pool.stride (p : Pool) : Nat := bytesAt p.desc 96 4
def Pool.token (p : Pool) : Bool := p.ctl 2
def Pool.idxSize (p : Pool) : Nat := if p.ctl 3 then 8 else 4

/-- The pool status word. -/
def Pool.status (p : Pool) : Nat :=
  p.bag % 2 ^ 16 * 2 ^ 48 + p.oor * 2 ^ 32 + p.flags.toNat * 2 ^ 16 + (if p.state = .fault then p.fkind else 0) * 2 ^ 8 + p.state.code

/-- Fields marked zero outright (reason 16), and the rules of the descriptor (reason 21). -/
def poolZeros (d : List Byte) : Bool := bytesAt d 108 20 == 0 && bf (bytesAt d 95 1) 7 6 == 0
def poolRules (p : Pool) : Bool :=
  let es := etypeBytes p.etype
  let code := bytesAt p.desc 94 1
  decide (9 ≤ code ∧ code ≤ 11) && decide (bytesAt p.desc 16 10 % 4 = 0) && decide (bytesAt p.desc 32 10 % p.idxSize = 0) && decide (bytesAt p.desc 64 10 % 16 = 0) &&
  (p.ctl 0 || bytesAt p.desc 48 16 == 0) && decide (1 ≤ p.nrows ∧ p.nrows ≤ 2 ^ 40) && decide (1 ≤ p.nbags ∧ p.nbags ≤ 65535) &&
  decide (1 ≤ p.rowlen ∧ p.rowlen ≤ 16384 / es) && decide (p.stride % 16 = 0) && decide (bytesAt p.desc 100 1 ≤ 15) &&
  (p.ctl 1 || bytesAt p.desc 100 1 == 0) && (p.token || (bytesAt p.desc 101 1 == 0 && bytesAt p.desc 102 2 == 0))

def State.setPool (s : State) (t k : Nat) (p : Pool) : State := s.onThread t (fun th => { th with pools := tput th.pools k p })

/-- A pool ends: its token falls due in completion order. -/
def State.endPool (s : State) (t k : Nat) (p : Pool) (st : SlotState) : State :=
  { ((s.setPool t k { p with state := st, tokenDue := p.token, after := s.nextId }).forgetWalks (.pool t k)).leavesRun t p.state with nextId := s.nextId + 1 }

/-- A pool stops at a fault: of its bag nothing stays (R311). -/
def State.poolFault (s : State) (t k : Nat) (p : Pool) (kind : Nat) : State :=
  ((s.setPool t k { p with state := .fault, fkind := kind, since := none, bagNow := none, writing := none }).forgetWalks (.pool t k)).engineFault t k kind 1

/-- The engine that reads for a pool; rows alone are bounded. -/
def Pool.reader (p : Pool) (t k : Nat) (row : Bool) : Engine :=
  ⟨.pool t k, (dieOf t).val * 96, t, p.mode, if row && p.ctl 1 then some (bytesAt p.desc 100 1) else none, p.dclk, p.since⟩

/-- The translation of a read or write of an engine, its home alive (R146). -/
def State.lineType (s : State) (e : Engine) (va : Addr) (write : Bool) : EWrite :=
  let p := s.partOf e.t
  match (if write then s.xlateRimW e.who e.t e.rim p e.mode va 8 else s.xlateRim e.who e.rim p e.mode va .load 8) with
  | .error c s => .fault (transKind c) s
  | .wait s => .wait s
  | .ok pa l s => if s.homeLost pa then .fault 5 s else .ok pa l s

/-- A vector of results with the flags raised. -/
abbrev PVec := List Nat × FlagSet

def addVec (a b : PVec) : PVec :=
  let rs := (a.1.zip b.1).map (fun (x, y) => Fmt.fp32.add .rne Rsh.zero x y)
  (rs.map Res.bits, rs.foldl (fun fl r => fl ||| r.flags) (a.2 ||| b.2))

/-- Running sum in order, starting from the first; nothing for no terms. -/
def sumVecs : List PVec → Option PVec
  | [] => none
  | a :: r => some (r.foldl addVec a)

/-- What one read of a bag comes to. -/
inductive BagRead where
  | next (b : Bag) (s : State)
  | fault (kind : Nat) (s : State)
  | wait (s : State)
  | stall (s : State)

/-- A value read for a bag, or why there is none. -/
def ERead.bag (r : ERead) (f : Nat → State → BagRead) : BagRead :=
  match r with
  | .ok v s => f v s
  | .fault k _ s => .fault k s
  | .wait s => .wait s
  | .stall s => .stall s

def Pool.rowBytes (p : Pool) : Nat := p.rowlen * etypeBytes p.etype
def Pool.rowAt (p : Pool) (r : Nat) : Addr := p.ptr 0 + BitVec.ofNat 80 (r * p.stride)

/-- The index at a bag's position: out of range it is skipped and counted, else its row stands in one granule (R308). -/
def State.bagIndex (s : State) (t k : Nat) (p : Pool) (b : Bag) : BagRead :=
  (s.engineRead (p.reader t k false) (p.ptr 32 + BitVec.ofNat 80 (p.idxSize * b.pos)) p.idxSize).bag (fun r s =>
    let va := p.rowAt r
    if p.nrows ≤ r then .next { b with pos := b.pos + 1, oor := b.oor + 1 } s
    else if 16384 < va.toNat % 16384 + p.rowBytes ∨ va.toNat % etypeBytes p.etype ≠ 0 then .fault 3 s
    else .next { b with row := some r, bytes := [] } s)

/-- A row that has been read is widened to FP32 and weighted: a term (R49). -/
def Pool.term (p : Pool) (bs : List Byte) (w : Nat) : PVec :=
  let es := etypeBytes p.etype
  let rs := (List.range p.rowlen).map (fun i =>
    Fmt.fp32.sum .rne Rsh.zero [mulTerm (Fmt.fp32.decode w) (decodeElem p.etype (bytesAt bs (i * es) es)).toVal])
  (rs.map Res.bits, rs.foldl (fun fl r => fl ||| r.flags) 0)

/-- One more row read at a dray as a term (R429). -/
def State.countRow (s : State) (n : Nat) : State := s.onDray n (fun d => { d with pooled := d.pooled + 1 })

/-- The next read of a bag: an index, a line of its row in capacity memory (R307), or the row's weight, with which the position is over. -/
def State.bagStep (s : State) (t k : Nat) (p : Pool) (b : Bag) : BagRead :=
  match b.row with
  | none => s.bagIndex t k p b
  | some r =>
    let n := b.bytes.length
    if n < p.rowBytes then
      let va := p.rowAt r + BitVec.ofNat 80 n
      let m := min (p.rowBytes - n) (128 - va.toNat % 128)
      match s.lineType (p.reader t k true) va false with
      | .fault c s => .fault c s
      | .wait s => .wait s
      | .ok pa l s =>
        if l.mt ≠ 1 then .fault 2 s
        else (s.engineRead (p.reader t k true) va m).bag (fun v s =>
          let b : Bag := { b with bytes := b.bytes ++ leBytes v m, dray := drayOf pa }
          .next b (if p.rowBytes ≤ b.bytes.length then s.countRow b.dray else s))
    else
      let w := if p.ctl 0 then s.engineRead (p.reader t k false) (p.ptr 48 + BitVec.ofNat 80 (4 * b.pos)) 4 else .ok 0x3F800000 s
      w.bag (fun w s =>
        let v := p.term b.bytes w
        .next { b with row := none, bytes := [], pos := b.pos + 1, terms := b.terms ++ [(b.dray, v.1, v.2)] } s)

/-- R49: within a dray in index order, drays of a die ascending, dies ascending. -/
def poolSum (rowlen : Nat) (terms : List (Nat × PVec)) : PVec :=
  let dray (n : Nat) : Option PVec := sumVecs ((terms.filter (fun e => e.1 == n)).map (·.2))
  let die (d : Nat) : Option PVec := sumVecs ((List.range 8).filterMap (fun i => dray (8 * d + i)))
  (sumVecs ((List.range 4).filterMap die)).getD (List.replicate rowlen 0, 0)

/-- Coupler sides 0 N, 1 E, 2 S, 3 W; the side by which the chain 0 → 1 → 2 → 3 leaves a die and enters one (R9, R387). -/
def chainOut (d : Nat) : Nat := d + 1
def chainIn (d : Nat) : Nat := if d = 1 then 3 else if d = 2 then 0 else 1
def couplerKey (die side : Nat) : Nat := die * 4 + side

/-- Counting of a bag: partials that cross couplers and the additions made there (R309, R396). -/
def State.countBag (s : State) (rowlen : Nat) (drays : List Nat) : State :=
  let dies := (List.range 4).filter (fun d => drays.any (fun n => n / 8 == d))
  let beats := (rowlen + 15) / 16
  let hop (s : State) (d : Nat) : State :=
    (s.onCoupler (couplerKey d (chainOut d)) (fun c => { c with sent := c.sent + beats })).onCoupler (couplerKey (d + 1) (chainIn (d + 1)))
      (fun c => { c with received := c.received + beats })
  (dies.zip dies.tail).foldl (fun (s : State) e =>
    ((List.range (e.2 - e.1)).foldl (fun (s : State) i => hop s (e.1 + i)) s).onCoupler (couplerKey e.2 (chainIn e.2)) (fun c => { c with adds := c.adds + rowlen })) s

/-- Where a result's lines go: every line is translated before any is written. -/
inductive Lines where
  | ok (l : List (Nat × TlbEntry × List Byte)) (s : State)
  | fault (kind : Nat) (s : State)
  | wait (s : State)

def State.resultLines (s : State) (e : Engine) : Nat → Addr → List Byte → List (Nat × TlbEntry × List Byte) → Lines
  | 0, _, _, acc => .ok acc s
  | f + 1, va, bs, acc =>
    if bs.isEmpty then .ok acc s
    else
      let k := 128 - va.toNat % 128
      match s.lineType e va true with
      | .fault c s => .fault c s
      | .wait s => .wait s
      | .ok pa l s => if 2 < l.mt then .fault 2 s else s.resultLines e f (va + BitVec.ofNat 80 k) (bs.drop k) (acc ++ [(pa, l, bs.take k)])

/-- Every line of a bag's result has been performed: the bag counts (R308, R318). -/
def State.bagWritten (s : State) (t k : Nat) (p : Pool) (w : Nat × FlagSet) : State :=
  let q : Pool := { p with bag := p.bag + 1, oor := min 0xFFFF (p.oor + w.1), flags := p.flags ||| w.2, writing := none }
  if q.nbags ≤ q.bag then s.endPool t k q .done else s.setPool t k q

/-- A bag whose terms are all made: its vector leaves for memory whole. -/
def State.bagDone (s : State) (t k : Nat) (p : Pool) (b : Bag) : State :=
  let v := poolSum p.rowlen (b.terms.map (fun e => (e.1, e.2)))
  let out := p.ptr 64 + BitVec.ofNat 80 (4 * p.rowlen * p.bag)
  match s.resultLines (p.reader t k false) (p.rowlen + 1) out (v.1.flatMap (fun x => leBytes x 4)) [] with
  | .fault c s => s.poolFault t k p c
  | .wait s => s.setPool t k { p with bagNow := some b }
  | .ok ls s =>
    let part := s.partOf t
    let s := (ls.foldl (fun (s : State) l => s.engineStore (.pool t k) part 0 l.1 l.2.1 (offsetsFrom (l.1 % 128) l.2.2)) s).countBag p.rowlen (b.terms.map (·.1))
    let p : Pool := { p with bagNow := none }
    if s.busy (.pool t k) then s.setPool t k { p with writing := some (b.oor, v.2) } else s.bagWritten t k p (b.oor, v.2)

/-- Reads of a bag one after the other, as long as none waits. -/
def State.bagLoop (s : State) (t k : Nat) (p : Pool) : Nat → Bag → State
  | 0, b => s.setPool t k { p with bagNow := some b }
  | n + 1, b =>
    if b.last ≤ b.pos then s.bagDone t k p b
    else match s.bagStep t k p b with
      | .next b s => s.bagLoop t k { p with since := none } n b
      | .fault c s => s.poolFault t k p c
      | .wait s => s.setPool t k { p with bagNow := some b }
      | .stall s => s.setPool t k { p with bagNow := some b, since := some (p.since.getD (s.gtimeOf t)) }

/-- Reads that a bag can need: for each position an index, a weight, and the lines of a row. -/
def Bag.reads (b : Bag) : Nat := (b.last - b.pos) * 132 + 1

/-- One bag, from its offsets on (R308, R311). -/
def State.poolBag (s : State) (t k : Nat) (p : Pool) : State :=
  let e := p.reader t k false
  let off (b : Nat) : Addr := p.ptr 16 + BitVec.ofNat 80 (4 * b)
  match s.engineRead e (off p.bag) 4 with
  | .fault c _ s => s.poolFault t k p c
  | .wait s | .stall s => s
  | .ok o0 s =>
    match s.engineRead e (off (p.bag + 1)) 4 with
    | .fault c _ s => s.poolFault t k p c
    | .wait s | .stall s => s
    | .ok o1 s =>
      if o1 < o0 then s.poolFault t k p 8
      else
        let b : Bag := ⟨o0, o1, o0, none, [], 0, [], 0⟩
        s.bagLoop t k p b.reads b

/-- POOL_BAG (R308): the next bag of a running pool whose thread's earlier accesses are performed; one that waited goes on. -/
def execPoolBag (t slot : Nat) (st : State) : Out :=
  match tget (st.thread t).pools slot with
  | none => .next st
  | some p =>
    if p.state ≠ .run ∨ ¬ st.earlierDone t p.after then .next st
    else match p.writing, p.bagNow with
      | some w, _ => if st.busy (.pool t slot) then .next st else .next (st.bagWritten t slot p w)
      | none, some b => .next (st.bagLoop t slot p b.reads b)
      | none, none => .next (st.poolBag t slot p)

/-- The region a completion triple names, by the number of its making. -/
def State.tokenRegion (s : State) (triple : Option (Nat × Nat × Nat)) : Nat := ((triple.bind (fun x => s.myRegion x.1)).map (fun r => r.uid)).getD 0

/-- POOL by its slot word (R308, R311). -/
def State.poolOp (s : State) (r : Fin 32) (a : Fin 16) : Out :=
  match tierWord (s.me.getX r) true with
  | none => .next (s.refuse 16)
  | some (k, res, ab) =>
    let t := s.cur
    match tget s.me.pools k with
    | some p =>
      if ab && p.state == .fault then .next ((s.endPool t k p .aborted).onMe Thread.advance)
      else if res && p.state == .fault && decide (1 ≤ p.fkind ∧ p.fkind ≤ 6) then
        .next ((s.setPool t k { p with state := .run, fkind := 0 }).onMe Thread.advance)
      else .next (s.refuse 17)
    | none =>
      if res || ab then .next (s.refuse 17)
      else
        let va := s.me.getA a
        if va.toNat % 16 ≠ 0 then .next (s.refuse 21)
        else match s.readDesc va 16 [] with
          | .stop s => .next s
          | .bytes d s =>
            let p : Pool := ⟨.run, d, 0, 0, 0, 0, s.me.gen, s.me.cur, false, s.nextId, none, s.me.dclk.toList, none, none, 0⟩
            let p : Pool := { p with rgn := s.tokenRegion p.triple }
            if !poolZeros d then .next (s.refuse 16)
            else match (match p.triple with | some (h, port, c) => s.tokenTarget h port c | none => none) with
              | some e => .next (s.refuse e)
              | none =>
                if !poolRules p then .next (s.refuse 21)
                else .next ({ s.setPool t k p with nextId := s.nextId + 1 }.onMe Thread.advance)

/-- POOL (R308). -/
def execPool (r : Fin 32) (a : Fin 16) (st : State) : Out := st.poolOp r a

/-- POOL with RESUME (R311). -/
def execPoolResume (r : Fin 32) (a : Fin 16) (st : State) : Out := st.poolOp r a

/-- POOL with ABANDON (R311). -/
def execPoolAbandon (r : Fin 32) (a : Fin 16) (st : State) : Out := st.poolOp r a

/-- PWAIT (R312): a freed slot whose token is still due is parked until it is delivered. -/
def execPwait (d r : Fin 32) (st : State) : Out :=
  match tierWord (st.me.getX r) false with
  | none => .next (st.refuse 16)
  | some (k, _, _) =>
    match tget st.me.pools k with
    | none => .next (st.onMe (fun th => (th.setX d 0).advance))
    | some p =>
      if p.state = .run then .next (st.waitFor .slot)
      else
        let freed := p.state == .done || p.state == .aborted
        let s := st.onMe (fun th =>
          let rest := if freed then tdel th.pools k else th.pools
          ({ th with pools := if freed && p.tokenDue then tput rest (parkKey rest) p else rest }.setX d (BitVec.ofNat 64 p.status)).advance)
        .next (if p.state = .done then s.acquire st.cur else s)

/-! ### Copies (R313 to R316) -/

def Copy.src (c : Copy) : Addr := BitVec.ofNat 80 (bytesAt c.desc 0 10)
def Copy.dst (c : Copy) : Addr := BitVec.ofNat 80 (bytesAt c.desc 16 10)
def Copy.len (c : Copy) : Nat := bytesAt c.desc 32 8
def Copy.token (c : Copy) : Bool := (bytesAt c.desc 47 1).testBit 0
def Copy.remaining (c : Copy) : Nat := c.len - 128 * c.lines

/-- The copy status word. -/
def Copy.status (c : Copy) : Nat := c.lines * 2 ^ 24 + (if c.state = .fault then c.fkind else 0) * 2 ^ 8 + c.state.code

def copyZeros (d : List Byte) : Bool := bytesAt d 48 16 == 0 && bf (bytesAt d 47 1) 7 3 == 0

/-- Byte ranges overlap, modulo 2^80. -/
def rangesMeet (a b : Addr) (n : Nat) : Bool := decide ((a - b).toNat < n) || decide ((b - a).toNat < n)

def copyRules (c : Copy) : Bool :=
  decide (c.src.toNat % 128 = 0) && decide (c.dst.toNat % 128 = 0) && decide (c.len % 128 = 0 ∧ 128 ≤ c.len ∧ c.len ≤ 2 ^ 40) &&
  !rangesMeet c.src c.dst c.len && (c.token || (bytesAt c.desc 44 2 == 0 && bytesAt c.desc 46 1 == 0))

def State.setCopy (s : State) (t k : Nat) (c : Copy) : State := s.onThread t (fun th => { th with copies := tput th.copies k c })

def State.endCopy (s : State) (t k : Nat) (c : Copy) (st : SlotState) : State :=
  { ((s.setCopy t k { c with state := st, tokenDue := c.token, after := s.nextId }).forgetWalks (.copy t k)).leavesRun t c.state with nextId := s.nextId + 1 }

/-- A copy ends as cancelled and is counted (R315). -/
def State.cancelCopy (s : State) (t k : Nat) (c : Copy) : State := (s.endCopy t k c .cancelled).bump (s.partOf t) 0x190 95 64 1

/-- A copy is cancelled by its deadline or by COPYCAN, at the next line boundary: at once, or when the line that is being written is performed. -/
def State.askCancel (s : State) (t k : Nat) (c : Copy) : State := if c.moving then s.setCopy t k { c with cancelling := true } else s.cancelCopy t k c

/-- Copies order: earliest deadline first, those without one last, then issue order. -/
def copyBefore (a b : Copy) : Bool :=
  match a.deadline, b.deadline with
  | some x, some y => decide (x < y) || (x == y && decide (a.after < b.after))
  | some _, none => true
  | none, some _ => false
  | none, none => decide (a.after < b.after)

/-- Running copies of a partition that a test selects, in the order of a die's engine. -/
def State.copiesIn (s : State) (die : Fin 4) (p : Fin 8) (f : Nat → Copy → Bool) : List (Nat × Nat × Copy) :=
  sortBy (fun a b => !copyBefore b.2.2 a.2.2) ((s.threadsOn p die).flatMap (fun t => (s.thread t).copies.filterMap (fun e =>
    if e.2.state == .run && f t e.2 then some (t, e.1, e.2) else none)))

/-- Copies queued at a die's engine: the accesses of their threads before them are performed. -/
def State.copiesAt (s : State) (die : Fin 4) (p : Fin 8) : List (Nat × Nat × Copy) := s.copiesIn die p (fun t c => s.earlierDone t c.after)

/-- Budget of a partition in bytes per microsecond. -/
def Part.copyBudget (p : Part) : Nat := let b := p.fld 0x190 17 0; if b = 0 then 120320 else min b 120320

/-- Walk over the deadlined copies with the bytes ahead of each: those that cannot make their deadline are cancelled. -/
def State.deadlineWalk (s : State) (now budget : Nat) : List (Nat × Nat × Copy) → Nat → State
  | [], _ => s
  | (t, k, c) :: r, n =>
    match c.deadline with
    | none => s.deadlineWalk now budget r n
    | some dl =>
      let m := n + c.remaining
      if dl < now + (m * 1000 + budget - 1) / budget then (s.askCancel t k c).deadlineWalk now budget r n
      else s.deadlineWalk now budget r m

def State.deadlineTest (s : State) (die : Fin 4) (p : Fin 8) : State := s.deadlineWalk (s.gtime die) (s.part p).copyBudget (s.copiesIn die p (fun _ c => !c.cancelling)) 0

/-- DEADLINE_TEST (R315). -/
def execDeadlineTest (die : Fin 4) (p : Fin 8) (st : State) : Out := .next (st.deadlineTest die p)

/-- A line of a copy has been performed: the copy is over, cancelled, or goes on (R314, R316). -/
def State.lineMoved (s : State) (t k : Nat) (c : Copy) : State :=
  let c : Copy := { c with lines := c.lines + 1, moving := false }
  if c.cancelling then s.cancelCopy t k { c with cancelling := false }
  else if c.remaining = 0 then (s.endCopy t k c .done).bump (s.partOf t) 0x190 127 96 1
  else s.setCopy t k c

/-- One line of a copy (R314): read whole at one instant, then written whole. The flag says whether it has left for its destination. -/
def State.copyStep (s : State) (t k : Nat) (c : Copy) : State × Bool :=
  let e : Engine := ⟨.copy t k, (dieOf t).val * 96, t, c.mode, none, [], none⟩
  let fault (s : State) (kind : Nat) : State × Bool := (((s.setCopy t k { c with state := .fault, fkind := kind }).forgetWalks (.copy t k)).engineFault t k kind 2, false)
  let off := BitVec.ofNat 80 (128 * c.lines)
  match s.lineType e (c.src + off) false with
  | .fault x s => fault s x
  | .wait s => (s, false)
  | .ok _ l s =>
    if 2 < l.mt then fault s 2
    else match s.lineType e (c.dst + off) true with
      | .fault x s => fault s x
      | .wait s => (s, false)
      | .ok pa l s =>
        if 2 < l.mt then fault s 2
        else match s.engineRead e (c.src + off) 128 with
          | .fault x _ s => fault s x
          | .wait s | .stall s => (s, false)
          | .ok v s =>
            let s := (s.setCopy t k { c with moving := true }).engineStore (.copy t k) (s.partOf t) (c.dst + off) pa l (offsetsFrom 0 (leBytes v 128))
            (if s.busy (.copy t k) then s else s.lineMoved t k c, true)

/-- Lines of a die's copies that have been performed meanwhile are counted. -/
def State.settleCopies (s : State) (die : Fin 4) : State :=
  ((tkeys s.threads).filter (fun t => dieOf t == die)).foldl (fun (s : State) t => (s.thread t).copies.foldl (fun (s : State) e =>
    if e.2.moving && !s.busy (.copy t e.1) then s.lineMoved t e.1 e.2 else s) s) s

/-- COPY_LINE (R315): the next partition in turn with a copy pending and budget left moves one line. A copy's line is performed before its next
one moves. -/
def execCopyLine (die : Fin 4) (st : State) : Out :=
  let st := st.settleCopies die
  let d := st.die die
  let order : List (Fin 8) := fin8s.map (fun i => ⟨(d.copyTurn + 1 + i.val) % 8, Nat.mod_lt _ (by decide)⟩)
  let head (p : Fin 8) : Option (Nat × Nat × Copy) := (st.copiesAt die p).head?.filter (fun e => !e.2.2.moving)
  let ready (p : Fin 8) : Bool := (head p).isSome && decide (d.copyUsed.get p < (st.part p).copyBudget)
  match order.find? ready with
  | none => .next st
  | some p =>
    match head p with
    | none => .next st
    | some (t, k, c) =>
      let (s, moved) := (st.onDie die (fun d => { d with copyTurn := p.val })).copyStep t k c
      .next (if moved then s.onDie die (fun d => { d with copyUsed := d.copyUsed.set p.val (d.copyUsed.get p + 128) p.isLt }) else s)

/-- COPY and COPYDL by their slot word and deadline (R314). -/
def State.copyOp (s : State) (r : Fin 32) (a : Fin 16) (deadline : Option Nat) : Out :=
  match tierWord (s.me.getX r) deadline.isNone with
  | none => .next (s.refuse 16)
  | some (k, res, ab) =>
    let t := s.cur
    match tget s.me.copies k with
    | some c =>
      if ab && c.state == .fault then .next ((s.endCopy t k c .cancelled).onMe Thread.advance)
      else if res && c.state == .fault && decide (1 ≤ c.fkind ∧ c.fkind ≤ 6) then
        .next ((s.setCopy t k { c with state := .run, fkind := 0 }).onMe Thread.advance)
      else .next (s.refuse 17)
    | none =>
      if res || ab then .next (s.refuse 17)
      else
        let va := s.me.getA a
        if va.toNat % 16 ≠ 0 then .next (s.refuse 21)
        else match s.readDesc va 8 [] with
          | .stop s => .next s
          | .bytes d s =>
            let c : Copy := ⟨.run, d, deadline, 0, 0, s.me.gen, s.me.cur, false, s.nextId, false, false, 0⟩
            let c : Copy := { c with rgn := s.tokenRegion c.triple }
            if !copyZeros d then .next (s.refuse 16)
            else match (match c.triple with | some (h, port, x) => s.tokenTarget h port x | none => none) with
              | some e => .next (s.refuse e)
              | none =>
                if !copyRules c then .next (s.refuse 21)
                else
                  let s := { s.setCopy t k c with nextId := s.nextId + 1 }
                  .next ((s.deadlineTest (dieOf t) (s.partOf t)).onMe Thread.advance)

/-- COPY (R314). -/
def execCopy (r : Fin 32) (a : Fin 16) (st : State) : Out := st.copyOp r a none

/-- COPY with RESUME (R314). -/
def execCopyResume (r : Fin 32) (a : Fin 16) (st : State) : Out := st.copyOp r a none

/-- COPY with ABANDON (R314). -/
def execCopyAbandon (r : Fin 32) (a : Fin 16) (st : State) : Out := st.copyOp r a none

/-- COPYDL (R314): the deadline in nanoseconds of global time. -/
def execCopydl (r : Fin 32) (a : Fin 16) (c : Fin 32) (st : State) : Out := st.copyOp r a (some (st.me.getX c).toNat)

/-- COPYCAN (R316). -/
def execCopycan (r : Fin 32) (st : State) : Out :=
  match tierWord (st.me.getX r) false with
  | none => .next (st.refuse 16)
  | some (k, _, _) =>
    match tget st.me.copies k with
    | some c =>
      if c.state = .run ∨ c.state = .fault then .next ((st.askCancel st.cur k c).onMe Thread.advance) else .next (st.refuse 17)
    | none => .next (st.refuse 17)

/-- CWAIT (R316). -/
def execCwait (d r : Fin 32) (st : State) : Out :=
  match tierWord (st.me.getX r) false with
  | none => .next (st.refuse 16)
  | some (k, _, _) =>
    match tget st.me.copies k with
    | none => .next (st.onMe (fun th => (th.setX d 0).advance))
    | some c =>
      if c.state = .run then .next (st.waitFor .slot)
      else
        let freed := c.state == .done || c.state == .cancelled
        let s := st.onMe (fun th =>
          let rest := if freed then tdel th.copies k else th.copies
          ({ th with copies := if freed && c.tokenDue then tput rest (parkKey rest) c else rest }.setX d (BitVec.ofNat 64 c.status)).advance)
        .next (if c.state = .done then s.acquire st.cur else s)

/-! ### Completion tokens (R317) -/

/-- What waits to deliver a token: its triple, TAG, status word, GEN and place in completion order. -/
structure Due where
  triple : Nat × Nat × Nat
  tag : Nat
  status : Nat
  gen : BitVec 8
  order : Nat
  rgn : Nat

def Pool.due (p : Pool) : Option Due := if p.tokenDue then p.triple.map (fun x => ⟨x, bytesAt p.desc 104 4, p.status, p.gen, p.after, p.rgn⟩) else none
def Copy.due (c : Copy) : Option Due := if c.tokenDue then c.triple.map (fun x => ⟨x, bytesAt c.desc 40 4, c.status, c.gen, c.after, c.rgn⟩) else none

/-- Another engine of the region's threads has completed earlier on the same triple. -/
def State.dueBefore (s : State) (r : Region) (d : Due) : Bool :=
  (s.threadsOn r.part r.die).any (fun t =>
    let th := s.thread t
    (th.pools.filterMap (fun e => e.2.due) ++ th.copies.filterMap (fun e => e.2.due)).any (fun o => o.triple == d.triple && decide (o.order < d.order)))

/-- The engine's slot is free. -/
def State.freeEngine (s : State) (t slot : Nat) (copy : Bool) : State :=
  s.onThread t (fun th => if copy then { th with copies := tdel th.copies slot } else { th with pools := tdel th.pools slot })

/-- COMPLETION_TOKEN (R317): it enters at its core's node, one of the four tokens of a cycle there; with the region freed it is dropped. -/
def execCompletionToken (t slot : Nat) (copy : Bool) (st : State) : Out :=
  let th := st.thread t
  match (if copy then (tget th.copies slot).bind Copy.due else (tget th.pools slot).bind Pool.due) with
  | none => .next st
  | some d =>
    let (h, port, ctx) := d.triple
    match (st.region (rkey (st.partOf t) h)).filter (fun r => r.uid == d.rgn) with
    | none => .next (st.freeEngine t slot copy)
    | some r =>
      let c4 : Fin 4 := ⟨ctx % 4, Nat.mod_lt _ (by decide)⟩
      let tok : Token := ⟨0, 0, c4, d.gen, .i64, 0, 3, Vector.ofFn (fun l => if l = 0 then BitVec.ofNat 64 d.tag else if l = 1 then BitVec.ofNat 64 d.status else 0)⟩
      if (r.port port).out || r.restored port ctx || st.dueBefore r d || decide (4 ≤ (st.core (coreOf t)).gave) then .next st
      else match st.tryEnter r port ctx (queuePoint t 32) tok with
        | .enters s => .next (((s.freeEngine t slot copy).onCore (coreOf t) (fun c => { c with gave := c.gave + 1 })).setEv t)
        | _ => .next st

end Sys2Proof.Machine
end

