-- ==== Sys2Proof/Machine/Rounds.lean ====
section
/-!
DEFINITION. FENCE and the ROUND instructions (R329 to R331, R336 to R343), the round controllers and the views they send.
-/
namespace Sys2Proof.Machine

/-! ### FENCE (R343) -/

/-- FENCE: KIND 00 and 10 wait in issue for the accesses they order and then acquire, whatever their scope; KIND 01 bars later stores, and every push waits for what was
accessed before it (R345). With Q the closed tokens count as stores. A scope without observers of memory orders none, and .THR no tokens (R344, log 17). -/
def execFence (c : Scope) (q : Bool) (k : FenceKind) (st : State) : Out :=
  let t := st.cur
  if st.me.path.isSome then .next (st.waitFor .likely)
  else
    let orders := st.scoped c
    let owes := orders && (match k with
      | .full => st.owes t st.nextId
      | .acq => st.flight.any (fun r => r.ofThread t && !r.isStore && !r.performed)
      | .rel => false)
    let pushes := q && k != .acq && (orders || c != .thr) && !st.pushesEntered t
    if owes || pushes then .next (st.waitFor .memory)
    else
      let s := st.onMe Thread.advance
      match k with
      | .rel => if orders then .next (s.onMe (fun th => { th with relBar := st.nextId })) else .next s
      | _ => .next (s.acquire t)

/-! ### RNDDOM (R338) -/

/-- Physical lines that the partition's tables, of either root, map a range of whole lines to, as first lines and counts. -/
def State.linesOf (s : State) (p : Fin 8) (base len : Nat) : List (Nat × Nat) :=
  (List.range ((base % 2 ^ 14 + len + 2 ^ 14 - 1) / 2 ^ 14)).flatMap (fun i =>
    let page := base / 2 ^ 14 * 2 ^ 14 + i * 2 ^ 14
    let lo := max base page
    let n := min (base + len) (page + 2 ^ 14) - lo
    let va : Addr := BitVec.ofNat 80 lo
    [false, true].filterMap (fun fw => (s.walk p fw va).map (fun e => (lineOf (leafPa e va), n / 128))))

/-- Every copy of some lines goes from every cache of an access core, with its directory entry (R334). -/
def State.dropLines (s : State) (ls : List (Nat × Nat)) : State :=
  let hit (line : Nat) : Bool := ls.any (fun e => decide (e.1 ≤ line ∧ line < e.1 + e.2))
  { s with
    cores := s.cores.map (fun (e : Nat × Core) => (e.1, e.2.keepCopies (fun l => !hit l.line)))
    dies := s.dies.map (fun d => { d with dir := d.dir.filter (fun x => !hit x.line) })
    flight := s.flight.map (unfillReq (fun r => hit (lineOf r.pa))) }

/-- RNDDOM (R338). A length that is 0 or no multiple of 128 gives reason 25 like the other faults of the domain's fields (DESIGN CHOICE, log 44: the list
of reason 25 leaves it out, and reason 16 covers operands out of range). -/
def execRnddom (d : Fin 32) (a : Fin 16) (st : State) : Out :=
  if st.me.cur = .worker then .next (st.privTrap ((encode (.rnddom d a)).getD 0))
  else match st.readDesc (st.me.getA a) 4 [] with
    | .stop s => .next s
    | .bytes bs s =>
      let base := bytesAt bs 0 10
      let len := bytesAt bs 16 8
      let idx := bytesAt bs 24 2
      let p := s.partOf s.cur
      let ds := (s.part p).domains
      let put (v : Nat) (s : State) : Out := .next (s.onMe (fun th => (th.setX d (BitVec.ofNat 64 v)).advance))
      if bytesAt bs 26 6 ≠ 0 then .next (s.refuse 16)
      else if 4095 < idx then .next (s.refuse 24)
      else match tget ds idx with
        | some o => if o.base = base ∧ o.len = len then put o.hr s else .next (s.refuse 25)
        | none =>
          if base % 128 ≠ 0 ∨ len = 0 ∨ len % 128 ≠ 0 ∨ 2 ^ 80 < base + len ∨ ds.any (fun e => decide (e.2.base < base + len ∧ base < e.2.base + e.2.len)) then
            .next (s.refuse 25)
          else
            put 0 ((s.dropLines (s.linesOf p base len)).onPart p (fun q => { q with domains := tput q.domains idx ⟨base, len, 0, Vector.replicate 4 0⟩ }))

/-! ### RNDADV (R339, R340) -/

/-- The round controller of a domain. -/
def controller (dom : Nat) : Fin 4 := ⟨dom % 4, Nat.mod_lt _ (by decide)⟩

/-- A domain whose controller is lost has no home round (R340). -/
def State.homeRoundLost (s : State) (dom : Domain) : State := s.trapSync 0x0A (BitVec.ofNat 64 dom.base)

/-- RNDADV: earlier accesses done, the controller asked, then every die's view awaited. Its wait holds the domain while the
controller is asked, and the new round plus 4,096 afterwards. -/
def execRndadv (d r : Fin 32) (st : State) : Out :=
  let x := (st.me.getX r).toNat
  let t := st.cur
  if 2 ^ 12 ≤ x then .next (st.refuse 16)
  else match tget (st.part (st.partOf t)).domains x with
    | none => .next (st.refuse 24)
    | some dom =>
      if (st.die (controller x)).lost then .next (st.homeRoundLost dom)
      else match st.me.reply, st.me.wait.map Wait.kind with
        | some v, _ => .next (st.syncAnswer v (fun _ => st))
        | none, some (.round n) =>
          if n < 4096 then .next st
          else if fin4s.all (fun i => (st.die i).lost || decide (n - 4096 ≤ dom.view.get i)) then
            .next (st.onMe (fun th => (th.setX d (BitVec.ofNat 64 (n - 4096))).advance))
          else .next st
        | none, _ =>
          if st.owes t st.nextId then .next (st.waitFor .memory)
          else
            let (dl, s) := st.delay
            .next ((s.waitFor (.round x)).postAt dl (.roundControllerIncrement t))

/-- A view rises to a round (R329). -/
def Domain.raise (d : Domain) (die : Fin 4) (n : Nat) : Domain := { d with view := d.view.set die.val (max (d.view.get die) n) die.isLt }

/-- ROUND_CONTROLLER_INCREMENT (R339): the controller advances the home round of the domain that a waiting RNDADV names, and sends it to every
die; or refuses with reason 26. -/
def execRoundControllerIncrement (t : Nat) (st : State) : Out :=
  match (st.thread t).wait.map Wait.kind with
  | some (.round x) =>
    if 4096 ≤ x then .next st
    else
      let p := st.partOf t
      match tget (st.part p).domains x with
      | none => .next st
      | some dom =>
        if (st.die (controller x)).lost then .next st
        else if dom.hr = 2 ^ 32 - 1 then .next (st.onThread t (fun th => { th with reply := some (refusedAnswer 26) }))
        else
          let n := dom.hr + 1
          let s := st.onPart p (fun q => { q with domains := tput q.domains x { dom with hr := n } })
          let s := s.onThread t (fun th => { th with wait := some ⟨.round (n + 4096), 0, false⟩ })
          .next (fin4s.foldl (fun (s : State) d =>
            if (s.die d).lost then s
            else
              let (dl, s) := s.delay
              s.postAt dl (.viewUpdate p x d n)) s)
  | _ => .next st

/-- VIEW_UPDATE (R339): a round reaches a die. From a controller that is lost none does any more (R340). -/
def execViewUpdate (p : Fin 8) (dom : Nat) (die : Fin 4) (n : Nat) (st : State) : Out :=
  match tget (st.part p).domains dom with
  | none => .next st
  | some d => if (st.die die).lost || (st.die (controller dom)).lost then .next st else .next (st.onPart p (fun q => { q with domains := tput q.domains dom (d.raise die n) }))

/-! ### RNDSET and RNDGET (R341, R342) -/

/-- RNDSET by its slot word. -/
def State.rndset (s : State) (r v : Fin 32) : Out :=
  let w := s.me.getX r
  let c := s.me.getX v
  let clr := wf w 63 63 == 1
  let dom := wf w 27 16
  let slot : Fin 8 := ⟨wf w 2 0 % 8, Nat.mod_lt _ (by decide)⟩
  let zeros := wf w 62 28 == 0 && wf w 15 3 == 0 && (if clr then dom == 0 else wf c 63 32 == 0)
  let put (k : ClockSlot) : Out := .next (s.onMe (fun th => { th with dclk := th.dclk.set slot.val k slot.isLt }.advance))
  if !zeros then .next (s.refuse 16)
  else if clr then put ClockSlot.invalid
  else
    let p := s.part (s.partOf s.cur)
    if (tget p.domains dom).isNone then .next (s.refuse 24)
    else if (List.finRange 8).any (fun i => i != slot && (s.me.dclk.get i).v && (s.me.dclk.get i).dom == dom) then .next (s.refuse 27)
    else
      let old := s.me.dclk.get slot
      let view := p.view dom (dieOf s.cur)
      put ⟨true, dom, wf c 31 0, if old.v && old.dom == dom then max view old.floor else view⟩

/-- RNDSET (R341). -/
def execRndset (r v : Fin 32) (st : State) : Out := st.rndset r v

/-- RNDSET with CLR (R341). -/
def execRndsetClr (r v : Fin 32) (st : State) : Out := st.rndset r v

/-- RNDGET (R342): the home round is read at its controller, and the thread waits for the answer. -/
def execRndget (d r : Fin 32) (st : State) : Out :=
  let w := st.me.getX r
  let sel := wf w 1 0
  let slot : Fin 8 := ⟨wf w 4 2 % 8, Nat.mod_lt _ (by decide)⟩
  let dom := wf w 27 16
  let k := st.me.dclk.get slot
  let put (v : Nat) : Out := .next (st.onMe (fun th => (th.setX d (BitVec.ofNat 64 v)).advance))
  let ofSlot := decide (sel < 2)
  if wf w 63 28 ≠ 0 ∨ wf w 15 5 ≠ 0 ∨ (if ofSlot then dom ≠ 0 else slot ≠ 0) then .next (st.refuse 16)
  else if sel = 0 then put (k.v.toNat * 2 ^ 63 + k.dom * 2 ^ 48 + k.clk)
  else if sel = 1 then put (if k.v then k.floor else 0)
  else match tget (st.part (st.partOf st.cur)).domains dom with
    | none => .next (st.refuse 24)
    | some o =>
      if sel = 2 then put (o.view.get (dieOf st.cur))
      else if (st.die (controller dom)).lost then .next (st.homeRoundLost o)
      else match st.me.wait.map Wait.kind with
        | some (.until n) => if st.tick < n then .next (st.waitFor (.until n)) else put o.hr
        | _ =>
          let (dl, s) := st.delay
          .next (s.waitFor (.until (st.tick + dl)))

end Sys2Proof.Machine
end

