-- ==== Sys2Proof/Machine/Work.lean ====
section
/-!
DEFINITION. Work queues and waybills (R355 to R360): WPULL, WDONE and WFAIL with the claim table.
-/
namespace Sys2Proof.Machine

/-- A work-queue header as it was read (R355), with its address and the memory type of its page. -/
structure WorkHeader where
  va : Addr
  mt : Nat
  tail : Nat
  head : Nat
  ring : Addr
  recs : Addr
  entries : Nat
  ctl : Nat
  name : Word
  deriving DecidableEq, Repr

def workHeader (va : Addr) (mt : Nat) (bs : List Byte) : WorkHeader :=
  ⟨va, mt, bytesAt bs 0 8, bytesAt bs 8 8, ptrAt bs 16, ptrAt bs 32, bytesAt bs 48 4, bytesAt bs 52 4, BitVec.ofNat 64 (bytesAt bs 56 8)⟩

/-- CTR: the claim counter is a word of a tile's window. -/
def WorkHeader.ctr (h : WorkHeader) : Bool := h.ctl.testBit 0

/-- The header stands as R355 lays it out; else reason 28. -/
def WorkHeader.ok (h : WorkHeader) : Bool :=
  h.va.toNat % 64 == 0 && h.mt == 3 && decide (h.ctl < 2) && pow2In h.entries 4 (2 ^ 24) && h.ring.toNat % 64 == 0 && h.recs.toNat % 16 == 0 &&
  (if h.ctr then h.head == 0 && wf h.name 63 48 == 0 && wf h.name 22 19 == 0 else h.name == 0)

def WorkHeader.waybill (h : WorkHeader) (i : Nat) : Addr := h.ring + BitVec.ofNat 80 (64 * (i % h.entries))
def WorkHeader.record (h : WorkHeader) (i : Nat) : Addr := h.recs + BitVec.ofNat 80 (16 * (i % h.entries))

/-- The header, read as loads that fault as LD does; or the state in which the instruction traps or waits. -/
inductive HeaderRead where
  | ok (h : WorkHeader) (s : State)
  | stop (s : State)

def State.readHeader (s : State) (va : Addr) : HeaderRead :=
  match s.readDesc va 8 [] with
  | .stop s => .stop s
  | .bytes bs s =>
    match s.check va .load 8 with
    | .stop s => .stop s
    | .ok _ e s => .ok (workHeader va e.mt bs) s

/-- The counter's tile and offset, with CTR = 1; reasons 22 and 23 (R280, R358). -/
def State.workCounter (s : State) (h : WorkHeader) : Except Nat (Region × Nat × Nat) :=
  match s.scratchName (h.name &&& 0x0000FFFFFF87FFFF) 8 true with
  | .error e => .error e
  | .ok (r, mt, off) => if inWindow (tgetD r.mts mt Mt.new).windowAhead off 8 then .ok (r, mt, off) else .error 23

/-- A completion record (R355). -/
def recordBytes (i code lidx part state : Nat) : List Byte :=
  leBytes i 8 ++ leBytes code 4 ++ leBytes lidx 2 ++ leBytes part 1 ++ leBytes state 1

/-- The claim of waybill i stands: its record leaves for memory through the translation found for it before the counter moved, and WPULL completes once
that is performed (R359). -/
def State.takeClaim (s : State) (d : Fin 32) (a c : Fin 16) (i : Nat) (way rec : Addr) (pa : Nat) (e : TlbEntry) : State :=
  let p := s.partOf s.cur
  let s := s.engineStore (.area s.cur) p rec pa e (offsetsFrom (pa % 128) (recordBytes i 0 ((s.part p).lidx s.cur) p.val 1))
  let s := s.onMe (fun th => { (th.setA c way).setX d (BitVec.ofNat 64 i) with reply := none, claims := th.claims ++ [Claim.mk (th.getA a) i (th.cur == .firmware)] })
  if s.busy (.area s.cur) then s.waitFor .drain else (s.onMe Thread.advance).acquire s.cur

/-- None is published (R359). -/
def State.noWork (s : State) (d : Fin 32) : State := (s.onMe (fun th => (th.setX d (BitVec.ofNat 64 allOnes)).advance)).acquire s.cur

/-- Whether the page of an address is of another type than stream-buffer, or the state in which its walk is waited for. A page that does not
translate is left to the access that needs it (log 44). -/
def State.otherPage (s : State) (va : Addr) : Except State (Bool × State) :=
  match s.xlate s.cur va .load 8 with
  | .wait s => .error s
  | .trap _ s => .ok (false, s)
  | .ok _ e s => .ok (e.mt != 3, s)

/-- The same of the record and the waybill of an index (R355, R358). -/
def State.otherPages (s : State) (h : WorkHeader) (i : Nat) : Except State (Bool × State) :=
  match s.otherPage (h.record i) with
  | .error s => .error s
  | .ok (true, s) => .ok (true, s)
  | .ok (false, s) => s.otherPage (h.waybill i)

/-- The index that the counter stands at: the word of a tile's window, or HEAD as the header was read. -/
def WorkHeader.next (h : WorkHeader) (ctr : Option (Region × Nat × Nat)) : Nat :=
  match ctr with
  | some (r, mt, off) => (tgetD r.mts mt Mt.new).rd off 8
  | none => h.head

/-- The indivisible step is asked for at the counter, for the index whose record has been translated: so no fault of the record's can follow a
counter that has moved (R86, R359). -/
def State.askClaim (s : State) (h : WorkHeader) (ctr : Option (Region × Nat × Nat)) (n pa : Nat) (e : TlbEntry) : State :=
  let wait (s : State) : State := s.waitFor (.claim n (h.waybill n) (h.record n) pa e)
  match ctr with
  | some (r, mt, off) => wait (s.sendSync r mt off (.claim s.cur off h.tail n))
  | none => match s.check (h.va + 8) .atomic 8 with
    | .stop s => s
    | .ok hpa he s => wait (s.engineReq (.area s.cur) (s.partOf s.cur) (h.va + 8) hpa 8 he (.claim h.tail n))

/-- A WPULL whose header stands: the pages of the index it would claim, reason 30, the record's own checks, and the step. -/
def State.pull (s : State) (h : WorkHeader) (ctr : Option (Region × Nat × Nat)) : State :=
  let n := h.next ctr
  if n < h.tail then
    match s.otherPages h n with
    | .error s => s
    | .ok (true, s) => s.refuse 28
    | .ok (false, s) =>
      if 4 ≤ s.me.claims.length then s.refuse 30
      else match s.check (h.record n) .store 8 with
        | .stop s => s
        | .ok pa e s => s.askClaim h ctr n pa e
  else if 4 ≤ s.me.claims.length then s.refuse 30
  else s.askClaim h ctr n 0 (physEntry (s.partOf s.cur))

/-- A WPULL from its start: the header read, the counter's name, the header's rules. -/
def State.pullStart (s : State) (a : Fin 16) : State :=
  match s.readHeader (s.me.getA a) with
  | .stop s => s
  | .ok h s =>
    match (if h.ctr then (s.workCounter h).map some else .ok none) with
    | .error e => s.refuse e
    | .ok ctr => if h.ok then s.pull h ctr else s.refuse 28

/-- WPULL (R359): it waits for the answer of the tile or of the home, and then for its record. -/
def execWpull (d : Fin 32) (a c : Fin 16) (st : State) : Out :=
  if st.busy (.area st.cur) then .next st
  else if st.me.drains then .next ((st.onMe Thread.advance).acquire st.cur)
  else match st.me.wait.map Wait.kind, st.me.reply with
    | some (.claim i way rec pa e), some v =>
      if v = claimAgain then .next (st.onMe (fun th => { th with wait := none, reply := none }))
      else .next (st.syncAnswer v (fun w => if w.toNat = allOnes then st.noWork d else st.takeClaim d a c i way rec pa e))
    | some (.claim _ _ _ _ _), none => .next st
    | _, _ => .next (st.pullStart a)

/-- The claim that a thread holds on an index of a header. -/
def Thread.claimOn (th : Thread) (va : Addr) (i : Nat) : Option Claim := th.claims.find? (fun k => k.header == va && k.index == i)

/-- The home has made the indivisible step at a record: the claim is over, or stays with reason 31 (R360). -/
def State.claimClosed (s : State) (va : Addr) (i v : Nat) : State :=
  s.syncAnswer v (fun _ => s.onMe (fun th => { th with claims := match th.claimOn va i with | some k => th.claims.erase k | none => th.claims }.advance))

/-- WDONE and WFAIL (R360). -/
def State.endClaim (s : State) (r : Fin 32) (a : Fin 16) (c : Fin 32) (state : Nat) : Out :=
  let i := (s.me.getX r).toNat
  let code := s.me.getX c
  if s.busy (.area s.cur) then .next s
  else match s.me.reply with
  | some v => .next (s.claimClosed (s.me.getA a) i v)
  | none =>
    match s.readHeader (s.me.getA a) with
    | .stop s => .next s
    | .ok h s =>
      if wf code 63 32 ≠ 0 then .next (s.refuse 16)
      else if !h.ok then .next (s.refuse 28)
      else match s.otherPages h i with
      | .error s => .next s
      | .ok (true, s) => .next (s.refuse 28)
      | .ok (false, s) =>
        if (s.me.claimOn h.va i).isNone then .next (s.refuse 29)
        else match s.check (h.record i) .atomic 8 with
        | .stop s => .next s
        | .ok pa e s =>
          if s.owes s.cur s.nextId then .next (s.waitFor .memory)
          else .next ((s.engineReq (.area s.cur) (s.partOf s.cur) (h.record i) pa 16 e (.close i (wf code 31 0) state)).waitFor .memory)

/-- WDONE (R360). -/
def execWdone (r : Fin 32) (a : Fin 16) (c : Fin 32) (st : State) : Out := st.endClaim r a c 2

/-- WFAIL (R360). -/
def execWfail (r : Fin 32) (a : Fin 16) (c : Fin 32) (st : State) : Out := st.endClaim r a c 3

/-- A claim that its partition's stop fails (R353), reached through the root it was made through; an overtaken record, or one that cannot be
reached, stays. The flag says that no walk is waited for any more. -/
def State.failClaim (s : State) (t : Nat) (k : Claim) : State × Bool :=
  let p := s.partOf t
  let rim := (dieOf t).val * 96
  let m : Mode := if k.fw then .firmware else .supervisor
  match s.xlateRim (.area t) rim p m k.header .load 8 with
  | .error _ s => (s, true)
  | .wait s => (s, false)
  | .ok pa _ s =>
    let h := workHeader k.header 3 (memBytes s.mem pa 64)
    match s.xlateRimW (.area t) t rim p m (h.record k.index) 8 with
    | .error _ s => (s, true)
    | .wait s => (s, false)
    | .ok pa e s => if s.homeLost pa then (s, true) else (s.engineReq (.area t) p (h.record k.index) pa 16 e (.close k.index 0xFFFFFFFF 3), true)

/-- The claims that a thread still holds are failed as far as their records can be reached now (R353). -/
def State.failClaims (s : State) (t : Nat) : State :=
  (s.thread t).claims.foldl (fun (s : State) k =>
    let (s, over') := s.failClaim t k
    if over' then (s.onThread t (fun th => { th with claims := th.claims.erase k })).forgetWalks (.area t) else s) s

end Sys2Proof.Machine
end

