-- ==== Sys2Proof/Machine/Chain.lean ====
section
/-!
DEFINITION. LINK chains (R386 to R391) and LNKSTAT (R396): starting a chain, its hops over couplers and links, the ingress selector.
-/
namespace Sys2Proof.Machine

/-! ### Couplers and crossings (R9, R363, R382) -/

/-- A crossing of a partition toward another module is open: not in a slice's switch, or joined from both sides (R363). -/
def Part.crossingOpen (p : Part) (module : BitVec 16) : Bool :=
  match p.fld 0x390 2 0 with
  | 2 => p.joinedHere && p.joinedFrom.contains module
  | 4 => false
  | _ => true

/-- A link port is up (R428). -/
def Link.up (l : Link) : Bool := l.state == 2

/-- STOP and GO, which leave ahead of every other beat (R185, R388). -/
def Beat.signals : Beat → Bool
  | .control (.stop _) | .control (.go _) => true
  | _ => false

/-- A beat is to leave by a port. -/
def State.sendBeat (s : State) (port : Nat) (b : Beat) : State :=
  s.onLink port (fun l => { l with
    outbox := if Beat.signals b then l.outbox.takeWhile Beat.signals ++ b :: l.outbox.dropWhile Beat.signals else l.outbox ++ [b] })

/-- The pairing a beat belongs to: its kind and key. -/
def Beat.pairing : Beat → Nat × Nat
  | .queue key _ => (1, key.toNat)
  | .reduce key _ => (2, key.toNat)
  | .route key _ => (3, key.toNat)
  | _ => (0, 0)

/-- Tokens of a pairing that wait for their flit at a port, and those in flits that are not acknowledged. -/
def Link.staged (l : Link) (p : Nat × Nat) : Nat := (l.outbox.filter (fun b => Beat.pairing b == p)).length
def Link.underway (l : Link) (p : Nat × Nat) : Nat :=
  ((l.unacked.flatMap (fun f => [f.1.beat0, f.1.beat1])).filter (fun b => Beat.pairing b == p)).length

/-! ### Descriptors (R387) -/

def Chain.key16 (c : Chain) : BitVec 16 := c.key.truncate 16

/-- The chain of a descriptor. -/
def chainOf (d : List Byte) (gen : BitVec 8) : Chain where
  state := .run
  desc := d
  fkind := 0
  route := bytesAt d 0 1 == 1
  op := bytesAt d 1 1
  etype := EType.ofCode (bytesAt d 2 1 % 16)
  ctx := ⟨bytesAt d 3 1 % 4, Nat.mod_lt _ (by decide)⟩
  region := BitVec.ofNat 16 (bytesAt d 4 2)
  sport := bytesAt d 6 1
  rport := bytesAt d 7 1
  pos := bytesAt d 8 1
  npart := bytesAt d 9 1
  up := bytesAt d 10 1
  down := bytesAt d 11 1
  lane := bytesAt d 12 1
  keylane := ⟨bytesAt d 13 1 % 16, Nat.mod_lt _ (by decide)⟩
  dpeer := BitVec.ofNat 16 (bytesAt d 14 2)
  upeer := BitVec.ofNat 16 (bytesAt d 20 2)
  key := BitVec.ofNat 32 (bytesAt d 16 4)
  map := (List.range 16).map (fun k => bytesAt d (32 + k) 1)
  gen := gen
  count := 0
  inbox := []
  outbox := []
  transit := []
  stopped := false
  sentStop := false
  drainAsked := false
  ended := false
  closed := false
  flags := 0

/-- Fields marked zero outright and field values out of range (reason 16). -/
def chainFields (d : List Byte) : Bool :=
  decide (bytesAt d 0 1 < 2) && decide (bytesAt d 2 1 < 16) && decide (bytesAt d 3 1 < 4) && bf (bytesAt d 10 1) 6 4 == 0 && bf (bytesAt d 11 1) 6 4 == 0 &&
  decide (bytesAt d 12 1 < 48) && decide (bytesAt d 13 1 < 16) && bytesAt d 22 10 == 0 && bytesAt d 48 16 == 0

/-- The chain rules (reason 21). -/
def chainRules (c : Chain) (die : Nat) : Bool :=
  let code := c.etype.code
  let faces (o : Option Nat) : Bool := match o with | some side => (neighbour die side).isSome | none => true
  (if c.route then c.op == 0 && decide (2 ≤ c.npart ∧ c.npart ≤ 4)
   else (c.op == 0 || c.op == 2 || c.op == 3) && [4, 6, 8, 9].contains code && decide (2 ≤ c.npart ∧ c.npart ≤ 64)) &&
  decide (c.pos < c.npart) && (!c.first || c.up == 0) && (!c.last || c.down == 0) && faces c.upSide && faces c.downSide &&
  (c.route || (match c.downSide with | some side => decide (die < 3) && side == chainOut die | none => true)) &&
  (c.upSide.isSome || c.downSide.isSome || c.lane == 0) && ((c.route && c.last) || c.keylane == 0) &&
  (c.downLink.isSome || c.dpeer == 0) && (c.upLink.isSome || c.upeer == 0) && ((!c.route && c.last) == (c.rport != 0xFF)) &&
  ((c.route && c.last) || c.map.all (fun p => p == 0xFF)) && (!c.route || c.first || c.sport == 0xFF)

/-- Port triples that a descriptor names, with direction (true out of the region). -/
def Chain.ports (c : Chain) : List (Nat × Bool) :=
  ((if c.sport = 0xFF then [] else [(c.sport, true)]) ++ (if c.rport = 0xFF then [] else [(c.rport, false)]) ++
    (c.map.filter (fun p => p != 0xFF)).map (fun p => (p, false))).eraseDups

/-- Reasons 18 to 20 for the triples. -/
def State.chainTargets (s : State) (c : Chain) : Option Nat :=
  let found := c.ports.map (fun e => s.engineTarget c.region.toNat e.1 c.ctx.val e.2 c.etype)
  let bad := found.filterMap (fun x => match x with
    | .error e => some e
    | .ok r => if r.die ≠ dieOf s.cur then some 20 else none)
  [18, 19, 20].find? bad.contains

/-- A named link port is not the partition's, or is down (reason 38). -/
def State.chainLinksOk (s : State) (c : Chain) : Bool :=
  (c.upLink.toList ++ c.downLink.toList).all (fun n => (s.part (s.partOf s.cur)).fld 0x1D0 n n == 1 && (s.link n).up)

def State.setChain (s : State) (t k : Nat) (c : Chain) : State := s.onThread t (fun th => { th with ss := tput th.ss k (.chain c) })

/-- RED (R387). -/
def execRed (r : Fin 32) (a : Fin 16) (st : State) : Out :=
  match slotOf (st.me.getX r) with
  | none => .next (st.refuse 16)
  | some k =>
    let va := st.me.getA a
    if (tget st.me.ss k).isSome then .next (st.refuse 17)
    else if va.toNat % 16 ≠ 0 then .next (st.refuse 21)
    else match st.readDesc va 8 [] with
      | .stop s => .next s
      | .bytes d s =>
        let c := chainOf d s.me.gen
        if !chainFields d then .next (s.refuse 16)
        else match s.chainTargets c with
          | some e => .next (s.refuse e)
          | none =>
            if !chainRules c (dieOf s.cur).val then .next (s.refuse 21)
            else if !s.chainLinksOk c then .next (s.refuse 38)
            else .next ((s.setChain s.cur k c).onMe Thread.advance)

/-! ### LNKSTAT (R396) -/

/-- LNKSTAT of a coupler side. -/
def State.couplerStat (s : State) (die side sel : Nat) : Option Nat :=
  match neighbour die side with
  | none => none
  | some n =>
    let c := tgetD s.couplers (couplerKey die side) Coupler.reset
    let alive (d : Nat) : Bool := let x := s.die ⟨d % 4, Nat.mod_lt _ (by decide)⟩; !x.lost && !x.absent
    match sel with
    | 0 => some ((alive die && alive n).toNat * 2 ^ 63 + 5775)
    | 1 => some c.sent
    | 2 => some c.received
    | 3 => some c.retried
    | 4 => some c.crc
    | 6 => some c.adds
    | _ => none

/-- LNKSTAT of a link port. -/
def State.linkStat (s : State) (port sel q : Nat) : Option Nat :=
  let l := s.link port
  match sel with
  | 0 => some (l.up.toNat * 2 ^ 63 + l.peer.toNat * 2 ^ 32 + l.rate)
  | 1 => some l.sent
  | 2 => some l.received
  | 3 => some l.resent
  | 4 => some l.crc
  | 5 => (tget s.me.qs q).bind (fun x => x.remote.bind (fun r => if r.link.val = port then some r.acked else none))
  | 6 => some l.adds
  | _ => none

/-- LNKSTAT (R396). -/
def execLnkstat (d r : Fin 32) (st : State) : Out :=
  let w := st.me.getX r
  let port := wf w 3 0
  let c := wf w 15 15 == 1
  let v := if c then st.couplerStat (dieOf st.cur).val port (wf w 7 4) else st.linkStat port (wf w 7 4) (wf w 12 8)
  if wf w 63 16 ≠ 0 ∨ wf w 14 13 ≠ 0 then .next (st.refuse 16)
  else match v with
    | none => .next (st.refuse 16)
    | some v =>
      if !c && (st.part (st.partOf st.cur)).fld 0x1D0 port port == 0 then .next (st.refuse 38)
      else .next (st.onMe (fun th => (th.setX d (BitVec.ofNat 64 v)).advance))

/-! ### Hops (R388, R389) -/

/-- A chain slot stops at a fault: kind 8 or 9. -/
def State.chainFault (s : State) (t k : Nat) (c : Chain) (kind : Nat) : State := (s.endChain t k c .fault kind).engineFault t k kind 0

/-- Both token's lanes under an operation: the token, the flags raised, the operations made (R389). -/
def combineLanes (op : Nat) (ty : EType) (u p : Token) : Token × FlagSet × Nat :=
  let res (l : Fin 16) : Option Res :=
    if u.isValid l && p.isValid l then
      some (redOp ty op .rne Rsh.zero ((u.lane l).toNat % 2 ^ etypeWidth ty) ((p.lane l).toNat % 2 ^ etypeWidth ty))
    else none
  let tok := Token.ofLanes { u with flags := 0 } (fun l => match res l with
    | some r => some (BitVec.ofNat 64 r.bits)
    | none => if u.isValid l then some (u.lane l) else if p.isValid l then some (p.lane l) else none)
  let rs := lanes16.filterMap res
  (tok, rs.foldl (fun fl r => fl ||| r.flags) 0, rs.length)

/-- Combine (R389): the token, the hop's flags after it, and the additions made; nothing for stops that do not match. -/
def combine (c : Chain) (u p : Token) : Option (Token × FlagSet × Nat) :=
  if u.stop = 0 ∧ p.stop = 0 then
    let (tok, fl, n) := combineLanes c.op c.etype u p
    some (tok, c.flags ||| fl, n)
  else if u.stop = p.stop then some ({ u with flags := u.flags ||| p.flags ||| c.flags }, if isMarker u then 0 else c.flags, 0)
  else none

/-- The chain across the coupler below: both ends hold one key on one lane and face each other (R387). -/
def State.chainBelow (s : State) (t : Nat) (c : Chain) : Option (Nat × Nat × Chain) :=
  match c.downSide.bind (fun side => (neighbour (dieOf t).val side).map (fun n => (n, (side + 2) % 4))) with
  | none => none
  | some (die, side) =>
    let all := s.threads.flatMap (fun (e : Nat × Thread) => e.2.ss.filterMap (fun (x : Nat × SSlot) => match x.2 with
      | .chain d => if (dieOf e.1).val == die && d.state == .run && d.upSide == some side && d.lane == c.lane && d.key == c.key then some (e.1, x.1, d) else none
      | _ => none))
    all.head?

def Chain.beat (c : Chain) (tok : Token) : Beat := if c.route then .route c.key16 tok else .reduce c.key16 tok

/-- A token of another type than the chain's is a protocol fault (R296, R388). -/
def Chain.foreign (c : Chain) (tok : Token) : Bool := tok.etype != c.etype

/-- What stands in front of a hop: whether a token may leave over it now. A link hop keeps at most 32 tokens that the receiver has not acknowledged, so
that no more than these follow a STOP that has left the receiver (R388). Pairing of a link hop is the far module's to say (log 21). -/
def State.hopOpen (s : State) (t : Nat) (c : Chain) : Bool × State :=
  match c.downLink with
  | some n =>
    let (k, s) := s.fresh
    let p := Beat.pairing (c.beat Token.empty)
    ((s.link n).up && (s.link n).peer == c.dpeer && !c.stopped && decide ((s.link n).staged p + (s.link n).underway p < 32) &&
      (s.part (s.partOf t)).crossingOpen c.dpeer && Config.choice k % 2 == 0, s)
  | none =>
    match s.chainBelow t c with
    | some (_, _, d) => (!d.sentStop && decide (d.inbox.length + c.transit.length < 64), s)
    | none => (false, s)

/-- A token arrives in a chain's receive buffer: STOP at 32 (R388). -/
def State.chainArrive (s : State) (t k : Nat) (c : Chain) (tok : Token) : State :=
  let c := { c with inbox := c.inbox ++ [tok] }
  let stop := decide (32 ≤ c.inbox.length) && !c.sentStop
  let s := s.setChain t k { c with sentStop := c.sentStop || stop }
  match c.upLink with
  | some n => if stop then s.sendBeat n (.control (.stop c.key16)) else s
  | none => s

/-- The head of the receive buffer has been taken: GO at 16 or fewer (R388). -/
def Chain.taken (c : Chain) : Chain × Bool :=
  let c := { c with inbox := c.inbox.tail }
  if c.sentStop && decide (c.inbox.length ≤ 16) then ({ c with sentStop := false }, true) else (c, false)

def State.signalGo (s : State) (c : Chain) (go : Bool) : State :=
  match c.upLink with
  | some n => if go then s.sendBeat n (.control (.go c.key16)) else s
  | none => s

/-- A token that has crossed the coupler enters the receive buffer beyond it. -/
def State.landCoupler (s : State) (t k : Nat) (c : Chain) : State :=
  match c.transit, s.chainBelow t c with
  | (tok, 0) :: rest, some (u, j, d) =>
    let s := s.setChain t k { c with transit := rest }
    let s : State := match d.upSide with
      | some side => s.onCoupler (couplerKey (dieOf u).val side) (fun x => { x with received := x.received + 1 })
      | none => s
    match tget (s.thread u).ss j with
    | some (.chain d) => s.chainArrive u j d tok
    | _ => s
  | _, _ => s

/-- A token leaves downstream, over the coupler in 4 cycles or by the link (R382, R389). -/
def State.sendDown (s : State) (t k : Nat) (c : Chain) (tok : Token) : State :=
  match c.downLink with
  | some n => (s.setChain t k { c with count := c.count + 1 }).sendBeat n (c.beat tok)
  | none =>
    let s := s.setChain t k { c with transit := c.transit ++ [(tok, 4)], count := c.count + 1 }
    match c.downSide with
    | some side => s.onCoupler (couplerKey (dieOf t).val side) (fun x => { x with sent := x.sent + 1 })
    | none => s

/-- The sideband of a token that a reduce chain delivers (R389). -/
def Chain.stamp (c : Chain) (tok : Token) : Token := { tok with etype := c.etype, gen := c.gen, ctx := c.ctx, round := BitVec.ofNat 15 c.count }

/-- The head of what waits for delivery enters its port. -/
def State.chainDeliver (s : State) (t k : Nat) (c : Chain) : State :=
  match c.outbox, s.region (rkey (s.partOf t) c.region.toNat) with
  | (port, tok) :: rest, some r =>
    if (r.port port).out || r.restored port c.ctx.val then s
    else match s.tryEnter r port c.ctx.val (c.point (dieOf t).val) tok with
      | .enters s => s.setChain t k { c with outbox := rest }
      | _ => s
  | _, _ => s

/-- A token of a position goes on: delivered at the last, sent downstream elsewhere; after the marker an SSTOP waits for, the slot ends. -/
def State.passOn (s : State) (t k : Nat) (c : Chain) (tok : Token) : State :=
  let c := { c with ended := c.drainAsked && isMarker tok }
  if c.last then s.setChain t k { c with outbox := [(c.rport, c.stamp tok)], count := c.count + 1 } else s.sendDown t k c tok

/-- One token of a position (R389). -/
def State.chainStep (s : State) (t k : Nat) (c : Chain) : State :=
  let (ok, s) := if c.last then (true, s) else s.hopOpen t c
  let local' : Option (Token × Region) := if c.sport = 0xFF ∨ c.closed then none
    else (s.region (rkey (s.partOf t) c.region.toNat)).bind (fun r => s.egress r c.sport c.ctx.val)
  if !ok then s
  else if c.first then
    match local' with
    | some (p, r) => if c.foreign p then s.chainFault t k c 8 else (s.setRegion r.key r).passOn t k c p
    | none => s
  else match c.inbox with
    | [] => s
    | u :: _ =>
      let (c', go) := c.taken
      if c.foreign u then s.chainFault t k c 8
      else if c.sport = 0xFF then (s.signalGo c' go).passOn t k c' u
      else match local' with
        | none => s
        | some (p, r) =>
          if c.foreign p then s.chainFault t k c 8
          else match combine c' u p with
          | none => s.chainFault t k c 8
          | some (tok, fl, n) =>
            let s := (s.setRegion r.key r).signalGo c' go
            let s : State := match c.upLink, c.upSide with
              | some l, _ => s.onLink l (fun x => { x with adds := x.adds + n })
              | none, some side => s.onCoupler (couplerKey (dieOf t).val side) (fun x => { x with adds := x.adds + n })
              | _, _ => s
            s.passOn t k { c' with flags := fl } tok

/-- CHAIN_HOP (R389): what has crossed lands, what waits is delivered, then the next token is combined and sent. -/
def execChainHop (t slot : Nat) (st : State) : Out :=
  let s : State := match tget (st.thread t).ss slot with
    | some (.chain c) => if c.state = .run then st.landCoupler t slot c else st
    | _ => st
  match tget (s.thread t).ss slot with
  | some (.chain c) =>
    if c.state ≠ .run then .next s
    else if !c.outbox.isEmpty then .next (s.chainDeliver t slot c)
    else if c.ended then .next (if c.transit.isEmpty then s.endChain t slot c .done 0 else s)
    else if c.route && c.last then .next s
    else .next (s.chainStep t slot c)
  | _ => .next s

/-! ### The ingress selector (R391) -/

/-- What the selector makes of a token: the deliveries, none for a token that is dropped. -/
def Chain.selected (c : Chain) (tok : Token) : List (Nat × Token) :=
  let tok := { tok with ctx := c.ctx }
  if tok.stop = 0 then
    let k := (tok.lane c.keylane).toNat % 2 ^ 16
    match (if tok.isValid c.keylane then c.map[k]? else none) with
    | some p => if p = 0xFF then [] else [(p, tok.ofLanes (fun l => if tok.isValid l && l != c.keylane then some (tok.lane l) else none))]
    | none => []
  else (c.map.filter (fun p => p != 0xFF)).eraseDups.map (fun p => (p, tok))

/-- INGRESS_SELECTOR (R391): the next token of a route chain's last position, in arrival order. -/
def execIngressSelector (t slot : Nat) (st : State) : Out :=
  match tget (st.thread t).ss slot with
  | some (.chain c) =>
    if c.state ≠ .run ∨ !c.route ∨ !c.last ∨ c.ended ∨ !c.outbox.isEmpty then .next st
    else match c.inbox with
      | [] => .next st
      | tok :: _ =>
        let (c', go) := c.taken
        let out := c.selected tok
        let s := if out.isEmpty && tok.stop == 0 then st.bump (st.partOf t) 0x400 63 32 1 else st
        if c.foreign tok then .next (st.chainFault t slot c 8)
        else .next ((s.signalGo c' go).setChain t slot { c' with outbox := out, ended := c.drainAsked && isMarker tok, count := c.count + out.length })
  | _ => .next st

end Sys2Proof.Machine
end

