-- ==== Sys2Proof/Machine/Context.lean ====
section
/-!
DEFINITION. CTXSAVE and CTXRST (R376 to R379): the thread part of the save area, and the four rows of the table.
-/
namespace Sys2Proof.Machine

/-- Bytes of the thread area, and LENGTH (log 23). -/
def threadArea : Nat := 98304

/-! ### Writing the thread part (R379) -/

/-- A pointer in the 16-byte layout. -/
def ptrBytes (a : Addr) : List Byte := leBytes a.toNat 10 ++ leBytes 0 6

/-- A binding word, laid out as QBIND's descriptor (R164). -/
def bindWord (region : BitVec 16) (port ctx : Nat) : Nat := region.toNat * 2 ^ 32 + ctx * 2 ^ 16 + port

def clockBytes (k : ClockSlot) : List Byte := leBytes (k.v.toNat * 2 ^ 31 + k.dom) 4 ++ leBytes k.clk 4 ++ leBytes k.floor 4 ++ leBytes 0 4

/-- Queue record: binding word, DEPTH, LT, direction, ETYPE, fill, token count, occupancy, counters. -/
def queueRecord (word depth : Nat) (lt out : Bool) (etype fill count occ : Nat) (ew fw lod : BitVec 32) : List Byte :=
  leBytes word 8 ++ leBytes depth 1 ++ leBytes lt.toNat 1 ++ leBytes out.toNat 1 ++ leBytes etype 1 ++ leBytes fill 1 ++ leBytes count 2 ++ leBytes occ 1 ++
  leBytes ew.toNat 4 ++ leBytes fw.toNat 4 ++ leBytes lod.toNat 4 ++ leBytes 0 4

def Bq.record (b : Bq) : List Byte := queueRecord (bindWord b.region b.port b.ctx.val) 0 b.lt true 0 0 0 b.entries.length b.ew b.fw b.lod
def Queue.record (q : Queue) : List Byte :=
  queueRecord (bindWord q.region q.port q.ctx.val) (q.cap / 4 - 1) q.lt q.out q.etype.code q.fill q.count.toNat q.toks.length q.ew q.fw q.lod

/-- Tokens of a queue and its assembly register, which holds a token while its fill is not 0 (R379). -/
def Queue.tokenBytes (q : Queue) : List Byte :=
  padTo 2304 (q.toks.zipIdx.flatMap (fun e => tokenRecord e.1.1 q.port e.2)) ++
  (if q.fill = 0 then leBytes 0 144 else tokenRecord { q.token 0 with valid := q.asmValid, lanes := q.asmLanes } q.port 16)

def streamRecord (x : Stream) : List Byte :=
  padTo 64 x.desc ++ padTo 208 x.shapeBytes ++ leBytes x.state.code 1 ++ leBytes x.fkind 1 ++ leBytes 0 6 ++ ptrBytes x.faddr ++ leBytes x.count 8 ++
  padTo 96 (x.idx.flatMap (fun i => leBytes i 8)) ++ leBytes x.gen.toNat 1 ++ leBytes 0 111
def chainRecord (c : Chain) : List Byte :=
  padTo 64 c.desc ++ leBytes 0 208 ++ leBytes c.state.code 1 ++ leBytes c.fkind 1 ++ leBytes 0 6 ++ leBytes 0 16 ++ leBytes c.count 8 ++ leBytes 0 96 ++
  leBytes c.gen.toNat 1 ++ leBytes 0 111
def SSlot.record (x : SSlot) : List Byte :=
  match x with
  | .stream x => streamRecord x
  | .chain c => chainRecord c

/-- A pool's descriptor with the next bag in its zero bytes 108 to 111. -/
def Pool.record (p : Pool) : List Byte := (padTo 128 p.desc).take 108 ++ leBytes p.bag 4 ++ leBytes 0 16
def Copy.record (c : Copy) : List Byte :=
  padTo 64 c.desc ++ leBytes (c.deadline.getD (2 ^ 64 - 1)) 8 ++ leBytes c.lines 8 ++ leBytes c.state.code 1 ++ leBytes c.fkind 1 ++ leBytes 0 46

def slotBytes {β : Type} (n size : Nat) (t : Tbl β) (f : β → List Byte) : List Byte :=
  (List.range n).flatMap (fun k => match tget t k with
    | some x => padTo size (f x)
    | none => leBytes 0 size)

/-- The thread part as bytes. -/
def Thread.area (th : Thread) : List Byte :=
  let head := leBytes 0x32435853 4 ++ leBytes 1 2 ++ leBytes th.gen.toNat 1 ++ leBytes th.ev.toNat 1 ++
    padTo 96 (th.claims.flatMap (fun c => ptrBytes c.header ++ leBytes c.index 8)) ++ th.dclk.toList.flatMap clockBytes ++ leBytes threadArea 8
  padTo 1024 (padTo 256 head ++ (match th.bq with | some b => b.record | none => [])) ++ slotBytes 8 512 th.ss SSlot.record ++
  slotBytes 8 128 th.pools Pool.record ++ slotBytes 8 128 th.copies Copy.record ++
  padTo 256 (match th.bq with | some b => b.entries.flatMap (fun w => leBytes w.toNat 8) | none => []) ++ slotBytes 32 32 th.qs Queue.record ++
  slotBytes 32 2448 th.qs Queue.tokenBytes

/-- The thread once its hardware state is saved: nothing bound, every slot FREE, no claim; tokens still due stay with their engines. A chained queue
loses its remote half, for which the area has no field, and CTXRST binds it unchained (DESIGN CHOICE, log 39). -/
def Thread.saved (th : Thread) : Thread :=
  let park {β : Type} (due : β → Bool) (t : Tbl β) : Tbl β :=
    t.foldl (fun (acc : Tbl β) e => if due e.2 && decide (e.1 < 8) then tput acc (parkKey acc) e.2 else acc) (t.filter (fun e => decide (8 ≤ e.1)))
  { th with qs := [], bq := none, ss := [], claims := [], pools := park (fun p : Pool => p.tokenDue) th.pools, copies := park (fun c : Copy => c.tokenDue) th.copies }

/-! ### Reading it back -/

/-- State of a saved slot (R288, R306). -/
def SlotState.ofCode : Nat → SlotState
  | 1 => .run
  | 2 => .fault
  | 3 => .paused
  | 4 => .done
  | 5 => .aborted
  | 6 => .cancelled
  | _ => .free

def readClock (b : List Byte) : ClockSlot := ⟨(bytesAt b 0 4).testBit 31, bytesAt b 0 4 % 4096, bytesAt b 4 4, bytesAt b 8 4⟩
/-- Claims come back as made through the root of the mode that the interrupted program ran in (log 23). -/
def readClaims (fw : Bool) (b : List Byte) : List Claim :=
  (List.range 4).filterMap (fun k =>
    let a := ptrAt b (8 + 24 * k)
    let i := bytesAt b (24 + 24 * k) 8
    if a = 0 ∧ i = 0 then none else some ⟨a, i, fw⟩)

/-- A saved queue is bound again, or reason 37. -/
def State.bindAgain (s : State) (k : Nat) (rec toks : List Byte) : Option State :=
  let w := BitVec.ofNat 64 (bytesAt rec 0 8)
  if w = 0 then some s
  else match s.bindTarget w with
    | .error _ => none
    | .ok r =>
      let port := wf w 5 0
      let out := bytesAt rec 10 1 == 1
      let cap := 4 * (bytesAt rec 8 1 % 4 + 1)
      if (r.port port).out != out || (out && r.bqwFed port) || decide (s.freeSlots (coreOf s.cur) < cap) then none
      else
        let occ := min (bytesAt rec 15 1) cap
        let asm := readToken (toks.drop 2304)
        let q : Queue := ⟨BitVec.ofNat 16 r.handle, port, ⟨wf w 17 16 % 4, Nat.mod_lt _ (by decide)⟩, out, EType.ofCode (bytesAt rec 11 1 % 16), cap, bytesAt rec 9 1 == 1, false,
          (List.range occ).map (fun i => (readToken (toks.drop (144 * i)), s.nextId, false)), asm.lanes, asm.valid, bytesAt rec 12 1 % 16,
          BitVec.ofNat 15 (bytesAt rec 13 2), BitVec.ofNat 32 (bytesAt rec 16 4), BitVec.ofNat 32 (bytesAt rec 20 4), BitVec.ofNat 32 (bytesAt rec 24 4), none⟩
        some (s.onMe (fun th => { th with qs := tput th.qs k q }))

def State.bqAgain (s : State) (rec ents : List Byte) : Option State :=
  let w := BitVec.ofNat 64 (bytesAt rec 0 8)
  if w = 0 then some s
  else match s.bindTarget w with
    | .error _ => none
    | .ok r =>
      let port := wf w 5 0
      if !(r.port port).out || !r.bqwFed port then none
      else
        let b : Bq := ⟨BitVec.ofNat 16 r.handle, port, ⟨wf w 17 16 % 4, Nat.mod_lt _ (by decide)⟩, bytesAt rec 9 1 == 1, false,
          (List.range (min 32 (bytesAt rec 15 1))).map (fun i => BitVec.ofNat 64 (bytesAt ents (8 * i) 8)), BitVec.ofNat 32 (bytesAt rec 16 4),
          BitVec.ofNat 32 (bytesAt rec 20 4), BitVec.ofNat 32 (bytesAt rec 24 4)⟩
        some (s.onMe (fun th => { th with bq := some b }))

/-- Where a restored stream's last marker stood (R373). The first places of the dimension of level 7, which ends with each marker, follow from the
position; the area holds nothing else of it: without such a dimension a load stream has passed no marker, and a store stream's place, like the
token count at every marker passed, is left open (log 22). -/
def Stream.markAgain (x : Stream) (k : Nat) : Stream :=
  let zeros : List Nat := List.replicate x.exts.length 0
  let idx : List Nat := match x.stops.findIdx? (fun l => l == 7) with
    | some d => List.replicate (d + 1) 0 ++ x.idx.drop (d + 1)
    | none => if x.store then idxOf (Config.savedField k % (posOf x.idx x.exts + 1)) x.exts else zeros
  { x with markIdx := idx, markCount := if idx.all (fun n => n == 0) then 0 else Config.savedField (k + 1) % (x.count + 1) }

/-- A stream slot comes back, its triple bound again where its state holds one; the mode it runs in is that of the interrupted program (log 23). -/
def State.streamAgain (s : State) (k : Nat) (b : List Byte) : Option State :=
  let st := SlotState.ofCode (bytesAt b 272 1)
  let desc := b.take 64
  let mode := Mode.ofBits s.me.prev s.freeCtr
  if st = .free then some s
  else if bytesAt b 64 208 = 0 then
    let c := { chainOf desc (BitVec.ofNat 8 (bytesAt b 400 1)) with state := st, fkind := bytesAt b 273 1, count := bytesAt b 296 8 }
    if liveSlot st && (s.chainTargets c).isSome then none else some (s.setChain s.cur k c)
  else
    let x := streamOf desc ((b.drop 64).take 208) (BitVec.ofNat 8 (bytesAt b 400 1)) mode (dieOf s.cur).val s.nextId s.me.dclk.toList
    let idx := (List.range x.exts.length).map (fun i => bytesAt b (304 + 8 * i) 8)
    let x : Stream := { x with
      state := st, fkind := bytesAt b 273 1, faddr := ptrAt b 280, count := bytesAt b 296 8, idx := idx, sent := posOf idx x.exts, finished := st == .done, out := [] }
    let x := x.markAgain s.freeCtr
    let s := { s with freeCtr := s.freeCtr + 2 }
    if !liveSlot st then some (s.setStream s.cur k x)
    else match s.engineTarget x.region.toNat x.port x.ctx.val x.store x.shape.etype with
      | .error _ => none
      | .ok r =>
        if r.die ≠ dieOf s.cur then none
        else
          let s := if st = .fault ∧ !x.store ∧ r.feedsKstep x.port ∧ !r.brakeBy.contains (s.cur, k) then s.setRegion r.key { r with brakeBy := (s.cur, k) :: r.brakeBy } else s
          some ({ s.setStream s.cur k x with nextId := s.nextId + 1 })

/-- A pool slot comes back. The area holds its descriptor and next bag alone: the rest is left open (log 22). -/
def State.poolAgain (s : State) (k : Nat) (b : List Byte) : Option State :=
  if bytesAt b 0 128 = 0 then some s
  else
    let f (n : Nat) : Nat := Config.savedField (s.freeCtr + n)
    let bag := bytesAt b 108 4
    let desc := b.take 108 ++ leBytes 0 20
    let p : Pool := ⟨.fault, desc, bag, f 0 % 2 ^ 16, BitVec.ofNat 7 (f 1), f 2 % 8 + 1, BitVec.ofNat 8 (f 3), Mode.ofBits s.me.prev s.freeCtr, false, s.nextId, none, s.me.dclk.toList,
      none, none, 0⟩
    let p : Pool := { p with rgn := s.tokenRegion p.triple }
    let p := if p.nbags ≤ bag then { p with state := .done } else if f 4 % 2 = 0 then p else { p with state := .aborted }
    let bad := match p.triple with
      | some (h, port, c) => p.holds && (s.tokenTarget h port c).isSome
      | none => false
    if bad then none else some { s.setPool s.cur k p with nextId := s.nextId + 1, freeCtr := s.freeCtr + 5 }

/-- A copy slot comes back. -/
def State.copyAgain (s : State) (k : Nat) (b : List Byte) : Option State :=
  let st := SlotState.ofCode (bytesAt b 80 1)
  if st = .free then some s
  else
    let dl := bytesAt b 64 8
    let c : Copy := ⟨st, b.take 64, if dl = 2 ^ 64 - 1 then none else some dl, bytesAt b 72 8, bytesAt b 81 1, BitVec.ofNat 8 (Config.savedField s.freeCtr),
      Mode.ofBits s.me.prev s.freeCtr, false, s.nextId, false, false, 0⟩
    let c : Copy := { c with rgn := s.tokenRegion c.triple }
    let bad := match c.triple with
      | some (h, port, x) => c.holds && (s.tokenTarget h port x).isSome
      | none => false
    if bad then none else some { s.setCopy s.cur k c with nextId := s.nextId + 1, freeCtr := s.freeCtr + 1 }

/-- Slots in order, as far as each comes back. -/
def slotsAgain (n base size : Nat) (b : List Byte) (f : State → Nat → List Byte → Option State) (s : Option State) : Option State :=
  (List.range n).foldl (fun (acc : Option State) k => acc.bind (fun s => f s k ((b.drop (base + size * k)).take size))) s

/-- The whole thread part comes back, or reason 37. -/
def State.threadAgain (s : State) (b : List Byte) : Option State :=
  let s := s.onMe (fun th => { th with
    seen := max th.seen (s.die (dieOf s.cur)).dlt
    gen := BitVec.ofNat 8 (bytesAt b 6 1), ev := (bytesAt b 7 1).testBit 0, claims := readClaims (Mode.ofBits s.me.prev s.freeCtr == .firmware) b
    dclk := Vector.ofFn (fun i => readClock (b.drop (104 + 16 * i.val))) })
  let s := (List.range 32).foldl (fun (acc : Option State) k =>
    acc.bind (fun s => s.bindAgain k ((b.drop (7424 + 32 * k)).take 32) ((b.drop (8448 + 2448 * k)).take 2448))) (some s)
  let s := s.bind (fun s => s.bqAgain ((b.drop 256).take 32) ((b.drop 7168).take 256))
  let s := slotsAgain 8 1024 512 b State.streamAgain s
  let s := slotsAgain 8 5120 128 b State.poolAgain s
  slotsAgain 8 6144 128 b State.copyAgain s

/-! ### The thread part of CTXSAVE and CTXRST (R377, R379) -/

/-- A slot of the thread that is in RUN; a slot that is not FREE. -/
def Thread.slotRuns (th : Thread) : Bool :=
  th.ss.any (fun e => e.2.state == .run) || th.pools.any (fun e => decide (e.1 < 8) && e.2.state == .run) || th.copies.any (fun e => decide (e.1 < 8) && e.2.state == .run)
def Thread.slotHeld (th : Thread) : Bool := !th.ss.isEmpty || th.pools.any (fun e => decide (e.1 < 8)) || th.copies.any (fun e => decide (e.1 < 8))

/-- The thread part is over: the thread goes on with a value in x[rd]. -/
def State.threadDone (s : State) (d : Fin 32) (n : Nat) : State := s.thawMe.onMe (fun th => (th.setX d (BitVec.ofNat 64 n)).advance)

/-- The thread part is written, and the thread's hardware state is its own no more. -/
def State.saveThread (s : State) (pages : List AreaPage) (d : Fin 32) : State :=
  let area := padTo threadArea s.me.area
  let s := s.me.ss.foldl (fun (s : State) e => s.freePieces s.cur e.1) (s.leaveQueues s.cur (s.me.qs.map (·.2)))
  ((s.onMe Thread.saved).writeArea s.cur pages threadArea 0 area).drainArea threadArea (fun s v => s.threadDone d v)

/-- The thread part is read back: poison, reason 36, reason 37 (R377 to R379). -/
def State.restoreThread (s : State) (pages : List AreaPage) (d : Fin 32) (va : Addr) : State :=
  let b := s.readArea pages 0 threadArea
  match s.poisonIn pages [(0, threadArea)] with
  | some off =>
    (((s.countUncorr (s.partOf s.cur) (areaPa pages off)).threadDone d 0)).raise s.cur 0x13 (lo64 (va + BitVec.ofNat 80 off))
  | none =>
    if bytesAt b 0 4 ≠ 0x32435853 ∨ bytesAt b 4 2 ≠ 1 ∨ bytesAt b 232 8 ≠ threadArea then s.thawMe.refuse 36
    else match s.threadAgain b with
      | none => s.thawMe.refuse 37
      | some s' => s'.threadDone d threadArea

/-- CTXSAVE and CTXRST of the issuing thread: reasons 33, 35, 36, 37 (R377). -/
def State.ctxThread (s : State) (save : Bool) (d : Fin 32) (va : Addr) : State :=
  if s.me.drains then s.drainArea (s.me.reply.getD 0) (fun s v => s.threadDone d v)
  else if va.toNat % 0x4000 ≠ 0 then s.refuse 33
  else match s.myPages save 0 va (pageCount threadArea) with
    | .ok l s =>
      let pages := l.reverse
      if save then if s.me.slotRuns then s.thawMe.refuse 35 else s.saveThread pages d
      else if !s.me.qs.isEmpty || s.me.bq.isSome || s.me.slotHeld || !s.me.claims.isEmpty then s.thawMe.refuse 35
      else s.restoreThread pages d va
    | k => k.stop State.thawMe

/-- A CTX instruction: privilege, reason 32, then its part. -/
def State.ctxOp (s : State) (save : Bool) (i : Instr) (d r : Fin 32) (a : Fin 16) : Out :=
  let w := s.me.getX r
  if s.me.cur = .worker then .next (s.privTrap ((encode i).getD 0))
  else if !saveWordOk w then .next (s.refuse 32)
  else if wf w 63 63 = 1 then .next (s.ctxThread save d (s.me.getA a))
  else .next (s.ctxRegion save d w (s.me.getA a))

/-- CTXSAVE of a region (R378). -/
def execCtxsaveRegion (d r : Fin 32) (a : Fin 16) (st : State) : Out := st.ctxOp true (.ctxsaveRegion d r a) d r a

/-- CTXRST of a region (R378). -/
def execCtxrstRegion (d r : Fin 32) (a : Fin 16) (st : State) : Out := st.ctxOp false (.ctxrstRegion d r a) d r a

/-- CTXSAVE of the issuing thread (R379). -/
def execCtxsaveThread (d r : Fin 32) (a : Fin 16) (st : State) : Out := st.ctxOp true (.ctxsaveRegion d r a) d r a

/-- CTXRST of the issuing thread (R379). -/
def execCtxrstThread (d r : Fin 32) (a : Fin 16) (st : State) : Out := st.ctxOp false (.ctxrstRegion d r a) d r a

end Sys2Proof.Machine
end

