-- ==== Sys2Proof/Machine/Control.lean ====
section
/-!
DEFINITION. Flow of control: branches and jumps (R92 to R94), the branch queue and the likely path (R95, R96, R98, R174).
-/
namespace Sys2Proof.Machine

/-- Go to a checked target, doing something to the thread first; a bad target traps with nothing done (R82). -/
def State.transfer (s : State) (t : Addr) (f : Thread → Thread) : State :=
  if targetOk t then s.onMe (fun th => (f th).goTo t) else s.trapSync 0x03 (lo64 t)

/-- A conditional branch (R92). -/
def State.branch (s : State) (c : Word → Word → Bool) (a b : Fin 32) (o : BitVec 16) : Out :=
  let pc := s.me.pc
  .next (s.transfer (if c (s.me.getX a) (s.me.getX b) then relTarget pc o else pc + 4) id)

/-- BEQ (R92). -/
def execBeq (r t : Fin 32) (o : BitVec 16) (st : State) : Out := st.branch (fun a b => a == b) r t o

/-- BNE (R92). -/
def execBne (r t : Fin 32) (o : BitVec 16) (st : State) : Out := st.branch (fun a b => a != b) r t o

/-- BLT (R92). -/
def execBlt (r t : Fin 32) (o : BitVec 16) (st : State) : Out := st.branch (fun a b => a.slt b) r t o

/-- BGE (R92). -/
def execBge (r t : Fin 32) (o : BitVec 16) (st : State) : Out := st.branch (fun a b => !a.slt b) r t o

/-- BLTU (R92). -/
def execBltu (r t : Fin 32) (o : BitVec 16) (st : State) : Out := st.branch (fun a b => a.ult b) r t o

/-- BGEU (R92). -/
def execBgeu (r t : Fin 32) (o : BitVec 16) (st : State) : Out := st.branch (fun a b => !a.ult b) r t o

/-- J (R93). -/
def execJ (o : BitVec 26) (st : State) : Out := .next (st.transfer (relTarget st.me.pc o) id)

/-- JAL (R93): a15 receives the return address unless the target check traps. -/
def execJal (o : BitVec 26) (st : State) : Out := .next (st.transfer (relTarget st.me.pc o) (fun th => th.setA 15 (th.pc + 4)))

/-- JALR (R94). -/
def execJalr (d a : Fin 16) (i : BitVec 16) (st : State) : Out :=
  .next (st.transfer (st.me.getA a + simm80 i) (fun th => th.setA d (th.pc + 4)))

/-! ### The branch queue -/

/-- Pop the head of bq. -/
def Thread.popBq (th : Thread) : Thread := { th with bq := th.bq.map (fun b => { b with entries := b.entries.tail }) }

/-- BQB once bq is bound: wait for an entry, pop it and branch (R95); the pops of a frozen region's bq wait (R368). -/
def State.bqb (s : State) (d : Fin 32) (o : BitVec 16) (b : Bq) : State :=
  match b.entries with
  | [] => s.waitFor .bqEmpty
  | v :: _ =>
    let t := if v ≠ 0 then relTarget s.me.pc o else s.me.pc + 4
    if s.frozenAt s.cur b.region then s.waitFor .region
    else if targetOk t then (s.onMe (fun th => ((th.popBq).setX d v).goTo t)).acquire s.cur else s.trapSync 0x03 (lo64 t)

/-- BQB (R95). -/
def execBqb (d : Fin 32) (o : BitVec 16) (st : State) : Out :=
  match st.me.bq with
  | none => .next (st.queueTrap 0xFF 1)
  | some b => .next (st.bqb d o b)

/-- The checkpoint a likely path opens with (R96). -/
def Thread.checkpoint (th : Thread) (d : Fin 32) : Path := ⟨th.x, th.a, th.v, th.m, th.qs, th.pc, d, false, th.ahead, th.flags, 0, false⟩

/-- BQB.LK (R96): with bq empty and a good target it opens a likely path on which the branch is taken; else it is BQB. -/
def execBqbLk (d : Fin 32) (o : BitVec 16) (st : State) : Out :=
  match st.me.bq with
  | none => .next (st.queueTrap 0xFF 1)
  | some b =>
    let t := relTarget st.me.pc o
    if b.entries.isEmpty && targetOk t && st.me.path.isNone then
      .next (st.onMe (fun th => { th with path := some (th.checkpoint d), gen := th.gen + 1 }.goTo t))
    else .next (st.bqb d o b)

/-- BQPOP (R174). -/
def execBqpop (d : Fin 32) (st : State) : Out :=
  match st.me.bq with
  | none => .next (st.queueTrap 0xFF 1)
  | some b =>
    match b.entries with
    | [] => .next (st.waitFor .bqEmpty)
    | v :: _ => if st.frozenAt st.cur b.region then .next (st.waitFor .region) else .next ((st.onMe (fun th => ((th.popBq).setX d v).advance)).acquire st.cur)

/-- LIKELY_PATH_RESOLUTION (R98): an entry has reached bq while a path is open. -/
def execLikelyPathResolution (t : Nat) (st : State) : Out :=
  let th := st.thread t
  match th.path, th.bq with
  | some p, some b =>
    match b.entries with
    | [] => .next st
    | v :: _ =>
      if v ≠ 0 then
        let f (th : Thread) : Thread :=
          let th : Thread := { th.popBq with path := none, ev := th.ev || p.ev, qs := th.qs.map (fun e : Nat × Queue => (e.1, { e.2 with toks := e.2.toks.map (fun k => (k.1, k.2.1, false)) })) }
          let th : Thread := if p.wrote then th else th.setX p.rd v
          match th.wait with
          | some w => if w.kind = .likely then { th with wait := none } else th
          | none => th
        .next ((st.onThread t f).acquire t)
      else
        let s := st.dropPath t
        let back := p.pc + 4
        if targetOk back then .next ((s.onThread t (fun th => (th.popBq.setX p.rd v).goTo back)).acquire t)
        else .next (s.onThread t (fun th => th.goTo p.pc))
  | _, _ => .next st

end Sys2Proof.Machine
end

