-- ==== Sys2Proof/Machine/ElemInt.lean ====
section
/-!
DEFINITION. Element integer operations (R222), compares and predicates (R226 to R228), bit fields (R245).
-/
namespace Sys2Proof.Machine

/-- A lane operation of the integer group on the two operands' bits, wrapping to w bits. -/
def int2 (i : Instr) (e : EWord) (f : Nat → Int → Int → Int) (s : State) : Out :=
  elem1 i e (wT e) (fun x => x.map2 e (wT e) (fun _ a b => ⟨wrapInt (wW e) (f (wW e) (readInt (wW e) true a.toNat) (readInt (wW e) true b.toNat)), 0⟩)) s

/-- The same on unsigned operands. -/
def uint2 (i : Instr) (e : EWord) (f : Nat → Nat → Nat → Nat) (s : State) : Out :=
  elem1 i e (wT e) (fun x => x.map2 e (wT e) (fun _ a b => ⟨f (wW e) (low (wW e) a) (low (wW e) b) % 2 ^ wW e, 0⟩)) s

/-- The same on one operand. -/
def int1 (i : Instr) (e : EWord) (f : Nat → Int → Int) (s : State) : Out :=
  elem1 i e (wT e) (fun x => x.map1 e (wT e) (fun _ a => ⟨wrapInt (wW e) (f (wW e) (readInt (wW e) true a.toNat)), 0⟩)) s
def uint1 (i : Instr) (e : EWord) (f : Nat → Nat → Nat) (s : State) : Out :=
  elem1 i e (wT e) (fun x => x.map1 e (wT e) (fun _ a => ⟨f (wW e) (low (wW e) a) % 2 ^ wW e, 0⟩)) s

/-- A compare writes 1 or 0 in a predicate token (R216, R226). -/
def icmp (i : Instr) (e : EWord) (f : Int → Int → Bool) (signed : Bool) (s : State) : Out :=
  elem1 i e .i8 (fun x => x.map2 e .i8 (fun _ a b => ⟨(f (readInt (wW e) signed a.toNat) (readInt (wW e) signed b.toNat)).toNat, 0⟩)) s

/-- IADD (R222). -/
def execIadd (e : EWord) (st : State) : Out := int2 (.iadd e) e (fun _ a b => a + b) st

/-- ISUB (R222). -/
def execIsub (e : EWord) (st : State) : Out := int2 (.isub e) e (fun _ a b => a - b) st

/-- IMUL (R222). -/
def execImul (e : EWord) (st : State) : Out := int2 (.imul e) e (fun _ a b => a * b) st

/-- IMIN (R222). -/
def execImin (e : EWord) (st : State) : Out := int2 (.imin e) e (fun _ a b => if a < b then a else b) st

/-- IMAX (R222). -/
def execImax (e : EWord) (st : State) : Out := int2 (.imax e) e (fun _ a b => if a < b then b else a) st

/-- IMULH (R222): bits [2w-1:w] of the signed product. -/
def execImulh (e : EWord) (st : State) : Out := int2 (.imulh e) e (fun w a b => a * b / 2 ^ w) st

/-- IADDS (R222): clamped to the signed range, SA when clamped. -/
def execIadds (e : EWord) (st : State) : Out := 
  elem1 (.iadds e) e (wT e) (fun x => x.map2 e (wT e) (fun _ a b =>
    clampInt (wW e) true (readInt (wW e) true a.toNat + readInt (wW e) true b.toNat))) st

/-- ISUBS (R222): clamped to the signed range, SA when clamped. -/
def execIsubs (e : EWord) (st : State) : Out := 
  elem1 (.isubs e) e (wT e) (fun x => x.map2 e (wT e) (fun _ a b =>
    clampInt (wW e) true (readInt (wW e) true a.toNat - readInt (wW e) true b.toNat))) st

/-- IMAD (R222). -/
def execImad (e : EWord) (st : State) : Out := 
  elem1 (.imad e) e (wT e) (fun x => x.map3 e (wT e) (fun _ a b c => ⟨(low (wW e) a * low (wW e) b + low (wW e) c) % 2 ^ wW e, 0⟩)) st

/-- IABS (R222): the most negative value gives itself. -/
def execIabs (e : EWord) (st : State) : Out := int1 (.iabs e) e (fun _ a => if a < 0 then -a else a) st

/-- INEG (R222). -/
def execIneg (e : EWord) (st : State) : Out := int1 (.ineg e) e (fun _ a => -a) st

/-- ISHL (R222). -/
def execIshl (e : EWord) (st : State) : Out := uint2 (.ishl e) e (fun w a b => a * 2 ^ (b % w)) st

/-- ISHR (R222). -/
def execIshr (e : EWord) (st : State) : Out := uint2 (.ishr e) e (fun w a b => a / 2 ^ (b % w)) st

/-- ISAR (R222): floor division by a power of two shifts in copies of the sign bit. -/
def execIsar (e : EWord) (st : State) : Out := 
  elem1 (.isar e) e (wT e) (fun x => x.map2 e (wT e) (fun _ a b => ⟨wrapInt (wW e) (readInt (wW e) true a.toNat / 2 ^ (low (wW e) b % wW e)), 0⟩)) st

/-- IAND (R222). -/
def execIand (e : EWord) (st : State) : Out := uint2 (.iand e) e (fun _ a b => Nat.land a b) st

/-- IOR (R222). -/
def execIor (e : EWord) (st : State) : Out := uint2 (.ior e) e (fun _ a b => Nat.lor a b) st

/-- IXOR (R222). -/
def execIxor (e : EWord) (st : State) : Out := uint2 (.ixor e) e (fun _ a b => Nat.xor a b) st

/-- INOT (R222). -/
def execInot (e : EWord) (st : State) : Out := uint1 (.inot e) e (fun w a => 2 ^ w - 1 - a) st

/-- ICLZ (R222). -/
def execIclz (e : EWord) (st : State) : Out := uint1 (.iclz e) e clzN st

/-- IPOPC (R222). -/
def execIpopc (e : EWord) (st : State) : Out := uint1 (.ipopc e) e popN st

/-- IMINU (R222). -/
def execIminu (e : EWord) (st : State) : Out := uint2 (.iminu e) e (fun _ a b => Nat.min a b) st

/-- IMAXU (R222). -/
def execImaxu (e : EWord) (st : State) : Out := uint2 (.imaxu e) e (fun _ a b => Nat.max a b) st

/-- ICMP.EQ (R226). -/
def execIcmpEq (e : EWord) (st : State) : Out := icmp (.icmpEq e) e (fun a b => decide (a = b)) true st

/-- ICMP.NE (R226). -/
def execIcmpNe (e : EWord) (st : State) : Out := icmp (.icmpNe e) e (fun a b => decide (a ≠ b)) true st

/-- ICMP.LT (R226). -/
def execIcmpLt (e : EWord) (st : State) : Out := icmp (.icmpLt e) e (fun a b => decide (a < b)) true st

/-- ICMP.LE (R226). -/
def execIcmpLe (e : EWord) (st : State) : Out := icmp (.icmpLe e) e (fun a b => decide (a ≤ b)) true st

/-- ICMP.LTU (R226). -/
def execIcmpLtu (e : EWord) (st : State) : Out := icmp (.icmpLtu e) e (fun a b => decide (a < b)) false st

/-- ICMP.LEU (R226). -/
def execIcmpLeu (e : EWord) (st : State) : Out := icmp (.icmpLeu e) e (fun a b => decide (a ≤ b)) false st

/-- Bit 0 of a lane. -/
def bit0 (w : Word) : Bool := w.getLsbD 0

/-- PAND (R228). -/
def execPand (e : EWord) (st : State) : Out := elem1 (.pand e) e .i8 (fun x => x.map2 e .i8 (fun _ a b => ⟨(bit0 a && bit0 b).toNat, 0⟩)) st

/-- POR (R228). -/
def execPor (e : EWord) (st : State) : Out := elem1 (.por e) e .i8 (fun x => x.map2 e .i8 (fun _ a b => ⟨(bit0 a || bit0 b).toNat, 0⟩)) st

/-- PNOT (R228). -/
def execPnot (e : EWord) (st : State) : Out := elem1 (.pnot e) e .i8 (fun x => x.map1 e .i8 (fun _ a => ⟨(!bit0 a).toNat, 0⟩)) st

/-- POS, LEN and SX of a field descriptor (R245). -/
def fieldOf (d : Word) : Nat × Nat × Bool := (wf d 5 0, Nat.min 64 (wf d 12 6), wf d 13 13 = 1)

/-- BFX (R245): the field zero- or sign-extended and cut to w bits. -/
def execBfx (e : EWord) (st : State) : Out := 
  elem1 (.bfx e) e (wT e) (fun x => x.map2 e (wT e) (fun _ a d =>
    let (pos, len, sx) := fieldOf d
    let f := low (wW e) a / 2 ^ pos % 2 ^ len
    ⟨(if sx && decide (0 < len) then wrapInt 64 (readInt len true f) else f) % 2 ^ wW e, 0⟩)) st

/-- BFI (R245): L with the field replaced by the low LEN bits of T. -/
def execBfi (e : EWord) (st : State) : Out := 
  elem1 (.bfi e) e (wT e) (fun x => x.map3 e (wT e) (fun _ a d v =>
    let (pos, len, _) := fieldOf d
    let mask := (2 ^ len - 1) * 2 ^ pos % 2 ^ wW e
    ⟨low (wW e) a - Nat.land (low (wW e) a) mask + Nat.land (v.toNat % 2 ^ len * 2 ^ pos) mask, 0⟩)) st

end Sys2Proof.Machine
end

