-- ==== Sys2Proof/Machine/Fp.lean ====
section
/-!
DEFINITION. Scalar floating point of access threads (R118 to R124).
-/
namespace Sys2Proof.Machine

/-- FADD (R119). -/
def execFadd (d s t : Fin 32) (rm : FpRm) (f : FpFmt) (st : State) : Out :=
  fpRounded (.fadd d s t rm f) d rm (fun m th => f.fmt.add m .zero (f.operand (th.getX s)) (f.operand (th.getX t))) st

/-- FSUB (R119). -/
def execFsub (d s t : Fin 32) (rm : FpRm) (f : FpFmt) (st : State) : Out :=
  fpRounded (.fsub d s t rm f) d rm (fun m th => f.fmt.sub m .zero (f.operand (th.getX s)) (f.operand (th.getX t))) st

/-- FMUL (R119). -/
def execFmul (d s t : Fin 32) (rm : FpRm) (f : FpFmt) (st : State) : Out :=
  fpRounded (.fmul d s t rm f) d rm (fun m th => f.fmt.mul m .zero (f.operand (th.getX s)) (f.operand (th.getX t))) st

/-- FDIV (R119). -/
def execFdiv (d s t : Fin 32) (rm : FpRm) (f : FpFmt) (st : State) : Out :=
  fpRounded (.fdiv d s t rm f) d rm (fun m th => f.fmt.div m .zero (f.operand (th.getX s)) (f.operand (th.getX t))) st

/-- FSQRT (R119). -/
def execFsqrt (d s : Fin 32) (rm : FpRm) (f : FpFmt) (st : State) : Out :=
  fpRounded (.fsqrt d s rm f) d rm (fun m th => f.fmt.sqrt m .zero (f.operand (th.getX s))) st

/-- FMA (R119): the addend is rd, and x0 reads as +0. -/
def execFma (d s t : Fin 32) (rm : FpRm) (f : FpFmt) (st : State) : Out :=
  fpRounded (.fma d s t rm f) d rm
    (fun m th => f.fmt.fma m .zero false false (f.operand (th.getX s)) (f.operand (th.getX t)) (f.operand (th.getX d))) st

/-- FMIN (R120). -/
def execFmin (d s t : Fin 32) (f : FpFmt) (st : State) : Out :=
  .next (st.fpRetire d (f.fmt.minmax false (f.operand (st.me.getX s)) (f.operand (st.me.getX t))))

/-- FMAX (R120). -/
def execFmax (d s t : Fin 32) (f : FpFmt) (st : State) : Out :=
  .next (st.fpRetire d (f.fmt.minmax true (f.operand (st.me.getX s)) (f.operand (st.me.getX t))))

def condCmp : FpCond → Cmp
  | .eq => .eq
  | .lt => .lt
  | .le => .le
  | .un => .un

/-- FCMP (R121). -/
def execFcmp (d s t : Fin 32) (c : FpCond) (f : FpFmt) (st : State) : Out :=
  .next (st.fpRetire d (f.fmt.compare (condCmp c) (f.operand (st.me.getX s)) (f.operand (st.me.getX t))))

/-- The register form of a converted value (R118, R123): I32 is sign-extended. -/
def fcvtReg (e : EType) (n : Nat) : Nat := if e = .i32 then ((BitVec.ofNat 32 n).signExtend 64).toNat else n

/-- FCVT (R123): direction 0 converts FMT to the type of rs2, direction 1 that type to FMT. -/
def execFcvt (d s : Fin 32) (e : EType) (v : Bool) (rm : FpRm) (f : FpFmt) (st : State) : Out :=
  fpRounded (.fcvt d s e v rm f) d rm
    (fun m th =>
      if v then convert f.etype false m .zero (decodeElem e (th.getX s).toNat)
      else
        let r := convert e false m .zero (decodeElem f.etype (f.operand (th.getX s)))
        { r with bits := fcvtReg e r.bits }) st

/-- The class word of an operand (R122). -/
def classWord (f : Fmt) (n : Nat) : Nat :=
  let sign := n / 2 ^ (f.eb + f.fb) % 2
  let (kind, ex) : Nat × Int := match f.decode n with
    | .nan sig => (if sig then 5 else 4, 0)
    | .inf _ => (3, 0)
    | .fin _ m e =>
      if m = 0 then (0, 0)
      else (if m < 2 ^ f.fb then 1 else 2, e + Nat.log2 m)
  wrapInt 16 ex * 2 ^ 16 + sign * 8 + kind

/-- FCLASS (R122): raises no flag. -/
def execFclass (d s : Fin 32) (f : FpFmt) (st : State) : Out :=
  .next (st.fpRetire d ⟨classWord f.fmt (f.operand (st.me.getX s)), 0⟩)

end Sys2Proof.Machine
end

