-- ==== Sys2Proof/Machine/Remote.lean ====
section
/-!
DEFINITION. Events of queues and links: delivery into and acceptance from the fabric (R161, R170, R171), stalls and loss of decoupling (R175, R177),
remote queues (R183 to R186), flits and link ports (R383 to R385, R428).
-/
namespace Sys2Proof.Machine

/-! ### Queue ports (R161, R170, R171, R184) -/

/-- A chained queue's crossing is open (R184, R186, R363). -/
def State.remoteOpen (s : State) (t : Nat) (r : RemoteQ) : Bool :=
  r.paired && !r.dead && (s.link r.link.val).up && (s.part (s.partOf t)).crossingOpen r.peer

/-- A SEND end sends its oldest token while no STOP holds it back; two of its tokens at most wait for their flit, where a STOP holds them too, so that no
more than the two of each of 256 unacknowledged flits follow a STOP that has left the receiving end (R184, R185, R384). -/
def State.sendRemote (s : State) (t k : Nat) (q : Queue) (r : RemoteQ) : State :=
  match q.toks with
  | (tok, _, _) :: rest =>
    if r.stopped || !s.remoteOpen t r || decide (2 ≤ (s.link r.link.val).staged (1, (r.key.truncate 16).toNat)) then s
    else
      let s := s.onThread t (fun th => { th with qs := tput th.qs k { q with toks := rest, remote := some { r with sent := r.sent + 1 } } })
      s.sendBeat r.link.val (.queue (r.key.truncate 16) tok)
  | [] => s

/-- QUEUE_PORT_DELIVERY (R161, R170, R171, R184): the oldest token of an input queue enters its channel, or that of a SEND end leaves. -/
def execQueuePortDelivery (t q : Nat) (st : State) : Out :=
  match tget (st.thread t).qs q with
  | none => .next st
  | some x =>
    match x.remote with
    | some r => if r.send then .next (st.sendRemote t q x r) else if st.remoteOpen t r then .next (enter x) else .next st
    | none => .next (enter x)
where
  enter (x : Queue) : State :=
    match x.toks, st.region (rkey (st.partOf t) x.region.toNat) with
    | (tok, stamp, staged) :: rest, some r =>
      if x.out || x.closed || staged || !st.earlierDone t stamp || (r.port x.port).out || r.restored x.port x.ctx.val || decide (4 ≤ (st.core (coreOf t)).gave) then st
      else match st.tryEnter r x.port x.ctx.val (queuePoint t q) tok with
        | .enters s =>
          (s.onThread t (fun th => { th with qs := tput th.qs q { x with toks := rest } })).onCore (coreOf t) (fun c => { c with gave := c.gave + 1 })
        | _ => st
    | _, _ => st

/-- QUEUE_ACCEPT (R161, R174): an output queue, or bq (any number from 32 on), takes the token at the end of its channel. An entry that reaches
bq while a likely path is open resolves it before anything else happens (R98). -/
def execQueueAccept (t q : Nat) (st : State) : Out :=
  let got := if q < 32 then (tget (st.thread t).qs q).bind (fun x => st.acceptQueue t q x) else (st.thread t).bq.bind (fun b => st.acceptBq t b)
  match st.acceptCounted t got with
  | none => .next st
  | some s => .next (if 32 ≤ q ∧ (s.thread t).path.isSome then { s with agenda := .likelyPathResolution t :: s.agenda } else s)

/-! ### Waits that stall (R175, R177) -/

/-- Queue number and kind of a wait that QUEUE_STALL may end. -/
def stallOf (k : WaitKind) : Option (Nat × Nat) :=
  match k with
  | .qEmpty q => some (q.val, 0)
  | .bqEmpty => some (0xFF, 0)
  | .qFull q => some (q.val, 1)
  | .unbind q => some (q.val, 3)
  | _ => none

/-- QUEUE_STALL at a waiting instruction of a thread. -/
def State.stall (s : State) (t queue kind : Nat) : State :=
  if (s.thread t).path.isSome then s.onThread t (fun th => th.waitFor .likely)
  else s.enterTrap t 0x07 false (BitVec.ofNat 64 (queue * 256 + kind)) (s.thread t).pc

/-- QUEUE_STALL (R177): the wait has lasted QWATCH cycles. -/
def execQueueStall (t : Nat) (st : State) : Out :=
  let th := st.thread t
  match th.wait.bind (fun w => (stallOf w.kind).map (fun e => (e, w.cycles))) with
  | some ((q, kind), n) => if th.qwatch ≠ 0 ∧ th.qwatch.toNat ≤ n then .next (st.stall t q kind) else .next st
  | none => .next st

/-- Every input queue of a thread on a region and context holds nothing (R175). -/
def Thread.nothingAhead (th : Thread) (region : BitVec 16) (ctx : Fin 4) : Bool :=
  th.qs.all (fun e => e.2.out || e.2.region != region || e.2.ctx != ctx || (e.2.toks.isEmpty && e.2.fill == 0))

/-- LOSS_OF_DECOUPLING (R175, R177): counted once per wait, in the first cycle in which its condition holds; with LT it stalls the instruction. -/
def execLossOfDecoupling (t : Nat) (st : State) : Out :=
  let th := st.thread t
  let seen (th : Thread) : Thread := { th with wait := th.wait.map (fun w => { w with lod := true }) }
  match th.wait with
  | some ⟨.qEmpty q, _, false⟩ =>
    match th.getQ q with
    | some x =>
      if th.nothingAhead x.region x.ctx then
        let s := st.onThread t (fun th => (seen th).setQ q { x with lod := x.lod + 1 })
        .next (if x.lt then s.stall t q.val 2 else s)
      else .next st
    | none => .next st
  | some ⟨.bqEmpty, _, false⟩ =>
    match th.bq with
    | some b =>
      if th.nothingAhead b.region b.ctx then
        let s := st.onThread t (fun th => { seen th with bq := some { b with lod := b.lod + 1 } })
        .next (if b.lt then s.stall t 0xFF 2 else s)
      else .next st
    | none => .next st
  | _ => .next st

/-! ### Remote queues (R184 to R186) -/

def State.remoteAt (s : State) (t q : Nat) : Option (Queue × RemoteQ) := (tget (s.thread t).qs q).bind (fun x => x.remote.map (fun r => (x, r)))
def State.setQueue (s : State) (t k : Nat) (q : Queue) : State := s.onThread t (fun th => { th with qs := tput th.qs k q })

/-- Physical address of a ring entry, in the pages that RQBIND found (log 39). -/
def RemoteQ.entryPa (r : RemoteQ) (n : Nat) : Nat := r.pages.getD (n % r.entries / 64) 0 + 256 * (n % r.entries % 64)

/-- A token enters a RECV end's queue: into an empty one it sets the event bit (R104). -/
def State.enterQueue (s : State) (t q : Nat) (x : Queue) (tok : Token) : State :=
  let y : Queue := { x with toks := x.toks ++ [(tok, 0, false)] }
  s.onThread t (fun th => ({ th with qs := tput th.qs q y } : Thread).noteEntry x y)

/-- REMOTE_TOKEN_ARRIVAL (R184, R185): into the queue, or into the ring where the queue is full or the ring holds tokens; acknowledged. -/
def execRemoteTokenArrival (t q : Nat) (tok : Token) (st : State) : Out :=
  match st.remoteAt t q with
  | none => .next st
  | some (x, r) =>
    if r.send || r.dead then .next st
    else
      let tok := { tok with ctx := x.ctx }
      let ack (s : State) : State := s.sendBeat r.link.val (.control (.tokensAcked (r.key.truncate 16) 1))
      if x.toks.length < x.cap ∧ r.ringLen = 0 then .next (ack (st.enterQueue t q x tok))
      else
        let s := st.writePhys (.ring t q) (st.partOf t) (r.entryPa (r.ringHead + r.ringLen)) (tok.payload ++ leBytes tok.sideband.toNat 8 ++ leBytes 0 120) 3
        .next (ack (s.setQueue t q { x with remote := some { r with ringLen := r.ringLen + 1 } }))

/-- RING_REENTRY (R185): the oldest ring entry, once it has been written, enters the queue. -/
def execRingReentry (t q : Nat) (st : State) : Out :=
  match st.remoteAt t q with
  | none => .next st
  | some (x, r) =>
    if r.send || r.ringLen == 0 || decide (x.cap ≤ x.toks.length) || st.busy (.ring t q) then .next st
    else
      let tok := readToken (memBytes st.mem (r.entryPa r.ringHead) 136)
      .next (st.enterQueue t q { x with remote := some { r with ringLen := r.ringLen - 1, ringHead := (r.ringHead + 1) % r.entries } } tok)

/-- STOP_GO (R185): a RECV end's ring has filled to half, or fallen to a quarter. -/
def execStopGo (t q : Nat) (st : State) : Out :=
  match st.remoteAt t q with
  | none => .next st
  | some (x, r) =>
    let key := r.key.truncate 16
    let set (b : Bool) : State := st.setQueue t q { x with remote := some { r with stopped := b } }
    if r.send then .next st
    else if !r.stopped && decide (r.entries / 2 ≤ r.ringLen) then .next ((set true).sendBeat r.link.val (.control (.stop key)))
    else if r.stopped && decide (r.ringLen ≤ r.entries / 4) then .next ((set false).sendBeat r.link.val (.control (.go key)))
    else .next st

/-- REMOTE_ACK (R186): the far end has acknowledged tokens of a SEND end. -/
def execRemoteAck (t q n : Nat) (st : State) : Out :=
  match st.remoteAt t q with
  | some (x, r) => if r.send then .next (st.setQueue t q { x with remote := some { r with acked := r.acked + n } }) else .next st
  | none => .next st

/-- REMOTE_PAIRING (R184, R186): the far end holds the same key and names this module and its port, or holds it no more; what it does is the far
module's (log 21). -/
def execRemotePairing (t q : Nat) (st : State) : Out :=
  match st.remoteAt t q with
  | some (x, r) =>
    if r.dead || !(st.link r.link.val).up || (st.link r.link.val).peer != r.peer then .next st
    else
      let (k, s) := st.fresh
      .next (s.setQueue t q { x with remote := some { r with paired := Config.choice k % 2 == 0 } })
  | none => .next st

/-! ### Link ports (R383 to R385) -/

/-- Ticks of two and of ten microseconds (log 6). -/
def ackTicks : Nat := 9400
def quietTicks : Nat := 47000

def beatsIn (b : Beat) : Nat := if b = .empty then 0 else 1

/-- Chained queues on a port whose key a beat names, as (thread, queue). -/
def State.queuesOn (s : State) (port : Nat) (key : BitVec 16) (send : Bool) : List (Nat × Nat) :=
  s.threads.flatMap (fun (e : Nat × Thread) => e.2.qs.filterMap (fun (x : Nat × Queue) => match x.2.remote with
    | some r => if r.link.val == port && r.key.truncate 16 == key && r.send == send then some (e.1, x.1) else none
    | none => none))

/-- Chains with a hop on a port, upward or downward, whose key a beat names. -/
def State.chainsOn (s : State) (port : Nat) (key : BitVec 16) (up : Bool) : List (Nat × Nat × Chain) :=
  s.threads.flatMap (fun (e : Nat × Thread) => e.2.ss.filterMap (fun (x : Nat × SSlot) => match x.2 with
    | .chain c => if c.state == .run && (if up then c.upLink else c.downLink) == some port && c.key16 == key then some (e.1, x.1, c) else none
    | _ => none))

/-- A token's beat whose pairing does not cross to its module now (R363): seen by the end that sends, or by the one that receives. -/
def State.beatShut (s : State) (port : Nat) (sending : Bool) (b : Beat) : Bool :=
  let shut (t : Nat) (module : BitVec 16) : Bool := !(s.part (s.partOf t)).crossingOpen module
  let chains (key : BitVec 16) : Bool := (s.chainsOn port key (!sending)).any (fun e => shut e.1 (if sending then e.2.2.dpeer else e.2.2.upeer))
  match b with
  | .queue key _ => (s.queuesOn port key sending).any (fun e => match s.remoteAt e.1 e.2 with
    | some (_, r) => shut e.1 r.peer
    | none => false)
  | .reduce key _ | .route key _ => chains key
  | _ => false

/-- A token's beat whose sending end a STOP holds back (R185, R388). -/
def State.beatStopped (s : State) (port : Nat) (b : Beat) : Bool :=
  match b with
  | .queue key _ => (s.queuesOn port key true).any (fun e => (s.remoteAt e.1 e.2).any (fun x => x.2.stopped))
  | .reduce key _ | .route key _ => (s.chainsOn port key false).any (fun e => e.2.2.stopped)
  | _ => false

/-- The die that a link port belongs to has been declared lost: the port carries nothing (R9, R381). -/
def State.portLost (s : State) (port : Nat) : Bool := (s.die (portDie port)).lost

/-- FLIT_SEND (R383, R384): two beats that may cross, or what there is, with the next SEQ and the latest SEQ received intact. -/
def execFlitSend (port : Fin 16) (st : State) : Out :=
  let l := st.link port.val
  if !l.up || st.portLost port.val || decide (256 ≤ l.unacked.length) then .next st
  else
    let free := (l.outbox.zipIdx.filter (fun e => !st.beatShut port.val true e.1 && !st.beatStopped port.val e.1)).take 2
    let b0 := (free.map (·.1)).head?.getD .empty
    let b1 := (free.map (·.1)).tail.head?.getD .empty
    let f : Flit := ⟨l.seq, l.ackOut, b0, b1⟩
    .next (st.onLink port.val (fun l => { l with
      outbox := (l.outbox.zipIdx.filter (fun e => !free.any (fun o => o.2 == e.2))).map (·.1), unacked := l.unacked ++ [(f, 0)], seq := l.seq + 1
      sent := (l.sent + beatsIn b0 + beatsIn b1) % 2 ^ 64, ackAt := if l.unacked.isEmpty then st.tick else l.ackAt }))

/-- Partitions that a port belongs to. -/
def State.partsOn (s : State) (port : Nat) : List (Fin 8) := fin8s.filter (fun p => (s.part p).state != .stopped && (s.part p).fld 0x1D0 port port == 1)

/-- A STOP or GO reaches the sending end. -/
def State.hear (s : State) (port : Nat) (key : BitVec 16) (stop : Bool) : State :=
  let s := (s.queuesOn port key true).foldl (fun (s : State) e => match s.remoteAt e.1 e.2 with
    | some (x, r) => s.setQueue e.1 e.2 { x with remote := some { r with stopped := stop } }
    | none => s) s
  (s.chainsOn port key false).foldl (fun (s : State) e => s.setChain e.1 e.2.1 { e.2.2 with stopped := stop }) s

/-- Time discipline from the master (R361): every die's drift is measured and slewed away; SYNC is 1 only while every die differs by less than the
guard band, and drift beyond it is reported (R327). -/
def State.discipline (s : State) (ns : Nat) : State :=
  if s.master then s
  else
    let drift (d : Fin 4) : Int := (ns : Int) - (s.gtime d : Int)
    let sync := fin4s.all (fun d => decide ((drift d).natAbs < s.guardBand))
    s.post (fin4s.map (fun d => .timeDiscipline d (drift d) sync) ++
      (fin4s.filter (fun d => decide (s.guardBand < (drift d).natAbs))).map (fun d => .driftBeyondGuard d (drift d).natAbs))

/-- What a control beat does (R383). -/
def State.control (s : State) (port : Nat) (c : Control) : State :=
  let peer := (s.link port).peer
  match c with
  | .stop key => s.hear port key true
  | .go key => s.hear port key false
  | .tokensAcked key n => s.post ((s.queuesOn port key true).map (fun e => .remoteAck e.1 e.2 n))
  | .join gang seq => s.post ((s.partsOn port).map (fun p => .joinReceived p gang seq peer))
  | .cancel gang seq => s.post ((s.partsOn port).map (fun p => .cancelReceived p gang seq))
  | .record server lidx r => s.recordArrives server lidx r
  | .time ns => s.discipline ns

/-- What a beat does. -/
def State.beat (s : State) (port : Nat) (b : Beat) : State :=
  let chains (key : BitVec 16) (tok : Token) (route : Bool) : State := match (s.chainsOn port key true).find? (fun e => e.2.2.route == route) with
    | some e => s.chainArrive e.1 e.2.1 e.2.2 tok
    | none => s
  match b with
  | .empty => s
  | .queue key tok => s.post ((s.queuesOn port key false).map (fun e => .remoteTokenArrival e.1 e.2 tok))
  | .reduce key tok => chains key tok false
  | .route key tok => chains key tok true
  | .control c => s.control port c

/-- A beat that has come: one whose pairing does not cross now waits, and so does what comes behind it in its pairing (R363). -/
def State.takeBeat (s : State) (port : Nat) (b : Beat) : State :=
  if s.beatShut port false b || ((Beat.pairing b).1 != 0 && (s.link port).inbox.any (fun o => Beat.pairing o == Beat.pairing b)) then
    s.onLink port (fun l => { l with inbox := l.inbox ++ [b] })
  else s.beat port b

/-- Beats that waited for a crossing go on once it is open. -/
def State.drainInbox (s : State) (port : Nat) : State :=
  let bs := (s.link port).inbox
  if bs.isEmpty then s else bs.foldl (fun (s : State) b => s.takeBeat port b) (s.onLink port (fun l => { l with inbox := [] }))

/-- Flits acknowledged: those up to a SEQ, modulo 2^16. An ACK that repeats the one before acknowledges nothing (log 21). -/
def Link.acked (l : Link) (ack : BitVec 16) (now : Nat) : Link :=
  if ack = l.ackIn then l else { l with ackIn := ack, unacked := l.unacked.filter (fun f => decide (256 ≤ (ack - f.1.seq).toNat)), ackAt := now }

/-- FLIT_RECEIVED (R384): a flit that fails its CRC or comes out of order is discarded. -/
def execFlitReceived (port : Fin 16) (f : Flit) (intact : Bool) (st : State) : Out :=
  let l := st.link port.val
  if !l.up || st.portLost port.val then .next st
  else if !intact then .next (st.onLink port.val (fun l => { l with crc := (l.crc + 1) % 2 ^ 64, heardAt := st.tick }))
  else if f.seq ≠ l.expect then .next (st.onLink port.val (fun l => { l with heardAt := st.tick }))
  else
    let s := st.onLink port.val (fun l => { l.acked f.ack st.tick with
      expect := l.expect + 1, ackOut := f.seq, received := (l.received + beatsIn f.beat0 + beatsIn f.beat1) % 2 ^ 64, heardAt := st.tick })
    .next ((s.takeBeat port.val f.beat0).takeBeat port.val f.beat1)

/-- A flit has been resent sixteen times without being acknowledged. -/
def Link.exhausted (l : Link) : Bool := l.unacked.any (fun f => decide (16 ≤ f.2))

/-- FLIT_RESEND (R384): no ACK has advanced for 2 µs, and every unacknowledged flit goes out once more; one that has gone out again sixteen times
takes the port down. -/
def execFlitResend (port : Fin 16) (st : State) : Out :=
  let l := st.link port.val
  if !l.up || st.portLost port.val || l.unacked.isEmpty then .next st
  else if l.exhausted then .next (st.post [.portDown port])
  else .next (st.onLink port.val (fun l => { l with
    unacked := l.unacked.map (fun f => (f.1, f.2 + 1)), resent := (l.resent + l.unacked.length) % 2 ^ 64, ackAt := st.tick }))

/-- A beat that LOST counts when it is dropped, with the partition that counts it (R385). -/
def State.lostBeat (s : State) (port : Nat) (b : Beat) : State :=
  match b with
  | .control (.record _ _ r) => s.bump r.part 0x3F0 127 96 1
  | .control (.join _ _) | .control (.cancel _ _) => match (s.partsOn port).head? with
    | some p => s.bump p 0x3F0 127 96 1
    | none => s
  | _ => s

/-- A thread's chained queues on a port, lowest first. -/
def Thread.chained (th : Thread) (port : Nat) : List (Nat × RemoteQ) :=
  th.qs.filterMap (fun e => e.2.remote.bind (fun r => if r.link.val = port then some (e.1, r) else none))

/-- A thread's chain slots with a hop on a port, stopped ones too. -/
def Thread.hopsOn (th : Thread) (port : Nat) : List (Nat × Chain) :=
  th.ss.filterMap (fun e => match e.2 with
    | .chain c => if liveSlot c.state && (c.upLink == some port || c.downLink == some port) then some (e.1, c) else none
    | _ => none)

/-- A queue that a dead link has stopped engages the brake of a region whose A or B port it feeds (R258). -/
def State.queueStops (s : State) (t k : Nat) (q : Queue) : State :=
  let key := rkey (s.partOf t) q.region.toNat
  match s.region key with
  | some r => if !q.out && r.feedsKstep q.port then (s.setRegion key { r with brakeBy := (t, 64 + k) :: r.brakeBy }).postAt 1 (.brakeEngage key false) else s
  | none => s

/-- What a thread with bindings across a port that goes down sees (R385): its queues stay bound and closed, its chains stop, and LINK_DOWN. -/
def State.threadLinkDown (s : State) (port t : Nat) : State :=
  let th := s.thread t
  let qs := th.chained port
  let hops := th.hopsOn port
  if qs.isEmpty && hops.isEmpty then s
  else
    let s := s.onThread t (fun th => { th with qs := th.qs.map (fun (e : Nat × Queue) => (e.1, { e.2 with remote := e.2.remote.map (fun r => if r.link.val = port then { r with dead := true } else r) })) })
    let s := qs.foldl (fun (s : State) e => match tget (s.thread t).qs e.1 with
      | some q => s.queueStops t e.1 q
      | none => s) s
    let s := hops.foldl (fun (s : State) e => if e.2.state == .fault then s else s.chainFault t e.1 e.2 9) s
    let (q, n) := match qs.head? with
      | some (k, r) => (k, r.acked % 2 ^ 32)
      | none => (0xFF, 0)
    s.raise t 0x17 (BitVec.ofNat 64 (n * 2 ^ 32 + q * 2 ^ 8 + port))

/-- A port goes down (R384, R385). -/
def State.linkDown (s : State) (port : Nat) : State :=
  let l := s.link port
  let s := (l.unacked.flatMap (fun f => [f.1.beat0, f.1.beat1]) ++ l.outbox).foldl (fun (s : State) b => s.lostBeat port b) s
  let s := s.onLink port (fun l => { l with state := 0, unacked := [], outbox := [] })
  (tkeys s.threads).foldl (fun (s : State) t => s.threadLinkDown port t) s

/-- PORT_DOWN (R384): a flit resent sixteen times, or nothing heard for 10 µs. -/
def execPortDown (port : Fin 16) (st : State) : Out :=
  let l := st.link port.val
  if l.up && (l.exhausted || decide (l.heardAt + quietTicks ≤ st.tick)) then .next (st.linkDown port.val) else .next st

end Sys2Proof.Machine
end

