-- ==== Sys2Proof/Machine/Xmss.lean ====
section
/-!
DEFINITION. Verification of the firmware image's signature (R425): XMSS-SHAKE256_20_256, with n = 32, w = 16 and tree height 20. The spec names the
scheme; its hash paddings, address layout and signature layout are those of NIST SP 800-208 and RFC 8391 (PRESUMED, log 46).
-/
namespace Sys2Proof.Machine

/-- A string of n bytes. -/
abbrev Bytes := List Byte

/-- A number as bytes, the highest first. -/
def beBytes (n : Nat) : Nat → Bytes
  | 0 => []
  | k + 1 => BitVec.ofNat 8 (n / 256 ^ k) :: beBytes n k

/-- A number from bytes, the highest first. -/
def ofBe (bs : Bytes) : Nat := bs.foldl (fun n b => 256 * n + b.toNat) 0

/-- The keyed hashes are SHAKE256 of a 32-byte number, the key and the message: 0 is F, 1 is H, 2 is H_msg, 3 is PRF. -/
def xmssHash (n : Nat) (key msg : Bytes) : Bytes := shake256 (beBytes n 32 ++ key ++ msg) 32

/-- A hash address: its type, and the four words that each type uses. Layer and tree are 0 in a single tree. -/
structure HashAddr where
  kind : Nat
  w4 : Nat
  w5 : Nat
  w6 : Nat
  deriving DecidableEq, Repr

/-- The address's bytes for a key, 0, or one of the masks, 1 and 2. -/
def HashAddr.bytes (a : HashAddr) (mask : Nat) : Bytes :=
  beBytes 0 12 ++ beBytes a.kind 4 ++ beBytes a.w4 4 ++ beBytes a.w5 4 ++ beBytes a.w6 4 ++ beBytes mask 4

def xmssPrf (seed : Bytes) (a : HashAddr) (mask : Nat) : Bytes := xmssHash 3 seed (a.bytes mask)

def xorBytes (a b : Bytes) : Bytes := (a.zip b).map (fun p => p.1 ^^^ p.2)

/-- Two nodes hashed into their parent. -/
def randHash (seed : Bytes) (a : HashAddr) (l r : Bytes) : Bytes :=
  xmssHash 1 (xmssPrf seed a 0) (xorBytes l (xmssPrf seed a 1) ++ xorBytes r (xmssPrf seed a 2))

/-- Steps of a WOTS+ chain from a place on. -/
def wotsChain (seed : Bytes) (a : HashAddr) : Nat → Nat → Bytes → Bytes
  | 0, _, x => x
  | n + 1, i, x =>
    let a := { a with w6 := i }
    wotsChain seed a n (i + 1) (xmssHash 0 (xmssPrf seed a 0) (xorBytes x (xmssPrf seed a 1)))

/-- The 67 digits that a message of 32 bytes is signed by: its 64 in base 16 and the three of their checksum. -/
def wotsDigits (msg : Bytes) : List Nat :=
  let ds := msg.flatMap (fun b => [b.toNat / 16, b.toNat % 16])
  let sum := ds.foldl (fun n d => n + (15 - d)) 0
  ds ++ [sum / 256 % 16, sum / 16 % 16, sum % 16]

/-- A part of a signature: the n-th string of 32 bytes. -/
def piece (bs : Bytes) (n : Nat) : Bytes := (bs.drop (32 * n)).take 32

/-- One level of the tree over a one-time key's strings; an odd last one moves up. -/
def lTreeLevel (seed : Bytes) (leaf height : Nat) : Nat → List Bytes → List Bytes
  | i, l :: r :: rest => randHash seed ⟨1, leaf, height, i⟩ l r :: lTreeLevel seed leaf height (i + 1) rest
  | _, rest => rest

/-- The leaf that a one-time key makes: 67 strings shrink to one in seven levels. -/
def lTree (seed : Bytes) (leaf : Nat) (pk : List Bytes) : Bytes :=
  ((List.range 7).foldl (fun l h => lTreeLevel seed leaf h 0 l) pk).headD []

/-- The root that a leaf and its path lead to. -/
def treeRoot (seed : Bytes) (leaf : Nat) (node : Bytes) (path : List Bytes) : Bytes :=
  path.zipIdx.foldl (fun n p =>
    let a : HashAddr := ⟨2, 0, p.2, leaf / 2 ^ (p.2 + 1)⟩
    if leaf / 2 ^ p.2 % 2 = 0 then randHash seed a n p.1 else randHash seed a p.1 n) node

/-- The leaf index of a signature. -/
def xmssLeaf (sig : Bytes) : Nat := ofBe (sig.take 4)

/-- A signature holds for an image under a public root: leaf index, randomiser, 67 one-time strings and a path of 20. -/
def xmssVerify (root seed sig image : Bytes) : Bool :=
  let leaf := xmssLeaf sig
  let msg := xmssHash 2 (piece (sig.drop 4) 0 ++ root ++ beBytes leaf 32) image
  let pk := (wotsDigits msg).zipIdx.map (fun d => wotsChain seed ⟨0, leaf, d.2, 0⟩ (15 - d.1) d.1 (piece (sig.drop 36) d.2))
  sig.length == 2820 && decide (leaf < 2 ^ 20) &&
  treeRoot seed leaf (lTree seed leaf pk) ((List.range 20).map (piece (sig.drop 2180))) == root

/-- An image's signature holds under the vendor key in the fuses (R425). -/
def signedByVendor (sig image : Bytes) : Bool := xmssVerify (beBytes Config.vendorRoot.toNat 32) (beBytes Config.vendorSeed.toNat 32) sig image

end Sys2Proof.Machine
end

