-- ==== Sys2Proof/Machine/Platform.lean ====
section
/-!
DEFINITION. Partitions and gang slices (R350 to R353, R362, R363), loss of a die (R381), bring-up and its record (R422 to R426), link retraining (R428),
power (R430, R431) and the management port (R432).
-/
namespace Sys2Proof.Machine

/-! ### Device registers without a behaviour of their own (R80) -/

/-- REGISTER_WRITE (R80, R134): the fields that the mode may write now. -/
def execRegisterWrite (pa size v : Nat) (m : Mode) (st : State) : Out :=
  if prange pa = .device then .next (st.devWrite pa size v m) else .next st

/-! ### Partitions (R352, R353) -/

/-- Bogies of a partition, as die × 144 + 12 × by + bx, and its link ports. -/
def Part.bogies (p : Part) : List Nat := (List.range 576).filter (fun n => p.hasBogie (n / 144) (n % 144))
def Part.ports (p : Part) : List Nat := (List.range 16).filter (fun n => p.fld 0x1D0 n n == 1)

/-- The cause with the lowest code for which a START is refused. -/
def State.startError (s : State) (p : Fin 8) : Option Nat :=
  let q := s.part p
  let others := (fin8s.filter (fun o => o != p && (s.part o).state != .stopped)).map s.part
  let shared := others.any (fun o => q.bogies.any (fun n => o.hasBogie (n / 144) (n % 144)) || q.cores.any o.hasCore || q.ports.any (fun n => o.fld 0x1D0 n n == 1))
  let dead (die : Nat) : Bool := (s.die ⟨die % 4, Nat.mod_lt _ (by decide)⟩).absent
  let gone := q.bogies.any (fun n => s.fenced.contains n || dead (n / 144)) || q.cores.any (fun c => dead (c / 48)) || q.ports.any (fun n => (s.link n).absent)
  if shared then some 1 else if gone then some 2 else if q.cores.isEmpty then some 3 else none

/-- The identity word (R79). -/
def identityWord (p lidx t : Nat) : Nat :=
  p * 2 ^ 32 + lidx * 2 ^ 16 + coreOf t / 48 * 2 ^ 9 + coreOf t % 48 / 24 * 2 ^ 8 + coreOf t % 24 * 2 ^ 3 + thOf t

/-- A thread as its partition's start leaves it (R79, R83, R158, R330). -/
def Thread.start (q : Part) (p t : Nat) : Thread :=
  let th : Thread := { Thread.reset with st := .active, pc := BitVec.ofNat 80 (bf (q.reg 0x100) 63 2 * 4) }
  ((th.setX 1 (BitVec.ofNat 64 (identityWord p (q.lidx t) t))).setX 2 (BitVec.ofNat 64 q.threads.length)).setA 1 (BitVec.ofNat 80 (q.reg 0x110))

/-- PARTITION_START (R352): refused with its cause in ERR, or every thread starts with a clean partition state. A core's logical time and a die's
global time, which sr.lt and sr.gtime show, run on across the start (DESIGN CHOICE, log 1). -/
def execPartitionStart (p : Fin 8) (st : State) : Out :=
  let q := st.part p
  if q.state ≠ .stopped then .next st
  else match st.startError p with
    | some e => .next (st.onPart p (fun q => q.setFld 0x1C0 15 12 e))
    | none =>
      let s := st.onPart p (fun q => { (q.setFld 0x1C0 15 12 0).bump 0x1C0 63 32 1 with state := .running, cache := [] })
      let s := { s with regions := s.regions.filter (fun e => e.2.part != p) }
      let s := q.cores.foldl (fun (s : State) c => s.onCore c (fun k => { k with last := 0, yielded := none })) s
      .next (q.threads.foldl (fun (s : State) t => s.setThread t (Thread.start q p.val t)) s)

/-- A thread of a partition that stops: its bindings, engines and pending causes are gone. -/
def Thread.stop (th : Thread) : Thread :=
  { th with
    st := .off, qs := [], bq := none, ss := [], pools := [], copies := [], pend := [], path := none, wait := none, ahead := [], left := [], reply := none
    walked := [] }

/-- The thread on whose behalf an agent acts. -/
def Requester.owner : Requester → Option Nat
  | .thread t | .pref t | .stream t _ | .held t _ _ | .pool t _ | .copy t _ | .walker t _ | .area t | .ring t _ => some t
  | .spill _ | .records _ | .other => none

/-- Misses of a partition leave the queues of the dies, and what walks have told its engines goes. -/
def State.dropMisses (s : State) (p : Fin 8) : State :=
  { s with
    dies := s.dies.map (fun (d : Die) => { d with misses := d.misses.filter (fun m => m.part != p) })
    rimWalks := s.rimWalks.filter (fun e => !e.1.owner.any (fun t => s.partOf t == p)) }

/-- Threads OFF, engines aborted with held writes dropped, regions freed (R353, steps 1 to 3). -/
def State.stopThreads (s : State) (p : Fin 8) : State :=
  let ts := (s.part p).threads.filter (fun t => (s.thread t).st != .off)
  let s := ts.foldl (fun (s : State) t => s.onThread t (fun th => { th with st := .off })) s
  let s := (s.regions.filter (fun e => e.2.part == p)).foldl (fun (s : State) e => s.dropRegion e.2) s
  let s := ts.foldl (fun (s : State) t => s.onThread t Thread.stop) s
  s.dropMisses p

/-- Claims are failed as they can be reached; with the last one closed the partition is stopped (R353, steps 4 and 5). -/
def State.stopClaims (s : State) (p : Fin 8) : State :=
  let ts := (s.part p).threads.filter (fun t => (tget s.threads t).isSome)
  let s := ts.foldl State.failClaims s
  if ts.any (fun t => !(s.thread t).claims.isEmpty || s.busy (.area t)) then s.postAt 1 (.partitionStop p)
  else
    let s := ts.foldl (fun (s : State) t => s.onThread t Thread.stop) s
    (s.dropMisses p).onPart p (fun q => { q with state := .stopped })

/-- PARTITION_STOP (R353): a running partition stops; one that is stopping goes on with its claims. -/
def execPartitionStop (p : Fin 8) (st : State) : Out :=
  match (st.part p).state with
  | .running => .next (((st.stopThreads p).onPart p (fun q => { q with state := .stopping, holdUsed := [] })).stopClaims p)
  | .stopping => .next (st.stopClaims p)
  | .stopped => .next st

/-! ### Gang slices (R362, R363) -/

def Part.phase (p : Part) : Nat := p.fld 0x390 2 0
def Part.setPhase (p : Part) (n : Nat) : Part := p.setFld 0x390 2 0 n
def Part.sliceStart (p : Part) : Nat := p.fld 0x380 127 64
def Part.grace (p : Part) : Nat := p.fld 0x380 63 32
def Part.gang (p : Part) : BitVec 16 := BitVec.ofNat 16 (p.fld 0x380 23 8)
def Part.sliceSeq (p : Part) : BitVec 16 := BitVec.ofNat 16 (p.fld 0x390 63 48)

/-- SLICE_ARM (R363): the ARM bit that has been written outside PHASE 2 and 4. -/
def execSliceArm (p : Fin 8) (st : State) : Out :=
  .next (st.onPart p (fun q =>
    if q.phase = 2 ∨ q.phase = 4 then q
    else if q.fld 0x380 0 0 = 1 then q.setPhase 1
    else if q.phase = 1 then q.setPhase 0 else q))

/-- Every ACTIVE thread of a partition takes PREEMPT. -/
def State.preempt (s : State) (p : Fin 8) (kind : Nat) : State :=
  let q := s.part p
  (q.threads.filter (fun t => (s.thread t).st == .active)).foldl (fun (s : State) t => s.raise t 0x12 (BitVec.ofNat 64 (q.sliceSeq.toNat * 2 ^ 16 + kind))) s

/-- SLICE_BEGIN (R363): gtime has reached START with SYNC = 1. -/
def execSliceBegin (p : Fin 8) (st : State) : Out :=
  let q := st.part p
  if q.phase ≠ 1 ∨ st.gtime 0 < q.sliceStart ∨ !st.sync then .next st
  else
    let s := st.onPart p (fun q => { (((q.bump 0x390 63 48 1).setFld 0x390 47 40 0).setPhase 2) with joinedFrom := [], joinedHere := false })
    .next (s.preempt p 1)

/-- One more module has joined; with all of them the slice opens (R363). -/
def Part.countJoin (q : Part) : Part :=
  let q := q.bump 0x390 47 40 1
  if q.fld 0x390 47 40 = q.fld 0x380 31 24 then ((q.setPhase 3).setFld 0x380 0 0 0).bump 0x390 95 64 1 else q

/-- A control beat leaves by every link port of a partition; one bound for a port that is down is counted in LOST (R385). -/
def State.broadcast (s : State) (p : Fin 8) (c : Control) : State :=
  (s.part p).ports.foldl (fun (s : State) n => if (s.link n).up then s.sendBeat n (.control c) else s.bump p 0x3F0 127 96 1) s

/-- SLICE_JOIN (R363): accepted in PHASE 2, once. -/
def execSliceJoin (p : Fin 8) (st : State) : Out :=
  let q := st.part p
  if q.phase ≠ 2 ∨ q.joinedHere then .next st
  else .next ((st.onPart p (fun q => { q.countJoin with joinedHere := true })).broadcast p (.join q.gang q.sliceSeq))

/-- JOIN_RECEIVED (R363): from each distinct module once. -/
def execJoinReceived (p : Fin 8) (gang seq peer : BitVec 16) (st : State) : Out :=
  let q := st.part p
  if q.phase ≠ 2 ∨ gang ≠ q.gang ∨ seq ≠ q.sliceSeq ∨ q.joinedFrom.contains peer then .next st
  else .next (st.onPart p (fun q => { q.countJoin with joinedFrom := peer :: q.joinedFrom }))

/-- A slice is cancelled here: CANCEL is sent, and every ACTIVE thread takes PREEMPT again (R363). -/
def State.cancelSlice (s : State) (p : Fin 8) : State :=
  let q := s.part p
  ((s.broadcast p (.cancel q.gang q.sliceSeq)).onPart p (fun q => q.setPhase 4)).preempt p 2

/-- GRACE_EXPIRY (R363). -/
def execGraceExpiry (p : Fin 8) (st : State) : Out :=
  let q := st.part p
  if q.phase = 2 ∧ q.grace ≠ 0 ∧ q.sliceStart + q.grace ≤ st.gtime 0 then .next (st.cancelSlice p) else .next st

/-- CANCEL_RECEIVED (R363). -/
def execCancelReceived (p : Fin 8) (gang seq : BitVec 16) (st : State) : Out :=
  let q := st.part p
  if (q.phase = 2 ∨ q.phase = 3) ∧ gang = q.gang ∧ seq = q.sliceSeq then .next (st.cancelSlice p) else .next st

/-- The handlers' switch after a cancellation is over: no thread of the partition has PREEMPT pending or stands in a handler (log 24). -/
def State.cancelOver (s : State) (p : Fin 8) : Bool :=
  (s.part p).phase == 4 && (s.part p).threads.all (fun t => let th := s.thread t; th.st == .off || (!th.hold && !th.pend.any (fun k => k.code == 0x12)))

/-- Crossings reopen, PHASE 0, ARM 0, and CANC advances (R363). -/
def Part.cancelled (q : Part) : Part := { ((q.setPhase 0).setFld 0x380 0 0 0).bump 0x390 127 96 1 with joinedFrom := [], joinedHere := false }

/-! ### The boot record (R423) -/

/-- A boot record entry. -/
def bootEntry (step unit tries result starts : Nat) : Word :=
  BitVec.ofNat 64 (step * 2 ^ 56 + unit % 256 * 2 ^ 48 + tries % 256 * 2 ^ 40 + result * 2 ^ 32 + starts % 2 ^ 32)

def Boot.append (b : Boot) (step unit tries result : Nat) : Boot :=
  { b with entries := tput b.entries b.next.toNat (bootEntry step unit tries result b.starts.toNat), next := b.next + 1 }

/-- Entries of a step and unit, newest first. -/
def Boot.history (b : Boot) (step unit : Nat) : List Word :=
  (List.range 256).filterMap (fun k =>
    (tget b.entries ((b.next.toNat + 255 - k) % 256)).bind (fun w => if wf w 63 56 = step ∧ wf w 55 48 = unit % 256 then some w else none))

/-- The path a unit takes at a start. -/
inductive BootPath where
  | normal | alternative | skipped
  deriving DecidableEq, Repr

/-- The unit number that the record gives a unit: a bogie's is that of its die (R422, R423; log 26). -/
def bootUnitNumber (step n : Nat) : Nat := if step = 3 then n % 144 else n

/-- A unit's place in the table of paths. -/
def pathKey (step n : Nat) : Nat := step * 1024 + n

/-- The newest entry of a unit governs its next start, also where the ring no longer holds it; a unit that an alternative has left out stays out. -/
def Boot.path (b : Boot) (step n : Nat) : BootPath :=
  match tgetD b.paths (pathKey step n) 0 with
  | 0 => .normal
  | 1 => .alternative
  | _ => .skipped

/-- What an entry with a result leaves to the next start. -/
def Boot.noteResult (b : Boot) (step n result : Nat) : Boot :=
  let put (v : Nat) : Boot := { b with paths := tput b.paths (pathKey step n) v }
  match result with
  | 0 => { b with paths := tdel b.paths (pathKey step n) }
  | 1 => put (if b.path step n = .normal then 1 else 2)
  | 2 => put 2
  | _ => put 1

/-- An entry that is no attempt of a start: a loss (R424, R431) or a retraining (R428) calls for the alternative at most, and one that passed restores
no normal path, which BOOT_CLR alone does (R423). -/
def Boot.noteLoss (b : Boot) (step n result : Nat) : Boot :=
  if b.path step n = .skipped ∨ result = 0 then b else { b with paths := tput b.paths (pathKey step n) 1 }

/-- BOOT_CLR (R423): the history of a step and unit is cleared. -/
def execBootClr (step unit : Nat) (st : State) : Out :=
  .next { st with boot := { st.boot with
    entries := st.boot.entries.filter (fun e => !(wf e.2 63 56 == step && wf e.2 55 48 == unit))
    paths := st.boot.paths.filter (fun e => !(e.1 / 1024 == step && bootUnitNumber step (e.1 % 1024) == unit)) } }

/-- Attempts on this start, this one included. -/
def Boot.tries (b : Boot) (step unit : Nat) : Nat :=
  match (b.history step unit).head? with
  | some w => if wf w 31 0 = b.starts.toNat then wf w 47 40 + 1 else 1
  | none => 1

/-! ### MODULE_START (R422, R423, R425, R426) -/

/-- Attempts that a unit took at this start. -/
def attempts (o : BootOutcome) (step n : Nat) : Nat := ((o.tries.find? (fun e => e.1 == step && e.2.1 == n)).map (fun e => e.2.2.toNat)).getD 1

/-- What a unit's step comes to: its result, and whether the unit is in use. -/
def bootUnit (b : Boot) (o : BootOutcome) (step n : Nat) : Nat × Bool :=
  let hasAlt := step = 4 ∨ step = 6
  match b.path step n with
  | .normal => if o.failNormal.contains (step, n) then (1, false) else (0, true)
  | .alternative => if hasAlt ∧ !o.failAlt.contains (step, n) then (3, true) else (1, false)
  | .skipped => (2, false)

/-- A unit is taken in: its entry is appended, and what it leaves in the machine is set. The record as it stood before the steps decides the path. -/
def State.bootStep (s : State) (b : Boot) (o : BootOutcome) (step n : Nat) (f : State → Nat → Bool → State) : State :=
  let (res, ok) := bootUnit b o step n
  f { s with boot := (s.boot.append step (bootUnitNumber step n) (if res = 2 then 0 else attempts o step n) res).noteResult step n res } res ok

/-- SHAKE256 with 32 bytes of output, byte 0 lowest. -/
def digest (bs : List Byte) : BitVec 256 :=
  BitVec.ofNat 256 ((shake256 bs 32).foldr (fun b n => b.toNat + 256 * n) 0)

/-- The boot ROM accepts an image: its signature holds and its leaf index is none below MINIDX (R425). -/
def Boot.accepts (b : Boot) (i : ImageSlot) : Bool := signedByVendor i.signature i.bytes && decide (b.minidx.toNat ≤ xmssLeaf i.signature)

/-- Step 1: the first image slot, or slot B as the alternative; an image that fails is refused (R425). The accepted image is measured, and its header
names the firmware window (R423, R426). -/
def State.bootFirmware (s : State) (o : BootOutcome) : State :=
  let path := s.boot.path 1 0
  let slot := if path = .normal then o.slotA else o.slotB
  let good := path ≠ .skipped ∧ s.boot.accepts slot
  let res := if path = .skipped then 2 else if !good then 1 else if path = .normal then 0 else 3
  let s := { s with boot := (s.boot.append 1 0 (if res = 2 then 0 else attempts o 1 0) res).noteResult 1 0 res }
  if !good then { s with boot := { s.boot with off := true } }
  else
    let m := digest slot.bytes
    let (base, limit) := Config.firmwareWindow slot.bytes
    { s with
      boot := { s.boot with minidx := BitVec.ofNat 20 (xmssLeaf slot.signature), fwinBase := base, fwinLimit := limit, fwinSet := true }
      measured := [m]
      measM := digest (leBytes s.measM.toNat 32 ++ leBytes m.toNat 32) }

/-- The firmware window is clipped to populated HBM: its first and its last granule lie on stacks in use, or it is empty (R423). Of each eight
granules one lies on each stack (R136). -/
def State.clipWindow (s : State) : State :=
  let ok (n : Nat) : Bool := decide (n < 2 ^ 25) && s.granuleOk (n * 2 ^ 14)
  let low := s.boot.fwinBase
  let high := min s.boot.fwinLimit (2 ^ 25 - 1)
  match ((List.range 8).map (fun k => low + k)).find? ok, ((List.range 8).map (fun k => high - k)).find? ok with
  | some a, some b => { s with boot := { s.boot with fwinBase := a, fwinLimit := b } }
  | _, _ => { s with boot := { s.boot with fwinBase := 2 ^ 25 - 1, fwinLimit := 0 } }

/-- A die is in use after step 2: what R9 lists against one that is not is not in use either (log 26). -/
def State.dieIn (s : State) (d : Nat) : Bool := !(s.die ⟨d % 4, Nat.mod_lt _ (by decide)⟩).absent

/-- Steps 2 to 8. -/
def State.bootUnits (s : State) (b : Boot) (o : BootOutcome) : State :=
  let s := fin4s.foldl (fun (s : State) d => s.bootStep b o 2 d.val (fun s _ ok => s.onDie d (fun x => { x with absent := !ok }))) s
  let s := (List.range 576).foldl (fun (s : State) n => s.bootStep b o 3 n (fun s _ ok => if ok then s else { s with fenced := s.fenced ++ [n] })) s
  let s := (List.range 8).foldl (fun (s : State) n => s.bootStep b o 4 n (fun s _ ok => if ok then s else { s with stacksOut := s.stacksOut ++ [n] })) s
  let s := (List.range 32).foldl (fun (s : State) n => s.bootStep b o 5 n (fun s _ ok => s.onDray n (fun d => { d with absent := !(ok && s.dieIn (n / 8)) }))) s
  let s := (List.range 16).foldl (fun (s : State) n => s.bootStep b o 6 n (fun s res ok =>
    let rate := if b.path 6 n = .normal then 224 else 112
    let up := ok && (s.dieIn (n / 4))
    s.onLink n (fun l => { l with
      state := if up then 2 else 0, rate := rate, bootRate := rate, peer := if up then o.peers.getD n 0 else 0
      absent := (!ok && b.path 6 n != .normal) || !s.dieIn (n / 4)
      trains := if ok then l.trains + 1 else l.trains, fails := if res = 1 then l.fails + 1 else l.fails }))) s
  let s := s.bootStep b o 7 0 (fun s _ ok => { s with boot := { s.boot with cxl0 := if ok && s.dieIn 0 then min o.cxl0 (2 ^ 41) else 0 } })
  let s := s.bootStep b o 7 1 (fun s _ ok => { s with boot := { s.boot with cxl1 := if ok && s.dieIn 2 then min o.cxl1 (0x1C * 2 ^ 36) else 0 } })
  s.bootStep b o 8 0 (fun s _ ok => { s with sync := ok })

/-- MODULE_START (R422): the module is as after reset, but for what the flash keeps; the hottest die of a thermal power-off is appended first
(R431); without firmware the module stays off. -/
def execModuleStart (o : BootOutcome) (st : State) : Out :=
  let b := st.boot
  let s : State := { State.reset with boot := { Boot.reset with starts := b.starts + 1, next := b.next, minidx := b.minidx, entries := b.entries, paths := b.paths } }
  let s : State := match st.power.removed with
    | some d => { s with boot := (s.boot.append 2 d.val 1 1).noteLoss 2 d.val 1 }
    | none => s
  let b := s.boot
  let s := s.bootFirmware o
  .next (if s.boot.off then s else (s.bootUnits b o).clipWindow)

/-! ### Attestation and the management port (R426, R432) -/

/-- The boot record as bytes. -/
def Boot.bytes (b : Boot) : List Byte := (List.range 256).flatMap (fun k => leBytes (tgetD b.entries k 0).toNat 8)

/-- ATTESTATION_REQUEST (R426): measurements, M, boot record and nonce, signed. -/
def execAttestationRequest (nonce : BitVec 256) (st : State) : Out :=
  let body := st.measured.flatMap (fun m => leBytes m.toNat 32) ++ leBytes st.measM.toNat 32 ++ st.boot.bytes ++ leBytes nonce.toNat 32
  .next { st with answer := body ++ Config.deviceSignature body }

/-- MANAGEMENT_PORT_ACCESS (R432): four registers are read, PWR_CAP is written, attestation requests are carried, and nothing else. -/
def execManagementPortAccess (a : MgmtAccess) (st : State) : Out :=
  match a with
  | .readPwrNow => .next { st with mgmt := st.readDev64 0x4000008 }
  | .readBootStat => .next { st with mgmt := st.readDev64 0x3000000 }
  | .readBootRec i => .next { st with mgmt := st.readDev64 (0x3000800 + 8 * i.val) }
  | .readTimeStat => .next { st with mgmt := st.readDev64 0x2000008 }
  | .writePwrCap v => .next { st with power := { st.power with cap := BitVec.ofNat 12 v.toNat } }
  | .attest nonce => execAttestationRequest nonce st

/-! ### Loss of a die (R381, R424) -/

/-- HEARTBEAT_MISS (R424): the die is declared lost, and the loss is broadcast. -/
def execHeartbeatMiss (die : Fin 4) (st : State) : Out :=
  if (st.die die).lost || (st.die die).absent then .next st
  else
    let s := st.onDie die (fun d => { d with lost := true })
    .next ({ s with boot := (s.boot.append 2 die.val 1 1).noteLoss 2 die.val 1 }.post [.homeLossBroadcast die])

/-- A write on its way to a home. -/
def Req.isWrite (r : Req) : Bool := !r.isLoad && !r.performed

/-- The address and size of a write: those of a thread's access, or of an engine's first byte by the page it was translated in. -/
def Req.wrote (r : Req) : Nat × Nat :=
  match r.kind with
  | .write (b :: rest) => (r.tlb.2 * 2 ^ pageBits r.tlb.1 + (r.pa + b.1) % 2 ^ pageBits r.tlb.1, rest.length + 1)
  | _ => (r.va.toNat, r.size)

/-- A copy stops at a fault. -/
def State.copyFault (s : State) (t k : Nat) (c : Copy) (kind : Nat) : State :=
  (s.setCopy t k { c with state := .fault, fkind := kind, moving := false }).engineFault t k kind 2

/-- An engine stops with kind 5, if it runs. -/
def State.engineLost (s : State) (by' : Requester) (va : Addr) : State :=
  match by' with
  | .stream t k | .held t k _ => match tget (s.thread t).ss k with
    | some (.stream x) => if x.state = .run then s.streamFault t k x 5 va else s
    | _ => s
  | .pool t k => match tget (s.thread t).pools k with
    | some p => if p.state = .run then s.poolFault t k p 5 else s
    | none => s
  | .copy t k => match tget (s.thread t).copies k with
    | some c => if c.state = .run then s.copyFault t k c 5 else s
    | none => s
  | _ => s

/-- What becomes of a write in flight to a lost home: a record, and for an engine's its stop. A fault record stays with its partition. Whose thread and
unit stand in the record of a walker's, a ring's, a spilled or the host's write the spec does not say (DESIGN CHOICE, log 47). -/
def State.failWrite (s : State) (r : Req) : State :=
  let (va, n) := r.wrote
  match r.by' with
  | .thread t => (s.onThread t (fun th => th.settle r.id .none 0)).lossRecord t 8 2 va n
  | .area t => s.lossRecord t 8 2 va n
  | .stream t _ | .held t _ _ | .pool t _ | .copy t _ => (s.lossRecord t 8 3 va n).engineLost r.by' (BitVec.ofNat 80 va)
  | .ring t _ => s.lossRecord t 8 2 va n
  | .walker t rim => s.lossRecord t 8 (if rim.isSome then 3 else 2) va n
  | .records p => (s.onPart p (fun q => { q with recordOut := false })).lossOf p none 8 3 va n
  | .spill p => s.lossOf p none 8 3 va n
  | .other => s.lossOf r.part none 8 3 va n
  | .pref _ => s

/-- The thread whose write a request is: its own, or that of an instruction that writes an area or a record. -/
def Req.writer? (r : Req) : Option Nat :=
  match r.by' with
  | .thread t | .area t => some t
  | _ => none

/-- Writes in flight to the lost homes fail: a record each, and HOME_LOST once for each thread with its earliest. -/
def State.failWrites (s : State) (die : Fin 4) : State :=
  let dead := s.flight.filter (fun r => r.isWrite && (homeTile r.pa).isSome && homeDie r.pa == die)
  let ts := (dead.filterMap Req.writer?).eraseDups
  let s := { s with flight := s.flight.filter (fun r => !dead.any (fun d => d.id == r.id)) }
  let s := dead.foldl State.failWrite s
  ts.foldl (fun (s : State) t => match dead.find? (fun r => r.writer? == some t) with
    | some r => s.raise t 0x0A (BitVec.ofNat 64 r.wrote.1)
    | none => s) s

/-- Held writes bound for a lost home are dropped, a record for each line. -/
def State.dropHeld (s : State) (die : Fin 4) : State :=
  s.threads.foldl (fun (s : State) (e : Nat × Thread) => e.2.ss.foldl (fun (s : State) (x : Nat × SSlot) => match x.2 with
    | .stream y =>
      let gone (h : HeldWrite) : Bool := homeDie (h.line * 128) == die
      let s := (y.heldWrites.filter gone).foldl (fun (s : State) h => s.lossRecord e.1 8 3 h.va.toNat h.data.length) s
      if y.heldWrites.any gone then s.setStream e.1 x.1 { y with heldWrites := y.heldWrites.filter (fun h => !gone h) } else s
    | .chain _ => s) s) s

/-- Claims that threads of the lost die hold (R381). -/
def State.lostClaims (s : State) (die : Fin 4) : State :=
  (s.threads.filter (fun e => dieOf e.1 == die)).foldl (fun (s : State) e => e.2.claims.foldl (fun (s : State) k => s.lossRecord e.1 9 2 k.header.toNat k.index) s) s

/-- What a thread has bound to regions of the lost die is closed. -/
def Thread.closeLost (th : Thread) (die : Fin 4) : Thread :=
  let lost (h : BitVec 16) : Bool := h.toNat / 4096 == die.val
  { th with
    qs := th.qs.map (fun (e : Nat × Queue) => (e.1, { e.2 with closed := e.2.closed || lost e.2.region }))
    bq := th.bq.map (fun b => { b with closed := b.closed || lost b.region })
    ss := th.ss.map (fun (e : Nat × SSlot) => (e.1, match e.2 with
      | .stream y => .stream { y with closed := y.closed || lost y.region }
      | .chain c => .chain { c with closed := c.closed || lost c.region })) }

/-- A coupler hop of a chain leads to the lost die, or from it (R388). -/
def Chain.hopLost (c : Chain) (die lost : Fin 4) : Bool :=
  [c.upSide, c.downSide].any (fun o => match o with
    | some side => die == lost || neighbour die.val side == some lost.val
    | none => false)

/-- Streams, pools and copies of a lost die's threads stop with kind 5, those of other dies when they reach a lost home; a chain with a coupler hop to
the die stops with kind 9. -/
def State.stopEngines (s : State) (die : Fin 4) : State :=
  s.threads.foldl (fun (s : State) (e : Nat × Thread) =>
    let here := dieOf e.1 == die
    let s := e.2.ss.foldl (fun (s : State) x => match x.2 with
      | .stream y => if here && y.state == .run then s.streamFault e.1 x.1 y 5 0 else s
      | .chain c => if c.state == .run && c.hopLost (dieOf e.1) die then s.chainFault e.1 x.1 c 9 else s) s
    if here then
      let s := e.2.pools.foldl (fun (s : State) x => if x.2.state == .run then s.poolFault e.1 x.1 x.2 5 else s) s
      e.2.copies.foldl (fun (s : State) x => if x.2.state == .run then s.copyFault e.1 x.1 x.2 5 else s) s
    else s) s

/-- The lost die's presence bits are cleared, and a line without copies has no entry. -/
def clearPresence (die : Fin 4) (dir : List DirEntry) : List DirEntry :=
  (dir.map (fun (e : DirEntry) => { e with dies := e.dies.filter (fun k => k != die.val) })).filter (fun e => !e.dies.isEmpty || e.host)

/-- HOME_LOSS_BROADCAST (R381). -/
def execHomeLossBroadcast (die : Fin 4) (st : State) : Out :=
  let s := st.onDie die (fun d => { d with lost := true })
  let s := { s with
    cores := s.cores.map (fun (e : Nat × Core) => if e.1 / 48 = die.val then e else (e.1, e.2.keepCopies (fun l => homeDie (l.line * 128) != die)))
    dies := s.dies.map (fun (d : Die) => { d with dir := clearPresence die d.dir })
    flight := s.flight.map (unfillReq (fun r => homeDie r.pa == die)) }
  let s := (s.failWrites die).dropHeld die
  let s := (s.stopEngines die).lostClaims die
  let s := { s with threads := s.threads.map (fun (e : Nat × Thread) => (e.1, e.2.closeLost die)) }
  .next (s.flight.foldl (fun (s : State) (r : Req) => match r.stage with
    | .inval dies host => if dies.contains die.val then s.answered r (dies.filter (fun k => k != die.val)) host else s
    | _ => s) s)

/-! ### Link retraining (R428) -/

/-- RETRAIN (R428): a port that is up goes down first; whether the training passes, and what it learns, is the far end's to say (log 21). -/
def execRetrain (port : Fin 16) (st : State) : Out :=
  let l := st.link port.val
  if l.state == 1 then .next st
  else
    let s := if l.up then st.linkDown port.val else st
    let (k, s) := s.fresh
    let (j, s) := s.fresh
    let (i, s) := s.fresh
    let s := s.onLink port.val (fun l => { l with state := 1 })
    .next (s.postAt (1 + Config.delay i % 4700000) (.retrainComplete port (Config.choice k % 2 == 0) (BitVec.ofNat 16 (Config.choice j))))

/-- RETRAIN_COMPLETE (R428). A port of a lost die does not pass. The entry of a training that passed says that the alternative did where the port's path
is not the normal one, which only BOOT_CLR restores (R423). -/
def execRetrainComplete (port : Fin 16) (passed : Bool) (peer : BitVec 16) (st : State) : Out :=
  let l := st.link port.val
  let passed := passed && !st.portLost port.val
  if l.state ≠ 1 then .next st
  else
    let rate := min l.bootRate (if l.speed = 0 then 224 else 112)
    let s := st.onLink port.val (fun l =>
      if passed then { l with state := 2, rate := rate, peer := peer, trains := l.trains + 1, seq := 0, expect := 0, ackOut := 0, ackIn := 0, unacked := [], outbox := [], inbox := [], ackAt := st.tick, heardAt := st.tick }
      else { l with state := 0, fails := l.fails + 1 })
    let res := if !passed then 1 else if l.bootRate = 112 ∨ st.boot.path 6 port.val ≠ .normal then 3 else 0
    .next { s with boot := (s.boot.append 6 port.val (s.boot.tries 6 port.val) res).noteLoss 6 port.val res }

/-! ### Power (R430, R431) -/

/-- BUCKET_SETTING_WRITE (R430, R213): the setting is stored, and the buckets of the ingress points it governs are full. -/
def execBucketSettingWrite (die : Fin 4) (bogie : Fin 144) (v : BitVec 64) (st : State) : Out :=
  let s := { st with power := { st.power with bkt := tput st.power.bkt (die.val * 144 + bogie.val) (BitVec.ofNat 13 (wf v 44 32), BitVec.ofNat 11 (wf v 10 0)) } }
  .next { s with credit := s.credit.filter (fun e => let (n, d) := pointNode e.1; d != die || entryBogie n != bogie.val) }

/-- What a temperature brings: the hold, its end, or the removal of power, for which the hottest die is a free value (R431). -/
def State.heat (s : State) (temp : Nat) : State :=
  if 115 ≤ temp then
    let (k, s) := s.fresh
    s.post [.thermalPowerOff ⟨Config.choice k % 4, Nat.mod_lt _ (by decide)⟩]
  else if 105 ≤ temp ∧ !s.power.hot then s.post [.thermalClamp]
  else if temp < 95 ∧ s.power.hot then s.post [.thermalClampRelease]
  else s

/-- POWER_MEASUREMENT (R430): power and temperature are shown, and every die gets its clamp. -/
def execPowerMeasurement (watts temp : Nat) (clamps : Vector Nat 4) (st : State) : Out :=
  let s := { st with power := { st.power with watts := BitVec.ofNat 12 (min watts 4095), temp := BitVec.ofNat 16 temp } }
  .next ((fin4s.foldl (fun (s : State) d => s.onDie d (fun x => { x with clamp := min 1024 (clamps.get d) })) s).heat temp)

/-- THERMAL_CLAMP (R431): every CLAMP acts as 0 while the hold lasts. -/
def execThermalClamp (st : State) : Out := .next { st with power := { st.power with hot := true } }

/-- THERMAL_CLAMP_RELEASE (R431). -/
def execThermalClampRelease (st : State) : Out := .next { st with power := { st.power with hot := false } }

/-- THERMAL_POWER_OFF (R431). -/
def execThermalPowerOff (die : Fin 4) (st : State) : Out := .next { st with power := { st.power with removed := some die } }

end Sys2Proof.Machine
end

