-- ==== Sys2Proof/Machine/System.lean ====
section
/-!
DEFINITION. SYSTEM instructions of access threads (R83, R100 to R106).
-/
namespace Sys2Proof.Machine

/-- The word of an instruction, for a trap value. -/
def wordOf (i : Instr) : Nat := (encode i).getD 0

/-- TRAP (R101): taken in the mode above, sr.epc at the following instruction. -/
def execTrap (i : BitVec 11) (st : State) : Out := .next (st.enterTrap st.cur 0x11 false (zimm64 i) (st.me.pc + 4))

/-- SVC (R101). -/
def execSvc (i : BitVec 11) (st : State) : Out := .next (st.enterTrap st.cur 0x10 false (zimm64 i) (st.me.pc + 4))

/-- ERET (R102). -/
def execEret (st : State) : Out :=
  if st.me.cur = .worker then .next (st.privTrap (wordOf .eret))
  else
    let (k, s) := st.fresh
    .next (s.onMe (fun th => th.eret k))

/-- The 64-bit value of a status register (R36, R37, R83). -/
def State.sr (s : State) (n : SrNum) : Word :=
  let th := s.me
  match n with
  | .mode => BitVec.ofNat 64 (th.phold.toNat * 32 + th.hold.toNat * 16 + th.prev.toNat * 4 + (Mode.bits th.cur).toNat)
  | .epc => th.epc
  | .cause => BitVec.ofNat 64 (th.asy.toNat * 256 + th.code.toNat)
  | .tval => th.tval
  | .fflags => BitVec.ofNat 64 (th.en.toNat * 256 + th.flags.toNat)
  | .frm => BitVec.ofNat 64 th.frm.toNat
  | .gen => BitVec.ofNat 64 th.gen.toNat
  | .lt => BitVec.ofNat 64 (s.core (coreOf s.cur)).lt
  | .gtime => BitVec.ofNat 64 (s.gtimeOf s.cur)
  | .rwait => BitVec.ofNat 64 th.rwait.toNat
  | .qwatch => BitVec.ofNat 64 th.qwatch.toNat
  | .prio => BitVec.ofNat 64 (th.cap.toNat * 4 + th.prio.toNat)

/-- SRR (R103). -/
def execSrr (d : Fin 32) (n : SrNum) (st : State) : Out := .next (st.onMe (fun th => (th.setX d (st.sr n)).advance))

/-- The fields of a status register that SRW writes in the current mode; RO fields keep their values (R83). -/
def Thread.writeSr (th : Thread) (n : SrNum) (v : Word) : Thread :=
  let w := v.toNat
  match n with
  | .mode => { th with phold := bf w 5 5 = 1, hold := bf w 4 4 = 1, prev := BitVec.ofNat 2 (bf w 3 2) }
  | .epc => { th with epc := BitVec.ofNat 64 (w / 4 * 4) }
  | .cause => { th with asy := bf w 8 8 = 1, code := BitVec.ofNat 8 w }
  | .tval => { th with tval := v }
  | .fflags => { th with en := BitVec.ofNat 7 (bf w 14 8), flags := BitVec.ofNat 7 w }
  | .frm => { th with frm := BitVec.ofNat 3 w }
  | .gen | .lt | .gtime => th
  | .rwait => { th with rwait := BitVec.ofNat 32 w }
  | .qwatch => { th with qwatch := BitVec.ofNat 32 w }
  | .prio =>
    if th.cur = .worker then { th with prio := BitVec.ofNat 2 (Nat.min (w % 4) th.cap.toNat) }
    else { th with cap := BitVec.ofNat 2 (bf w 3 2), prio := BitVec.ofNat 2 w }

/-- Registers a worker may not write (R83). -/
def srPrivileged : SrNum → Bool
  | .mode | .epc | .cause | .tval => true
  | _ => false

/-- SRW (R83, R103). -/
def execSrw (r : Fin 32) (n : SrNum) (st : State) : Out :=
  let v := st.me.getX r
  if st.me.cur = .worker ∧ srPrivileged n then .next (st.privTrap (wordOf (.srw r n)))
  else if st.me.cur = .supervisor ∧ n = .mode ∧ wf v 3 2 = 3 then .next (st.privTrap (wordOf (.srw r n)))
  else .next (st.onMe (fun th => (th.writeSr n v).advance))

/-- WFE (R104): it does not wait with EV set; else it waits for EV or its limit. -/
def execWfe (r : Fin 32) (st : State) : Out :=
  if st.me.ev then .next (st.onMe (fun th => { th with ev := false }.advance))
  else .next (st.waitFor (.wfe (st.me.getX r).toNat))

/-- WFE_LIMIT (R104): the limit has passed with EV still 0. -/
def execWfeLimit (t : Nat) (st : State) : Out :=
  match (st.thread t).wait with
  | some ⟨.wfe l, n, _⟩ =>
    if 0 < l ∧ l ≤ n ∧ (st.thread t).ev = false then .next (st.onThread t Thread.advance) else .next st
  | _ => .next st

/-- YIELD (R105): the core's next selection prefers another ready thread. -/
def execYield (st : State) : Out :=
  .next ((st.onMe Thread.advance).onCore (coreOf st.cur) (fun c => { c with yielded := some (thOf st.cur) }))

/-- HALT (R106): once every register write owed has completed, the thread runs nothing more; a cause that may be taken comes first (R87). -/
def execHalt (st : State) : Out :=
  if st.me.ahead.isEmpty && !st.me.hasPending then .next (st.onMe (fun th => { th.advance with st := .halted }))
  else .next (st.waitFor .register)

end Sys2Proof.Machine
end

