-- ==== Sys2Proof/Machine/Issue.lean ====
section
/-!
DEFINITION. Issue on access cores (R58, R82, R85 to R91, R97, R99, R105): fetching, register hazards, what may issue on a likely path, the choice
of a thread, and the taking of asynchronous causes.
-/
namespace Sys2Proof.Machine

/-! ### Registers an instruction uses (R88, R91) -/

/-- A register that a run-ahead entry may still have to write. -/
inductive Reg where
  | x (r : Fin 32) | a (r : Fin 16) | v (r : Fin 16)
  deriving DecidableEq, Repr

/-- The data register of a load or store form (R51). -/
def dataReg (d : Fin 32) (z : Sz) : Reg :=
  match z with
  | .a => .a (lowReg d)
  | _ => .x d

end Sys2Proof.Machine

namespace Sys2Proof
open Sys2Proof.Machine

/-- The x, a and v registers that an instruction writes. -/
def Instr.dests : Instr → List Reg
  | .add d _ _ | .sub d _ _ | .and d _ _ | .or d _ _ | .xor d _ _ | .sll d _ _ | .srl d _ _ | .sra d _ _ | .slt d _ _ | .sltu d _ _ => [.x d]
  | .min d _ _ | .max d _ _ | .minu d _ _ | .maxu d _ _ | .mul d _ _ | .mulh d _ _ | .mulhu d _ _ | .div d _ _ | .divu d _ _ => [.x d]
  | .rem d _ _ | .remu d _ _ | .clz d _ | .ctz d _ | .popc d _ | .bswap d _ | .addi d _ _ | .andi d _ _ | .ori d _ _ | .xori d _ _ => [.x d]
  | .slti d _ _ | .sltiu d _ _ | .slli d _ _ | .srli d _ _ | .srai d _ _ | .lui d _ | .asub d _ _ | .atox d _ | .ahi d _ => [.x d]
  | .aadd d _ _ | .afromx d _ | .asethi d _ _ | .aaddi d _ _ | .addpc d _ | .jalr d _ _ => [.a d]
  | .jal _ => [.a 15]
  | .fadd d _ _ _ _ | .fsub d _ _ _ _ | .fmul d _ _ _ _ | .fdiv d _ _ _ _ | .fma d _ _ _ _ | .fsqrt d _ _ _ | .fmin d _ _ _ | .fmax d _ _ _ => [.x d]
  | .fcmp d _ _ _ _ | .fcvt d _ _ _ _ _ | .fclass d _ _ | .vext d _ _ => [.x d]
  | .vidx d _ _ | .vld d _ _ | .vadd d _ _ | .vbcast d _ => [.v d]
  | .ld d _ z _ _ | .ldacq d _ z _ _ | .ldb d _ z _ _ => [dataReg d z]
  | .amo d _ _ _ _ _ _ | .cas d _ _ _ _ _ | .bqb d _ | .bqbLk d _ | .bqpop d | .qpop d _ _ _ | .qpopSb d _ _ | .qstat d _ _ _ _ | .qdisc d _ _ => [.x d]
  | .swait d _ | .sstat d _ | .arrive d _ _ | .arriveR d _ _ | .bwait d _ _ | .rgnalloc d _ | .drainQuiet d _ _ | .pwait d _ | .cwait d _ => [.x d]
  | .rnddom d _ | .rndadv d _ | .rndget d _ | .ctxsaveRegion d _ _ | .ctxrstRegion d _ _ | .lnkstat d _ | .srr d _ => [.x d]
  | .wpull d _ c => [.x d, .a c]
  | _ => []

/-- The x, a and v registers that an instruction reads. -/
def Instr.sources : Instr → List Reg
  | .add _ s t | .sub _ s t | .and _ s t | .or _ s t | .xor _ s t | .sll _ s t | .srl _ s t | .sra _ s t | .slt _ s t | .sltu _ s t => [.x s, .x t]
  | .min _ s t | .max _ s t | .minu _ s t | .maxu _ s t | .mul _ s t | .mulh _ s t | .mulhu _ s t | .div _ s t | .divu _ s t => [.x s, .x t]
  | .rem _ s t | .remu _ s t | .beq s t _ | .bne s t _ | .blt s t _ | .bge s t _ | .bltu s t _ | .bgeu s t _ | .vidx _ s t => [.x s, .x t]
  | .clz _ s | .ctz _ s | .popc _ s | .bswap _ s | .addi _ s _ | .andi _ s _ | .ori _ s _ | .xori _ s _ | .slti _ s _ | .sltiu _ s _ => [.x s]
  | .slli _ s _ | .srli _ s _ | .srai _ s _ | .afromx _ s | .vbcast _ s => [.x s]
  | .aadd _ s t | .asethi _ s t => [.a s, .x t]
  | .asub _ s t => [.a s, .a t]
  | .atox _ s | .ahi _ s | .aaddi _ s _ | .jalr _ s _ | .l1dropLine s | .tlbinvPg s _ | .rnddom _ s | .pref _ s _ | .rqbind s _ _ => [.a s]
  | .fadd _ s t _ _ | .fsub _ s t _ _ | .fmul _ s t _ _ | .fdiv _ s t _ _ | .fmin _ s t _ | .fmax _ s t _ | .fcmp _ s t _ _ => [.x s, .x t]
  | .fma d s t _ _ => [.x d, .x s, .x t]
  | .fsqrt _ s _ _ | .fcvt _ s _ _ _ _ | .fclass _ s _ => [.x s]
  | .vld _ s t => [.a s, .v t]
  | .vadd _ s t | .vcmp _ s t => [.v s, .v t]
  | .vext _ s t => [.v s, .x t]
  | .ld _ a _ _ _ | .ldacq _ a _ _ _ | .ldb _ a _ _ _ => [.a a]
  | .st d a z _ _ | .strel d a z _ _ => [dataReg d z, .a a]
  | .amo _ a s _ _ _ _ => [.a a, .x s]
  | .cas d a s _ _ _ => [.x d, .a a, .x s]
  | .qpush r _ _ | .qbind r _ _ _ _ | .sresume r | .pwait _ r | .cwait _ r | .copycan r | .swait _ r | .sstat _ r | .rgnalloc _ r | .rgnfree r => [.x r]
  | .rndadv _ r | .rndget _ r | .lnkstat _ r | .srw r _ | .wfe r => [.x r]
  | .qpushv r _ _ _ => [.v r]
  | .sspec s a | .pool s a | .copy s a | .red s a | .ctxsaveRegion _ s a | .ctxrstRegion _ s a => [.x s, .a a]
  | .sstopPause s m | .binitWindow s m | .rndset s m | .cfgswap s m => [.x s, .x m]
  | .arrive _ n p | .arriveR _ n p | .bwait _ n p | .drainQuiet _ n p => [.x n, .x p]
  | .cfgld h s a | .cfgswapForce h s a => [.x h, .x s, .a a]
  | .cfgtrig h s c | .argw h s c => [.x h, .x s, .x c]
  | .copydl s a c | .wdone s a c | .wfail s a c => [.x s, .a a, .x c]
  | .wpull _ a _ => [.a a]
  | _ => []

/-- A result that comes later than in the next cycle holds a run-ahead entry (R107). -/
def Instr.slow : Instr → Bool
  | .mul .. | .mulh .. | .mulhu .. | .div .. | .divu .. | .rem .. | .remu .. | .fadd .. | .fsub .. | .fmul .. | .fdiv .. | .fsqrt .. | .fma .. | .fmin .. | .fmax .. => true
  | .fcmp .. | .fcvt .. | .fclass .. => true
  | _ => false

/-- Transfers of control, which check their own next address (R82). -/
def Instr.isTransfer : Instr → Bool
  | .beq .. | .bne .. | .blt .. | .bge .. | .bltu .. | .bgeu .. | .j .. | .jal .. | .jalr .. | .bqb .. | .bqbLk .. => true
  | _ => false

/-- Instructions that issue on an open likely path (R97). -/
def Instr.onPath : Instr → Bool
  | .add .. | .sub .. | .and .. | .or .. | .xor .. | .sll .. | .srl .. | .sra .. | .slt .. | .sltu .. | .min .. | .max .. | .minu .. | .maxu .. => true
  | .mul .. | .mulh .. | .mulhu .. | .div .. | .divu .. | .rem .. | .remu .. | .clz .. | .ctz .. | .popc .. | .bswap .. => true
  | .addi .. | .andi .. | .ori .. | .xori .. | .slti .. | .sltiu .. | .slli .. | .srli .. | .srai .. | .lui .. => true
  | .aadd .. | .asub .. | .afromx .. | .atox .. | .ahi .. | .asethi .. | .aaddi .. | .addpc .. => true
  | .fadd .. | .fsub .. | .fmul .. | .fdiv .. | .fsqrt .. | .fma .. | .fmin .. | .fmax .. | .fcmp .. | .fcvt .. | .fclass .. => true
  | .vidx .. | .vld .. | .vadd .. | .vbcast .. | .vcmp .. | .vext .. => true
  | .beq .. | .bne .. | .blt .. | .bge .. | .bltu .. | .bgeu .. | .j .. | .jal .. | .jalr .. | .ld .. | .pref .. | .qpush .. | .qpushv .. | .qpushs .. => true
  | _ => false

end Sys2Proof

namespace Sys2Proof.Machine

/-- A register awaits the write of a run-ahead entry. -/
def Thread.awaits (th : Thread) (r : Reg) : Bool :=
  th.ahead.any (fun e => match e.2, r with
    | .x q _, .x r => q == r
    | .a q, .a r => q == r
    | .lane q _, .v r => q == r
    | _, _ => false)

/-- A register of the instruction awaits a write (R88). -/
def Thread.hazard (th : Thread) (i : Instr) : Bool := (Instr.dests i).any th.awaits || (Instr.sources i).any th.awaits

/-! ### Fetching (R82, R144) -/

inductive Fetch where
  | word (w : Nat) (s : State)
  | trap (code : Nat) (s : State)
  | wait (s : State)

/-- A store of the executing thread to a line that is performed but has not come back to its core. -/
def State.codeBehind (s : State) (pa : Nat) : Bool := s.flight.any (fun r => r.ofThread s.cur && r.performed && !r.isLoad && lineOf r.pa == lineOf pa)

/-- The copy of a line of code that the core may use now (R11, R320, R325). -/
def State.codeCopy (s : State) (pa : Nat) : Option L1Line :=
  if s.codeBehind pa then none
  else (l1Find (s.core (coreOf s.cur)).l1i (lineOf pa)).filter (copyCurrent (s.core (coreOf s.cur)) (s.gtimeOf s.cur))

/-- The line of a fetch comes into the core's instruction cache, granted at its home as a load's copy is, unless it is there or a write to it stands
against copies (R11, R320, R325; log 12). -/
def State.bringCode (s : State) (pa : Nat) (e : TlbEntry) : State :=
  if (s.codeCopy pa).isSome || s.codeBehind pa || s.writePending (lineOf pa) then s
  else
    let c := coreOf s.cur
    let (k, s) := (s.touchL2 pa false).grant (s.partOf s.cur) c e.mt pa
    s.installCode c ⟨lineOf pa, memBytes s.mem (lineOf pa * 128) 128, k, false, (s.home (lineOf pa)).wts, (s.die (dieOfCore c)).dlt⟩

/-- Bytes with the executing thread's stores laid over them that are not performed yet (R151). -/
def State.withOwn (s : State) (pa : Nat) (bs : List Byte) : List Byte :=
  s.flight.foldl (fun bs r => match r.kind with
    | .store v =>
      if r.ofThread s.cur && !r.performed then
        bs.zipIdx.map (fun (b, i) => if r.pa ≤ pa + i ∧ pa + i < r.pa + r.size then BitVec.ofNat 8 (v / 256 ^ (pa + i - r.pa)) else b)
      else bs
    | _ => bs) bs

/-- The word that stands at an address for the executing thread. -/
def State.codeWord (s : State) (pa : Nat) : Nat :=
  leNat (s.withOwn pa (match s.codeCopy pa with
    | some c => copyBytes c pa 4
    | none => memBytes s.mem pa 4))

/-- The word at the thread's program counter: translated with permission X, its home alive, from the instruction cache (log 12). -/
def State.fetch (s : State) : Fetch :=
  match s.xlate s.cur s.me.pc .fetch 4 with
  | .wait s => .wait s
  | .trap c s => .trap c s
  | .ok pa e s =>
    if s.homeLost pa then .trap 0x0A s
    else
      let s := s.bringCode pa e
      .word (s.codeWord pa) s

/-! ### Issue -/

/-- The last word that can be fetched (R82). -/
def topWord : Addr := 0xFFFFFFFFFFFFFFFC

/-- An instruction that has left issue on the open path counts, and may have written the path's xd (R97, R98). -/
def State.countPath (s : State) (i : Instr) : State :=
  s.onMe (fun th => match th.path, th.wait with
    | some p, none => { th with path := some { p with issued := p.issued + 1, wrote := p.wrote || (Instr.dests i).contains (.x p.rd) } }
    | _, _ => th)

/-- The instruction is at the head of the thread: it waits for its registers or for a run-ahead entry, traps at the top of the space, waits for
the open path's resolution, or runs. -/
def State.issueInstr (run : Instr → State → Out) (s : State) (i : Instr) : Out :=
  if s.me.hazard i then .next (s.waitFor .register)
  else if Instr.slow i && decide (64 ≤ s.me.aheadCount) then .next (s.waitFor .slot)
  else if s.me.pc = topWord ∧ ¬ Instr.isTransfer i then .next (s.trapSync 0x03 0)
  else match s.me.path with
    | none => run i s
    | some p =>
      if Instr.onPath i && decide (p.issued < 64) then
        match run i s with
        | .next s => .next (s.countPath i)
        | o => o
      else .next (s.waitFor .likely)

/-- The thread fetches its next instruction and issues it; a reserved encoding traps (R58). -/
def State.issue (run : Instr → State → Out) (s : State) : Out :=
  match s.fetch with
  | .wait s => .next s
  | .trap c s => .next (s.trapSync c (lo64 s.me.pc))
  | .word w s =>
    match decodeA w with
    | .error _ => .next (s.trapSync 0x01 (BitVec.ofNat 64 w))
    | .ok i => s.issueInstr run i

/-- The meanings of Pelyen-A instructions, as SELECT_THREAD tries them. -/
def issueForm (i : Instr) (st : State) : Out :=
  match i with
  | .add d s t => execAdd d s t st
  | .sub d s t => execSub d s t st
  | .and d s t => execAnd d s t st
  | .or d s t => execOr d s t st
  | .xor d s t => execXor d s t st
  | .sll d s t => execSll d s t st
  | .srl d s t => execSrl d s t st
  | .sra d s t => execSra d s t st
  | .slt d s t => execSlt d s t st
  | .sltu d s t => execSltu d s t st
  | .min d s t => execMin d s t st
  | .max d s t => execMax d s t st
  | .minu d s t => execMinu d s t st
  | .maxu d s t => execMaxu d s t st
  | .mul d s t => execMul d s t st
  | .mulh d s t => execMulh d s t st
  | .mulhu d s t => execMulhu d s t st
  | .div d s t => execDiv d s t st
  | .divu d s t => execDivu d s t st
  | .rem d s t => execRem d s t st
  | .remu d s t => execRemu d s t st
  | .clz d s => execClz d s st
  | .ctz d s => execCtz d s st
  | .popc d s => execPopc d s st
  | .bswap d s => execBswap d s st
  | .addi d s i => execAddi d s i st
  | .andi d s i => execAndi d s i st
  | .ori d s i => execOri d s i st
  | .xori d s i => execXori d s i st
  | .slti d s i => execSlti d s i st
  | .sltiu d s i => execSltiu d s i st
  | .slli d s h => execSlli d s h st
  | .srli d s h => execSrli d s h st
  | .srai d s h => execSrai d s h st
  | .lui d i => execLui d i st
  | .aadd d s t => execAadd d s t st
  | .asub d s t => execAsub d s t st
  | .afromx d s => execAfromx d s st
  | .atox d s => execAtox d s st
  | .ahi d s => execAhi d s st
  | .asethi d s t => execAsethi d s t st
  | .aaddi d s i => execAaddi d s i st
  | .addpc d i => execAddpc d i st
  | .fadd d s t rm f => execFadd d s t rm f st
  | .fsub d s t rm f => execFsub d s t rm f st
  | .fmul d s t rm f => execFmul d s t rm f st
  | .fdiv d s t rm f => execFdiv d s t rm f st
  | .fsqrt d s rm f => execFsqrt d s rm f st
  | .fma d s t rm f => execFma d s t rm f st
  | .fmin d s t f => execFmin d s t f st
  | .fmax d s t f => execFmax d s t f st
  | .fcmp d s t c f => execFcmp d s t c f st
  | .fcvt d s e v rm f => execFcvt d s e v rm f st
  | .fclass d s f => execFclass d s f st
  | .vidx d s t => execVidx d s t st
  | .vld d s t => execVld d s t st
  | .vadd d s t => execVadd d s t st
  | .vbcast d s => execVbcast d s st
  | .vcmp d s t => execVcmp d s t st
  | .vext d s t => execVext d s t st
  | .ld d a z mo o => execLd d a z mo o st
  | .st d a z mo o => execSt d a z mo o st
  | .ldacq d a z mo o => execLdacq d a z mo o st
  | .strel d a z mo o => execStrel d a z mo o st
  | .ldb d a z b o => execLdb d a z b o st
  | .amo d a s f c mo z => execAmo d a s f c mo z st
  | .cas d a s c mo z => execCas d a s c mo z st
  | .pref h a o => execPref h a o st
  | .beq s t o => execBeq s t o st
  | .bne s t o => execBne s t o st
  | .blt s t o => execBlt s t o st
  | .bge s t o => execBge s t o st
  | .bltu s t o => execBltu s t o st
  | .bgeu s t o => execBgeu s t o st
  | .j o => execJ o st
  | .jal o => execJal o st
  | .jalr d s i => execJalr d s i st
  | .bqb d o => execBqb d o st
  | .bqbLk d o => execBqbLk d o st
  | .qpush r q c => execQpush r q c st
  | .qpushv r q c m => execQpushv r q c m st
  | .qpushs q l => execQpushs q l st
  | .qpop d q rm l => execQpop d q rm l st
  | .qpopSb d q rm => execQpopSb d q rm st
  | .qstat d q c b sel => execQstat d q c b sel st
  | .qbind s q l b p => execQbind s q l b p st
  | .qunbind q b => execQunbind q b st
  | .qdisc d q b => execQdisc d q b st
  | .bqpop d => execBqpop d st
  | .rqbind a q e => execRqbind a q e st
  | .sspec s a => execSspec s a st
  | .sstopPause s mode => execSstopPause s mode st
  | .sresume s => execSresume s st
  | .swait d s => execSwait d s st
  | .sstat d s => execSstat d s st
  | .binitWindow n v => execBinitWindow n v st
  | .arrive d n p => execArrive d n p st
  | .arriveR d n p => execArriveR d n p st
  | .bwait d n p => execBwait d n p st
  | .rgnalloc d s => execRgnalloc d s st
  | .rgnfree h => execRgnfree h st
  | .cfgld h s a => execCfgld h s a st
  | .cfgswap h s => execCfgswap h s st
  | .cfgswapForce h s a => execCfgswapForce h s a st
  | .cfgtrig h s c => execCfgtrig h s c st
  | .drainQuiet d h o => execDrainQuiet d h o st
  | .argw h s c => execArgw h s c st
  | .pool s a => execPool s a st
  | .pwait d s => execPwait d s st
  | .copy s a => execCopy s a st
  | .copydl s a c => execCopydl s a c st
  | .copycan s => execCopycan s st
  | .cwait d s => execCwait d s st
  | .fence c q k => execFence c q k st
  | .rnddom d a => execRnddom d a st
  | .rndadv d s => execRndadv d s st
  | .rndset s v => execRndset s v st
  | .rndget d s => execRndget d s st
  | .wpull d a c => execWpull d a c st
  | .wdone s a c => execWdone s a c st
  | .wfail s a c => execWfail s a c st
  | .ctxsaveRegion d s a => execCtxsaveRegion d s a st
  | .ctxrstRegion d s a => execCtxrstRegion d s a st
  | .red s a => execRed s a st
  | .lnkstat d s => execLnkstat d s st
  | .trap i => execTrap i st
  | .svc i => execSvc i st
  | .srr d n => execSrr d n st
  | .srw s n => execSrw s n st
  | .wfe s => execWfe s st
  | .tlbinvPg a r => execTlbinvPg a r st
  | .tlbinvAll r => execTlbinvAll r st
  | .l1dropLine a => execL1dropLine a st
  | .eret => execEret st
  | .yield => execYield st
  | .halt => execHalt st
  | .l1drop => execL1drop st
  | _ => .next st

/-! ### Causes that wait (R87, R191, R195, R283) -/

/-- The instruction in issue can no longer be undone: its answer comes before any trap. -/
def State.committed (s : State) (t : Nat) : Bool :=
  let th := s.thread t
  th.reply.isSome || s.syncBusy t || s.busy (.area t) || !s.fabricInterruptible t || (match th.wait with
    | some ⟨.round n, _, _⟩ => decide (4096 ≤ n)
    | some ⟨.drain, _, _⟩ | some ⟨.load, _, _⟩ => true
    | _ => false)

/-- An asynchronous cause is taken before the thread's next issue (R87). -/
def State.trapDue (s : State) (t : Nat) : Bool := (s.thread t).st == .active && (s.thread t).hasPending && !s.committed t

/-! ### SELECT_THREAD (R88 to R90, R105) -/

/-- A thread runs instructions: ACTIVE, or FROZEN by its own CTXSAVE that is not yet complete. -/
def Thread.runs (th : Thread) : Bool := th.st == .active || (th.st == .frozen && th.wait.isSome)

/-- The wait that keeps the thread's instruction from doing anything now; none when it is ready. -/
def State.heldBy (s : State) (t : Nat) : Option WaitKind :=
  let s := { s with cur := t }
  match s.issue issueForm with
  | .next s' =>
    match (s'.thread t).wait with
    | some w => if s' = s.onThread t (fun th => th.waitFor w.kind) then some w.kind else none
    | none => none
  | _ => none

/-- One more cycle of a wait, counted at the queue it waits on (R175). -/
def Thread.countWait (th : Thread) (k : WaitKind) : Thread :=
  let th := th.waitFor k
  let th := { th with passed := 0, wait := th.wait.map (fun w => { w with cycles := w.cycles + 1 }) }
  match k with
  | .qEmpty q => { th with qs := th.qs.map (fun (e : Nat × Queue) => if e.1 = q.val then (e.1, { e.2 with ew := e.2.ew + 1 }) else e) }
  | .qFull q => { th with qs := th.qs.map (fun (e : Nat × Queue) => if e.1 = q.val then (e.1, { e.2 with fw := e.2.fw + 1 }) else e) }
  | .bqEmpty => { th with bq := th.bq.map (fun b => { b with ew := b.ew + 1 }) }
  | _ => th

/-- What a wait may lead to in the same cycle. -/
def waitEvents (t : Nat) (k : WaitKind) : List Event :=
  match k with
  | .qEmpty _ | .bqEmpty => [.lossOfDecoupling t, .queueStall t]
  | .qFull _ | .unbind _ => [.queueStall t]
  | .wfe _ => [.wfeLimit t]
  | _ => []

/-- One thread of the core is looked at: a cause waits to be taken first, its fetch is under way, it is held, or it is ready. -/
def State.look (a : State × List Nat) (t : Nat) : State × List Nat :=
  let (s, ready) := a
  match tget s.threads t with
  | none => a
  | some th =>
    if s.trapDue t then (s, ready)
    else if !th.runs then (s.onThread t (fun th => { th with passed := 0 }), ready)
    else
      match ({ s with cur := t } : State).fetch with
      | .wait s => (s.onThread t (fun th => th.countWait .walk), ready)
      | .word _ s | .trap _ s =>
        match s.heldBy t with
        | some k => ((s.onThread t (fun th => th.countWait k)).post (waitEvents t k), ready)
        | none => (s, ready ++ [t])

/-- SelectThread (R89) among ready threads, with the one that has just yielded passed over if there is another (R105). -/
def Core.choose (c : Core) (s : State) (ready : List Nat) : Option Nat :=
  let others := ready.filter (fun t => c.yielded != some (thOf t))
  let cand := if others.isEmpty then ready else others
  let aged := cand.filter (fun t => decide (64 ≤ (s.thread t).passed))
  let top := cand.foldl (fun m t => max m (s.thread t).prio.toNat) 0
  let pool := if aged.isEmpty then cand.filter (fun t => (s.thread t).prio.toNat == top) else aged
  (List.range 8).findSome? (fun k => pool.find? (fun t => thOf t == (c.last + 1 + k) % 8))

/-- SELECT_THREAD (R89): the selected thread's instruction is put up to execute. -/
def execSelectThread (core : Nat) (st : State) : Out :=
  let (s, ready) := ((List.range 8).map (fun i => core * 8 + i)).foldl State.look (st, [])
  let co := s.core core
  let s := s.onCore core (fun c => { c with yielded := none })
  match co.choose s ready with
  | none => .next s
  | some t =>
    let s := ready.foldl (fun (s : State) u => s.onThread u (fun th => { th with passed := if u = t then 0 else th.passed + 1 })) s
    .next { s.onCore core (fun c => { c with last := thOf t }) with turn := .thread t }

/-! ### TAKE_TRAP (R85 to R87, R99, R104, R106, R191, R283, R334, R365) -/

/-- Where execution resumes: at the BQB of an abandoned path, after a WFE that waits, or at the next instruction. -/
def Thread.resumeAt (th : Thread) : Addr :=
  match th.path, th.wait with
  | some p, _ => p.pc
  | none, some ⟨.wfe _, _, _⟩ => th.pc + 4
  | none, _ => th.pc

/-- What the instruction in issue has begun is taken back. -/
def State.withdraw (s : State) (t : Nat) : State :=
  let s := match (s.thread t).wait with
    | some ⟨.sync id, _, _⟩ => s.dropReq id
    | _ => s
  ((((s.orphan (.thread t)).forgetWalks (.area t)).dropPath t).cancelBwait t).cancelFabric t

/-- TAKE_TRAP: the lowest pending cause of an ACTIVE thread with HOLD 0 is taken before its next issue. -/
def execTakeTrap (t : Nat) (st : State) : Out :=
  let th := st.thread t
  match th.pend with
  | [] => .next st
  | p :: rest =>
    if !st.trapDue t then .next st
    else
      let s := (st.withdraw t).onThread t (fun th => { th with pend := rest })
      let s := if serverCause p.code then s.acquire t else s
      .next (s.enterTrap t p.code true p.tval th.resumeAt)

end Sys2Proof.Machine
end

