-- ==== Sys2Proof/Machine/Dispatch.lean ====
section
/-!
DEFINITION. The meaning of every instruction: one arm per constructor of Instr, one direct call each.
-/
namespace Sys2Proof.Machine

/-- What a step of the part does. -/
def exec (i : Instr) (s : State) : Host.Outcome State Fault Refusal :=
  match i with
  | .add d r1 t => Sys2Proof.Machine.execAdd d r1 t s
  | .sub d r1 t => Sys2Proof.Machine.execSub d r1 t s
  | .and d r1 t => Sys2Proof.Machine.execAnd d r1 t s
  | .or d r1 t => Sys2Proof.Machine.execOr d r1 t s
  | .xor d r1 t => Sys2Proof.Machine.execXor d r1 t s
  | .sll d r1 t => Sys2Proof.Machine.execSll d r1 t s
  | .srl d r1 t => Sys2Proof.Machine.execSrl d r1 t s
  | .sra d r1 t => Sys2Proof.Machine.execSra d r1 t s
  | .slt d r1 t => Sys2Proof.Machine.execSlt d r1 t s
  | .sltu d r1 t => Sys2Proof.Machine.execSltu d r1 t s
  | .min d r1 t => Sys2Proof.Machine.execMin d r1 t s
  | .max d r1 t => Sys2Proof.Machine.execMax d r1 t s
  | .minu d r1 t => Sys2Proof.Machine.execMinu d r1 t s
  | .maxu d r1 t => Sys2Proof.Machine.execMaxu d r1 t s
  | .mul d r1 t => Sys2Proof.Machine.execMul d r1 t s
  | .mulh d r1 t => Sys2Proof.Machine.execMulh d r1 t s
  | .mulhu d r1 t => Sys2Proof.Machine.execMulhu d r1 t s
  | .div d r1 t => Sys2Proof.Machine.execDiv d r1 t s
  | .divu d r1 t => Sys2Proof.Machine.execDivu d r1 t s
  | .rem d r1 t => Sys2Proof.Machine.execRem d r1 t s
  | .remu d r1 t => Sys2Proof.Machine.execRemu d r1 t s
  | .clz d r1 => Sys2Proof.Machine.execClz d r1 s
  | .ctz d r1 => Sys2Proof.Machine.execCtz d r1 s
  | .popc d r1 => Sys2Proof.Machine.execPopc d r1 s
  | .bswap d r1 => Sys2Proof.Machine.execBswap d r1 s
  | .addi d r1 i1 => Sys2Proof.Machine.execAddi d r1 i1 s
  | .andi d r1 i1 => Sys2Proof.Machine.execAndi d r1 i1 s
  | .ori d r1 i1 => Sys2Proof.Machine.execOri d r1 i1 s
  | .xori d r1 i1 => Sys2Proof.Machine.execXori d r1 i1 s
  | .slti d r1 i1 => Sys2Proof.Machine.execSlti d r1 i1 s
  | .sltiu d r1 i1 => Sys2Proof.Machine.execSltiu d r1 i1 s
  | .slli d r1 h => Sys2Proof.Machine.execSlli d r1 h s
  | .srli d r1 h => Sys2Proof.Machine.execSrli d r1 h s
  | .srai d r1 h => Sys2Proof.Machine.execSrai d r1 h s
  | .lui d i1 => Sys2Proof.Machine.execLui d i1 s
  | .aadd d r1 t => Sys2Proof.Machine.execAadd d r1 t s
  | .asub d r1 t => Sys2Proof.Machine.execAsub d r1 t s
  | .afromx d r1 => Sys2Proof.Machine.execAfromx d r1 s
  | .atox d r1 => Sys2Proof.Machine.execAtox d r1 s
  | .ahi d r1 => Sys2Proof.Machine.execAhi d r1 s
  | .asethi d r1 t => Sys2Proof.Machine.execAsethi d r1 t s
  | .aaddi d r1 i1 => Sys2Proof.Machine.execAaddi d r1 i1 s
  | .addpc d i1 => Sys2Proof.Machine.execAddpc d i1 s
  | .fadd d r1 t rm f => Sys2Proof.Machine.execFadd d r1 t rm f s
  | .fsub d r1 t rm f => Sys2Proof.Machine.execFsub d r1 t rm f s
  | .fmul d r1 t rm f => Sys2Proof.Machine.execFmul d r1 t rm f s
  | .fdiv d r1 t rm f => Sys2Proof.Machine.execFdiv d r1 t rm f s
  | .fsqrt d r1 rm f => Sys2Proof.Machine.execFsqrt d r1 rm f s
  | .fma d r1 t rm f => Sys2Proof.Machine.execFma d r1 t rm f s
  | .fmin d r1 t f => Sys2Proof.Machine.execFmin d r1 t f s
  | .fmax d r1 t f => Sys2Proof.Machine.execFmax d r1 t f s
  | .fcmp d r1 t c f => Sys2Proof.Machine.execFcmp d r1 t c f s
  | .fcvt d r1 e v rm f => Sys2Proof.Machine.execFcvt d r1 e v rm f s
  | .fclass d r1 f => Sys2Proof.Machine.execFclass d r1 f s
  | .vidx d r1 t => Sys2Proof.Machine.execVidx d r1 t s
  | .vld d r1 t => Sys2Proof.Machine.execVld d r1 t s
  | .vadd d r1 t => Sys2Proof.Machine.execVadd d r1 t s
  | .vbcast d r1 => Sys2Proof.Machine.execVbcast d r1 s
  | .vcmp d r1 t => Sys2Proof.Machine.execVcmp d r1 t s
  | .vext d r1 t => Sys2Proof.Machine.execVext d r1 t s
  | .ld d a z mo o => Sys2Proof.Machine.execLd d a z mo o s
  | .st d a z mo o => Sys2Proof.Machine.execSt d a z mo o s
  | .ldacq d a z mo o => Sys2Proof.Machine.execLdacq d a z mo o s
  | .strel d a z mo o => Sys2Proof.Machine.execStrel d a z mo o s
  | .ldb d a z b o => Sys2Proof.Machine.execLdb d a z b o s
  | .amo d a r1 f c mo z => Sys2Proof.Machine.execAmo d a r1 f c mo z s
  | .cas d a r1 c mo z => Sys2Proof.Machine.execCas d a r1 c mo z s
  | .pref h a o => Sys2Proof.Machine.execPref h a o s
  | .beq r1 t o => Sys2Proof.Machine.execBeq r1 t o s
  | .bne r1 t o => Sys2Proof.Machine.execBne r1 t o s
  | .blt r1 t o => Sys2Proof.Machine.execBlt r1 t o s
  | .bge r1 t o => Sys2Proof.Machine.execBge r1 t o s
  | .bltu r1 t o => Sys2Proof.Machine.execBltu r1 t o s
  | .bgeu r1 t o => Sys2Proof.Machine.execBgeu r1 t o s
  | .j o => Sys2Proof.Machine.execJ o s
  | .jal o => Sys2Proof.Machine.execJal o s
  | .jalr d r1 i1 => Sys2Proof.Machine.execJalr d r1 i1 s
  | .bqb d o => Sys2Proof.Machine.execBqb d o s
  | .bqbLk d o => Sys2Proof.Machine.execBqbLk d o s
  | .qpush r q c => Sys2Proof.Machine.execQpush r q c s
  | .qpushv r q c m => Sys2Proof.Machine.execQpushv r q c m s
  | .qpushs q l => Sys2Proof.Machine.execQpushs q l s
  | .qpop d q rm l => Sys2Proof.Machine.execQpop d q rm l s
  | .qpopSb d q rm => Sys2Proof.Machine.execQpopSb d q rm s
  | .qstat d q c b sel => Sys2Proof.Machine.execQstat d q c b sel s
  | .qbind r1 q l b p => Sys2Proof.Machine.execQbind r1 q l b p s
  | .qunbind q b => Sys2Proof.Machine.execQunbind q b s
  | .qdisc d q b => Sys2Proof.Machine.execQdisc d q b s
  | .bqpop d => Sys2Proof.Machine.execBqpop d s
  | .rqbind a q e => Sys2Proof.Machine.execRqbind a q e s
  | .sspec r1 a => Sys2Proof.Machine.execSspec r1 a s
  | .sstopPause r1 mode => Sys2Proof.Machine.execSstopPause r1 mode s
  | .sresume r1 => Sys2Proof.Machine.execSresume r1 s
  | .swait d r1 => Sys2Proof.Machine.execSwait d r1 s
  | .sstat d r1 => Sys2Proof.Machine.execSstat d r1 s
  | .binitWindow n v => Sys2Proof.Machine.execBinitWindow n v s
  | .arrive d n p => Sys2Proof.Machine.execArrive d n p s
  | .arriveR d n p => Sys2Proof.Machine.execArriveR d n p s
  | .bwait d n p => Sys2Proof.Machine.execBwait d n p s
  | .rgnalloc d r1 => Sys2Proof.Machine.execRgnalloc d r1 s
  | .rgnfree h => Sys2Proof.Machine.execRgnfree h s
  | .cfgld h r1 a => Sys2Proof.Machine.execCfgld h r1 a s
  | .cfgswap h r1 => Sys2Proof.Machine.execCfgswap h r1 s
  | .cfgswapForce h r1 a => Sys2Proof.Machine.execCfgswapForce h r1 a s
  | .cfgtrig h r1 c => Sys2Proof.Machine.execCfgtrig h r1 c s
  | .drainQuiet d h o => Sys2Proof.Machine.execDrainQuiet d h o s
  | .argw h r1 c => Sys2Proof.Machine.execArgw h r1 c s
  | .pool r1 a => Sys2Proof.Machine.execPool r1 a s
  | .pwait d r1 => Sys2Proof.Machine.execPwait d r1 s
  | .copy r1 a => Sys2Proof.Machine.execCopy r1 a s
  | .copydl r1 a c => Sys2Proof.Machine.execCopydl r1 a c s
  | .copycan r1 => Sys2Proof.Machine.execCopycan r1 s
  | .cwait d r1 => Sys2Proof.Machine.execCwait d r1 s
  | .fence c q k => Sys2Proof.Machine.execFence c q k s
  | .rnddom d a => Sys2Proof.Machine.execRnddom d a s
  | .rndadv d r1 => Sys2Proof.Machine.execRndadv d r1 s
  | .rndset r1 v => Sys2Proof.Machine.execRndset r1 v s
  | .rndget d r1 => Sys2Proof.Machine.execRndget d r1 s
  | .wpull d a c => Sys2Proof.Machine.execWpull d a c s
  | .wdone r1 a c => Sys2Proof.Machine.execWdone r1 a c s
  | .wfail r1 a c => Sys2Proof.Machine.execWfail r1 a c s
  | .ctxsaveRegion d r1 a => Sys2Proof.Machine.execCtxsaveRegion d r1 a s
  | .ctxrstRegion d r1 a => Sys2Proof.Machine.execCtxrstRegion d r1 a s
  | .red r1 a => Sys2Proof.Machine.execRed r1 a s
  | .lnkstat d r1 => Sys2Proof.Machine.execLnkstat d r1 s
  | .trap i1 => Sys2Proof.Machine.execTrap i1 s
  | .svc i1 => Sys2Proof.Machine.execSvc i1 s
  | .srr d n => Sys2Proof.Machine.execSrr d n s
  | .srw r1 n => Sys2Proof.Machine.execSrw r1 n s
  | .wfe r1 => Sys2Proof.Machine.execWfe r1 s
  | .tlbinvPg a r => Sys2Proof.Machine.execTlbinvPg a r s
  | .tlbinvAll r => Sys2Proof.Machine.execTlbinvAll r s
  | .l1dropLine a => Sys2Proof.Machine.execL1dropLine a s
  | .iadd e => Sys2Proof.Machine.execIadd e s
  | .isub e => Sys2Proof.Machine.execIsub e s
  | .iadds e => Sys2Proof.Machine.execIadds e s
  | .isubs e => Sys2Proof.Machine.execIsubs e s
  | .imul e => Sys2Proof.Machine.execImul e s
  | .imulh e => Sys2Proof.Machine.execImulh e s
  | .imad e => Sys2Proof.Machine.execImad e s
  | .imin e => Sys2Proof.Machine.execImin e s
  | .imax e => Sys2Proof.Machine.execImax e s
  | .iabs e => Sys2Proof.Machine.execIabs e s
  | .ineg e => Sys2Proof.Machine.execIneg e s
  | .ishl e => Sys2Proof.Machine.execIshl e s
  | .ishr e => Sys2Proof.Machine.execIshr e s
  | .isar e => Sys2Proof.Machine.execIsar e s
  | .iand e => Sys2Proof.Machine.execIand e s
  | .ior e => Sys2Proof.Machine.execIor e s
  | .ixor e => Sys2Proof.Machine.execIxor e s
  | .inot e => Sys2Proof.Machine.execInot e s
  | .iclz e => Sys2Proof.Machine.execIclz e s
  | .ipopc e => Sys2Proof.Machine.execIpopc e s
  | .iminu e => Sys2Proof.Machine.execIminu e s
  | .imaxu e => Sys2Proof.Machine.execImaxu e s
  | .eFadd e => Sys2Proof.Machine.execEFadd e s
  | .eFsub e => Sys2Proof.Machine.execEFsub e s
  | .eFmul e => Sys2Proof.Machine.execEFmul e s
  | .eFma e => Sys2Proof.Machine.execEFma e s
  | .fms e => Sys2Proof.Machine.execFms e s
  | .fnma e => Sys2Proof.Machine.execFnma e s
  | .eFdiv e => Sys2Proof.Machine.execEFdiv e s
  | .eFsqrt e => Sys2Proof.Machine.execEFsqrt e s
  | .eFmin e => Sys2Proof.Machine.execEFmin e s
  | .eFmax e => Sys2Proof.Machine.execEFmax e s
  | .fabs e => Sys2Proof.Machine.execFabs e s
  | .fneg e => Sys2Proof.Machine.execFneg e s
  | .frnd e => Sys2Proof.Machine.execFrnd e s
  | .icmpEq e => Sys2Proof.Machine.execIcmpEq e s
  | .icmpNe e => Sys2Proof.Machine.execIcmpNe e s
  | .icmpLt e => Sys2Proof.Machine.execIcmpLt e s
  | .icmpLe e => Sys2Proof.Machine.execIcmpLe e s
  | .icmpLtu e => Sys2Proof.Machine.execIcmpLtu e s
  | .icmpLeu e => Sys2Proof.Machine.execIcmpLeu e s
  | .eFcmpEq e => Sys2Proof.Machine.execEFcmpEq e s
  | .eFcmpNe e => Sys2Proof.Machine.execEFcmpNe e s
  | .eFcmpLt e => Sys2Proof.Machine.execEFcmpLt e s
  | .eFcmpLe e => Sys2Proof.Machine.execEFcmpLe e s
  | .eFcmpUn e => Sys2Proof.Machine.execEFcmpUn e s
  | .eFcmpOrd e => Sys2Proof.Machine.execEFcmpOrd e s
  | .sel e => Sys2Proof.Machine.execSel e s
  | .pand e => Sys2Proof.Machine.execPand e s
  | .por e => Sys2Proof.Machine.execPor e s
  | .pnot e => Sys2Proof.Machine.execPnot e s
  | .exp2 e => Sys2Proof.Machine.execExp2 e s
  | .log2 e => Sys2Proof.Machine.execLog2 e s
  | .rcp e => Sys2Proof.Machine.execRcp e s
  | .rsq e => Sys2Proof.Machine.execRsq e s
  | .tanh e => Sys2Proof.Machine.execTanh e s
  | .sin e => Sys2Proof.Machine.execSin e s
  | .cos e => Sys2Proof.Machine.execCos e s
  | .mxq e => Sys2Proof.Machine.execMxq e s
  | .mxdq e => Sys2Proof.Machine.execMxdq e s
  | .lperm e => Sys2Proof.Machine.execLperm e s
  | .lshf e => Sys2Proof.Machine.execLshf e s
  | .lbcast e => Sys2Proof.Machine.execLbcast e s
  | .lred e => Sys2Proof.Machine.execLred e s
  | .lscan e => Sys2Proof.Machine.execLscan e s
  | .lidx e => Sys2Proof.Machine.execLidx e s
  | .lcnt e => Sys2Proof.Machine.execLcnt e s
  | .split e => Sys2Proof.Machine.execSplit e s
  | .join e => Sys2Proof.Machine.execJoin e s
  | .cmpct e => Sys2Proof.Machine.execCmpct e s
  | .stopq e => Sys2Proof.Machine.execStopq e s
  | .stopg e => Sys2Proof.Machine.execStopg e s
  | .mark e => Sys2Proof.Machine.execMark e s
  | .fan e => Sys2Proof.Machine.execFan e s
  | .bnet e => Sys2Proof.Machine.execBnet e s
  | .bfx e => Sys2Proof.Machine.execBfx e s
  | .bfi e => Sys2Proof.Machine.execBfi e s
  | .pop e => Sys2Proof.Machine.execPop e s
  | .push e => Sys2Proof.Machine.execPush e s
  | .bqw e => Sys2Proof.Machine.execBqw e s
  | .mtgat e => Sys2Proof.Machine.execMtgat e s
  | .mtsct e => Sys2Proof.Machine.execMtsct e s
  | .mtsca e => Sys2Proof.Machine.execMtsca e s
  | .mtamo e => Sys2Proof.Machine.execMtamo e s
  | .mttas e => Sys2Proof.Machine.execMttas e s
  | .mtbin e => Sys2Proof.Machine.execMtbin e s
  | .mtrule e => Sys2Proof.Machine.execMtrule e s
  | .mma e => Sys2Proof.Machine.execMma e s
  | .accz e => Sys2Proof.Machine.execAccz e s
  | .accrd e => Sys2Proof.Machine.execAccrd e s
  | .accwr e => Sys2Proof.Machine.execAccwr e s
  | .accck e => Sys2Proof.Machine.execAccck e s
  | .accrs e => Sys2Proof.Machine.execAccrs e s
  | .cmpx e => Sys2Proof.Machine.execCmpx e s
  | .sorte e => Sys2Proof.Machine.execSorte e s
  | .gmax e => Sys2Proof.Machine.execGmax e s
  | .topk e => Sys2Proof.Machine.execTopk e s
  | .renorm e => Sys2Proof.Machine.execRenorm e s
  | .cvt dest e => Sys2Proof.Machine.execCvt dest e s
  | .cvtSat dest e => Sys2Proof.Machine.execCvtSat dest e s
  | .eret => Sys2Proof.Machine.execEret s
  | .yield => Sys2Proof.Machine.execYield s
  | .halt => Sys2Proof.Machine.execHalt s
  | .l1drop => Sys2Proof.Machine.execL1drop s
  | .sstopAbort r1 mode => Sys2Proof.Machine.execSstopAbort r1 mode s
  | .binitBarrier n v => Sys2Proof.Machine.execBinitBarrier n v s
  | .cfgtrigDisarm h r1 c => Sys2Proof.Machine.execCfgtrigDisarm h r1 c s
  | .drainWait d h o => Sys2Proof.Machine.execDrainWait d h o s
  | .drainDiscard d h o => Sys2Proof.Machine.execDrainDiscard d h o s
  | .drainStat d h o => Sys2Proof.Machine.execDrainStat d h o s
  | .poolResume r1 a => Sys2Proof.Machine.execPoolResume r1 a s
  | .poolAbandon r1 a => Sys2Proof.Machine.execPoolAbandon r1 a s
  | .copyResume r1 a => Sys2Proof.Machine.execCopyResume r1 a s
  | .copyAbandon r1 a => Sys2Proof.Machine.execCopyAbandon r1 a s
  | .rndsetClr r1 v => Sys2Proof.Machine.execRndsetClr r1 v s
  | .ctxsaveThread d r1 a => Sys2Proof.Machine.execCtxsaveThread d r1 a s
  | .ctxrstThread d r1 a => Sys2Proof.Machine.execCtxrstThread d r1 a s
  | .bnetLoad e => Sys2Proof.Machine.execBnetLoad e s
  | .moduleStart o => Sys2Proof.Machine.execModuleStart o s
  | .bootClr step unit => Sys2Proof.Machine.execBootClr step unit s
  | .attestationRequest nonce => Sys2Proof.Machine.execAttestationRequest nonce s
  | .managementPortAccess a => Sys2Proof.Machine.execManagementPortAccess a s
  | .heartbeatMiss die => Sys2Proof.Machine.execHeartbeatMiss die s
  | .homeLossBroadcast die => Sys2Proof.Machine.execHomeLossBroadcast die s
  | .retrain port => Sys2Proof.Machine.execRetrain port s
  | .retrainComplete port passed peer => Sys2Proof.Machine.execRetrainComplete port passed peer s
  | .powerMeasurement watts temp clamp => Sys2Proof.Machine.execPowerMeasurement watts temp clamp s
  | .thermalClamp => Sys2Proof.Machine.execThermalClamp s
  | .thermalPowerOff die => Sys2Proof.Machine.execThermalPowerOff die s
  | .bucketSettingWrite die bogie v => Sys2Proof.Machine.execBucketSettingWrite die bogie v s
  | .bucketCredit rgn => Sys2Proof.Machine.execBucketCredit rgn s
  | .registerWrite pa size v mode => Sys2Proof.Machine.execRegisterWrite pa size v mode s
  | .partitionStart p => Sys2Proof.Machine.execPartitionStart p s
  | .partitionStop p => Sys2Proof.Machine.execPartitionStop p s
  | .sliceArm p => Sys2Proof.Machine.execSliceArm p s
  | .sliceJoin p => Sys2Proof.Machine.execSliceJoin p s
  | .sliceBegin p => Sys2Proof.Machine.execSliceBegin p s
  | .joinReceived p gang seq peer => Sys2Proof.Machine.execJoinReceived p gang seq peer s
  | .graceExpiry p => Sys2Proof.Machine.execGraceExpiry p s
  | .cancelReceived p gang seq => Sys2Proof.Machine.execCancelReceived p gang seq s
  | .timeDiscipline die slew sync => Sys2Proof.Machine.execTimeDiscipline die slew sync s
  | .driftBeyondGuard die drift => Sys2Proof.Machine.execDriftBeyondGuard die drift s
  | .ltTick core => Sys2Proof.Machine.execLtTick core s
  | .selectThread core => Sys2Proof.Machine.execSelectThread core s
  | .takeTrap t => Sys2Proof.Machine.execTakeTrap t s
  | .likelyPathResolution t => Sys2Proof.Machine.execLikelyPathResolution t s
  | .wfeLimit t => Sys2Proof.Machine.execWfeLimit t s
  | .queueStall t => Sys2Proof.Machine.execQueueStall t s
  | .lossOfDecoupling t => Sys2Proof.Machine.execLossOfDecoupling t s
  | .queuePortDelivery t q => Sys2Proof.Machine.execQueuePortDelivery t q s
  | .queueAccept t q => Sys2Proof.Machine.execQueueAccept t q s
  | .remoteTokenArrival t q tok => Sys2Proof.Machine.execRemoteTokenArrival t q tok s
  | .ringReentry t q => Sys2Proof.Machine.execRingReentry t q s
  | .stopGo t q => Sys2Proof.Machine.execStopGo t q s
  | .remoteAck t q n => Sys2Proof.Machine.execRemoteAck t q n s
  | .remotePairing t q => Sys2Proof.Machine.execRemotePairing t q s
  | .flitReceived port f intact => Sys2Proof.Machine.execFlitReceived port f intact s
  | .flitResend port => Sys2Proof.Machine.execFlitResend port s
  | .portDown port => Sys2Proof.Machine.execPortDown port s
  | .loadAtHome id => Sys2Proof.Machine.execLoadAtHome id s
  | .loadReply id => Sys2Proof.Machine.execLoadReply id s
  | .storeAtHome id => Sys2Proof.Machine.execStoreAtHome id s
  | .atomicAtHome id => Sys2Proof.Machine.execAtomicAtHome id s
  | .invalidationAck id die => Sys2Proof.Machine.execInvalidationAck id die s
  | .hostRead pa size cache => Sys2Proof.Machine.execHostRead pa size cache s
  | .hostWrite pa size v => Sys2Proof.Machine.execHostWrite pa size v s
  | .hostSnoop line => Sys2Proof.Machine.execHostSnoop line s
  | .backInvalidateResponse id => Sys2Proof.Machine.execBackInvalidateResponse id s
  | .cxlLeaseWaitEnd id => Sys2Proof.Machine.execCxlLeaseWaitEnd id s
  | .pageWalk die => Sys2Proof.Machine.execPageWalk die s
  | .domainReadAtHome id => Sys2Proof.Machine.execDomainReadAtHome id s
  | .staleWait id => Sys2Proof.Machine.execStaleWait id s
  | .roundControllerIncrement t => Sys2Proof.Machine.execRoundControllerIncrement t s
  | .viewUpdate p dom die n => Sys2Proof.Machine.execViewUpdate p dom die n s
  | .contextCounter rgn => Sys2Proof.Machine.execContextCounter rgn s
  | .roundStart rgn ce => Sys2Proof.Machine.execRoundStart rgn ce s
  | .vectorUnitStart rgn ce => Sys2Proof.Machine.execVectorUnitStart rgn ce s
  | .roundCommit rgn ce => Sys2Proof.Machine.execRoundCommit rgn ce s
  | .channelHeadArrival rgn chan => Sys2Proof.Machine.execChannelHeadArrival rgn chan s
  | .kStepRound rgn ce => Sys2Proof.Machine.execKStepRound rgn ce s
  | .brakeEngage rgn freeze => Sys2Proof.Machine.execBrakeEngage rgn freeze s
  | .brakeRelease rgn => Sys2Proof.Machine.execBrakeRelease rgn s
  | .sequencerTimeout rgn mt unit => Sys2Proof.Machine.execSequencerTimeout rgn mt unit s
  | .faultRecordLeave rgn => Sys2Proof.Machine.execFaultRecordLeave rgn s
  | .autoDiscard rgn => Sys2Proof.Machine.execAutoDiscard rgn s
  | .faultRecordWrite p => Sys2Proof.Machine.execFaultRecordWrite p s
  | .triggerFire rgn => Sys2Proof.Machine.execTriggerFire rgn s
  | .quietReport rgn => Sys2Proof.Machine.execQuietReport rgn s
  | .swapActivate rgn => Sys2Proof.Machine.execSwapActivate rgn s
  | .mtRequestArrival rgn mt => Sys2Proof.Machine.execMtRequestArrival rgn mt s
  | .mtBankAccess rgn mt => Sys2Proof.Machine.execMtBankAccess rgn mt s
  | .mtResponse rgn mt => Sys2Proof.Machine.execMtResponse rgn mt s
  | .streamLineRequest t slot => Sys2Proof.Machine.execStreamLineRequest t slot s
  | .streamTokenDelivery t slot => Sys2Proof.Machine.execStreamTokenDelivery t slot s
  | .storeStreamTake t slot => Sys2Proof.Machine.execStoreStreamTake t slot s
  | .poolBag t slot => Sys2Proof.Machine.execPoolBag t slot s
  | .completionToken t slot copyEngine => Sys2Proof.Machine.execCompletionToken t slot copyEngine s
  | .copyLine die => Sys2Proof.Machine.execCopyLine die s
  | .deadlineTest die p => Sys2Proof.Machine.execDeadlineTest die p s
  | .chainHop t slot => Sys2Proof.Machine.execChainHop t slot s
  | .ingressSelector t slot => Sys2Proof.Machine.execIngressSelector t slot s
  | .storeAcknowledgement id => Sys2Proof.Machine.execStoreAcknowledgement id s
  | .l1Invalidation die line => Sys2Proof.Machine.execL1Invalidation die line s
  | .flitSend port => Sys2Proof.Machine.execFlitSend port s
  | .thermalClampRelease => Sys2Proof.Machine.execThermalClampRelease s

end Sys2Proof.Machine
end

