-- ==== Sys2Proof/Machine/Clock.lean ====
section
/-!
DEFINITION. Time: what one tick of the model's clock does (R17, R321, R361), and which events a cycle holds, in the order in which they happen (log 6, 8).
Two ticks are an access-core cycle, five a fabric cycle, and 47 are ten nanoseconds.
-/
namespace Sys2Proof.Machine

/-! ### Counting in one fabric cycle -/

/-- Results whose latency is over fill their slots (R221). -/
def Round.beat (rd : Round) (timed : Bool) : Round :=
  let fl := rd.inFlight.map (fun (e : Nat × Nat × Slot × Token) => (e.1 - 1, e.2))
  { rd with
    vals := rd.vals ++ (fl.filter (fun e => e.1 == 0)).map (fun e => (e.2.1, e.2.2.1, e.2.2.2))
    inFlight := fl.filter (fun e => e.1 != 0)
    age := if timed then rd.age + 1 else rd.age }

def Ce.beat (c : Ce) (timed : Bool) : Ce := { c with rounds := c.rounds.map (fun rd => rd.beat timed), busy := c.busy - 1 }

def ChanState.beat (c : ChanState) : ChanState := { c with transit := c.transit.map (fun (e : Token × Nat) => (e.1, e.2 - 1)) }

def Mt.beat (m : Mt) (timed : Bool) : Mt :=
  let hop (q : MtReq) : MtReq := { q with hops := q.hops - 1 }
  { m with
    arriving := m.arriving.map hop
    respond := m.respond.map hop
    queue := m.queue.map (fun q => if timed then { q with age := q.age + 1 } else q) }

/-- One fabric cycle of a region's own counters. -/
def Region.beat (r : Region) (timed : Bool) : Region :=
  { r with
    entered := []
    chans := r.chans.map (fun (e : Nat × ChanState) => (e.1, e.2.beat))
    ces := r.ces.map (fun (e : Nat × Ce) => (e.1, e.2.beat timed))
    mts := r.mts.map (fun (e : Nat × Mt) => (e.1, e.2.beat timed))
    faults := r.faults.map (fun f => { f with left := f.left - 1 }) }

/-- Tokens crossing a coupler hop (R382). -/
def SSlot.beat (x : SSlot) : SSlot :=
  match x with
  | .chain c => .chain { c with transit := c.transit.map (fun (e : Token × Nat) => (e.1, e.2 - 1)) }
  | .stream x => .stream x

/-- The core whose node a bucket of a queue port stands at. -/
def pointCore (p : Point) : Option Nat := if p.key < 2 ^ 17 then some (coreOf (p.key / 64)) else none

/-- A node of an access core has delivered its four tokens of the cycle (R161). -/
def State.nodeFull (s : State) (p : Point) : Bool := (pointCore p).any (fun c => decide (4 ≤ (s.core c).gave))

/-- A token has been delivered at an entry, counted where that stands at an access core's node. -/
def State.countGave (s : State) (p : Point) : State :=
  match pointCore p with
  | some c => s.onCore c (fun co => { co with gave := co.gave + 1 })
  | none => s

/-- Restored tokens enter their channels in record order, bound port or not, one a cycle at each port (R161, R378). -/
def State.enterRestored (s : State) (key : Nat) : State :=
  match s.region key with
  | none => s
  | some r =>
    (r.ingress.map (fun e => (e.1, e.2.ctx.val))).eraseDups.foldl (fun (s : State) (pc : Nat × Nat) =>
      match s.region key with
      | none => s
      | some r =>
        match r.ingress.find? (fun e => e.1 == pc.1 && e.2.ctx.val == pc.2) with
        | none => s
        | some e =>
          let p := s.portPoint r pc.1 pc.2
          if s.nodeFull p then s
          else match s.tryEnter r pc.1 pc.2 p e.2 with
          | .enters s => (s.countGave p).onRegion key (fun r => { r with ingress := r.ingress.erase e, entered := (pc.1, pc.2) :: r.entered })
          | _ => s) s

/-- Cycles in which a region was held by its brake (R259). -/
def State.countHeld (s : State) : State :=
  (s.regions.filter (fun e => e.2.brake)).foldl (fun (s : State) e => s.bump e.2.part 0x170 95 64 1) s

/-- The stream of a rim tile whose line request is granted next, in round-robin order (R287), as thread × 8 + slot. -/
def State.grantAt (s : State) (rim : Nat) : Option Nat :=
  let busy := ((s.rimStreams rim).take 4).filterMap (fun e => match s.streamAt e.2.1 e.2.2 with
    | some x => if x.state == .run && !x.store then some (e.2.1 * 8 + e.2.2) else none
    | none => none)
  let last := tgetD s.rimLast rim 0
  let least (l : List Nat) : Option Nat := l.foldl (fun m n => some (match m with | some k => min k n | none => n)) none
  (least (busy.filter (fun n => decide (last < n)))).or (least busy)

/-- Rim tiles that hold streams. -/
def State.rims (s : State) : List Nat :=
  (s.threads.flatMap (fun (e : Nat × Thread) => e.2.ss.filterMap (fun (x : Nat × SSlot) => match x.2 with | .stream x => some x.rim | .chain _ => none))).eraseDups

/-- Cycles in which bq's channel holds a token while bq holds 32 entries, its port open or closed (R4, R175). -/
def State.countBq (s : State) : State :=
  s.threads.foldl (fun (s : State) (e : Nat × Thread) => match e.2.bq with
    | some b =>
      let waits : Bool := match s.region (rkey (s.partOf e.1) b.region.toNat) with
        | some r => (r.image.bind (fun i => i.portChan b.port)).any (fun c => !(r.chan c b.ctx.val).buf.isEmpty)
        | none => false
      if 32 ≤ b.entries.length ∧ waits then s.onThread e.1 (fun th => { th with bq := th.bq.map (fun b => { b with fw := b.fw + 1 }) }) else s
    | none => s) s

/-- An uncorrectable error in a CE's or a tile's memory is counted; LAST names memory errors alone (R380). -/
def State.countBad (s : State) (p : Fin 8) : State := s.bump p 0x3B0 95 64 1

/-- The memory of a CE fails under a round in flight: an execute-side fault of kind 6, with which round and instruction open (R366, R380; log 35). -/
def State.upsetCe (s : State) (u : Nat → Nat) : State :=
  match s.regions[u 1 % s.regions.length]? with
  | none => s
  | some (key, r) => match r.ces[u 2 % r.ces.length]? with
    | none => s
    | some (ce, c) =>
      let n := u 3 % c.rounds.length
      match c.rounds[n]? with
      | none => s
      | some rd =>
        if rd.bad then s
        else ((s.countBad r.part).setRegion key { r with ces := tput r.ces ce { c with rounds := c.rounds.set n { rd with bad := true } } }).ceFault key ce 6 rd.block rd.ctx rd.num (u 4 % 128)

/-- The memory of a tile fails under a request in its queue. -/
def State.upsetTile (s : State) (u : Nat → Nat) : State :=
  match s.regions[u 1 % s.regions.length]? with
  | none => s
  | some (key, r) => match r.mts[u 2 % r.mts.length]? with
    | none => s
    | some (mt, m) =>
      let n := u 3 % m.queue.length
      match m.queue[n]? with
      | none => s
      | some q =>
        if q.bad then s
        else ((s.countBad r.part).setRegion key { r with mts := tput r.mts mt { m with queue := m.queue.set n { q with bad := true } } }).execFault key 6 1
          (mt % 32) (mt / 32) 0xFF q.ctx q.round.toNat 0

/-- What goes wrong in a fabric cycle, and where, is a free value: nothing; an error that is corrected; a line of memory that cannot be; the memory of a
CE or a tile; a coupler beat that fails its CRC and is retried (R366, R380, R396; log 35). -/
def State.upset (s : State) : State :=
  let (k, s) := s.fresh
  let u (n : Nat) : Nat := Config.upset (8 * k + n)
  match u 0 % 8 with
  | 1 => s.bump ⟨u 1 % 8, Nat.mod_lt _ (by decide)⟩ 0x3B0 127 96 1
  | 2 => if (homeTile (u 1 * 128)).isSome && s.granuleOk (u 1 * 128) then { s with poison := insertNat (u 1) s.poison } else s
  | 3 => s.upsetCe u
  | 4 => s.upsetTile u
  | 5 =>
    if (neighbour (u 1 % 4) (u 2 % 4)).isSome then s.onCoupler (couplerKey (u 1 % 4) (u 2 % 4)) (fun c => { c with retried := (c.retried + 1) % 2 ^ 64, crc := (c.crc + 1) % 2 ^ 64 })
    else s
  | _ => s

/-- The time master tells the modules at its ports the time; how often is open (R361; log 24). -/
def State.tellTime (s : State) : State :=
  if !s.master then s
  else (List.range 16).foldl (fun (s : State) n =>
    let (k, s) := s.fresh
    if (s.link n).up && Config.choice k % 2 == 0 then s.sendBeat n (.control (.time (s.gtime 0))) else s) s

/-- What a thread remembers of queues it has released is over once their channels carry nothing of theirs (R282). -/
def State.pruneLeft (s : State) : State :=
  { s with threads := s.threads.map (fun (e : Nat × Thread) => (e.1, { e.2 with left := e.2.left.filter s.onWay })) }

/-- One fabric cycle: freezes take hold, counters, tokens a node may still move, restored tokens, what waited at link ports, grants, errors. -/
def State.fabricBeat (s : State) : State :=
  let s := (tkeys s.regions).foldl State.freeze s.countHeld
  let s := { s.countBq with
    regions := s.regions.map (fun (e : Nat × Region) => (e.1, e.2.beat (s.timed e.2)))
    cores := s.cores.map (fun (e : Nat × Core) => (e.1, { e.2 with gave := 0, took := 0 })) }
  let s := { s with threads := s.threads.map (fun (e : Nat × Thread) => (e.1, { e.2 with ss := e.2.ss.map (fun (x : Nat × SSlot) => (x.1, x.2.beat)) })) }.pruneLeft
  let s := (tkeys s.regions).foldl State.enterRestored s
  let s := (tkeys s.links).foldl State.drainInbox s
  let s := s.rims.foldl (fun (s : State) m => match s.grantAt m with
    | some n => { s with rimLast := tput s.rimLast m n }
    | none => s) s
  let s := fin8s.foldl (fun (s : State) p => if s.cancelOver p then s.onPart p Part.cancelled else s) s
  s.tellTime.upset

/-! ### Events of a fabric cycle -/

/-- CEs that hold a task of the active image, last row and column first. -/
def Region.taskCes (r : Region) : List Nat :=
  sortBy (fun a b => decide (b ≤ a)) (((r.image.map (fun i => i.blocks.map ceKeyOf)).getD []).eraseDups)

/-- The events of a region's cycle. A CE's K-step round and its selection come before those of its west and north neighbours, so that a register that it
frees can take their group (R248). -/
def Region.events (s : State) (key : Nat) (r : Region) : List Event :=
  let ces := r.taskCes
  let ksteps := ces.filter (fun k => (r.tasksOn k).any (fun e => e.2.isKstep))
  let active := (tkeys r.ces).filter (fun k => !(r.ce k).rounds.isEmpty || ces.contains k)
  let mts := (r.mts.filter (fun e => !(e.2.arriving.isEmpty && e.2.queue.isEmpty && e.2.respond.isEmpty))).map (·.1)
  let lim := (s.part r.part).fld 0x3C0 63 32 * 1024
  let late : List Event :=
    if lim = 0 then []
    else (r.ces.filter (fun e => e.2.rounds.any (fun rd => !rd.bad && decide (lim ≤ rd.age)))).map (fun e => Event.sequencerTimeout key false e.1) ++
      (r.mts.filter (fun e => e.2.queue.any (fun q => !q.bad && decide (lim ≤ q.age)))).map (fun e => Event.sequencerTimeout key true e.1)
  (((r.chans.filter (fun e => !e.2.transit.isEmpty)).map (fun e => e.1 / 4)).eraseDups).map (Event.channelHeadArrival key) ++
  (if r.image.isSome then [Event.contextCounter key] else []) ++
  ces.flatMap (fun c => (if ksteps.contains c then [Event.kStepRound key c] else []) ++ [Event.roundStart key c]) ++
  active.map (Event.vectorUnitStart key) ++ active.map (Event.roundCommit key) ++
  mts.flatMap (fun m => [Event.mtRequestArrival key m, .mtBankAccess key m, .mtResponse key m]) ++
  (if r.waiters.isEmpty then [] else [Event.quietReport key]) ++
  (if r.trigger.any Trigger.fired then [Event.triggerFire key] else []) ++ (if r.swap.isSome then [Event.swapActivate key] else []) ++
  late ++
  (if r.frozen then [Event.autoDiscard key] else []) ++ (if r.faults.any (fun f => !f.gone && f.left == 0) then [Event.faultRecordLeave key] else [])

/-- Queue ports of a thread. The pairing of a chained queue is the far module's to say (log 21). -/
def Thread.queueEvents (th : Thread) (t k : Nat) : List Event :=
  th.qs.flatMap (fun (e : Nat × Queue) => match e.2.remote with
    | none => if e.2.out then [Event.queueAccept t e.1] else if e.2.toks.isEmpty then [] else [Event.queuePortDelivery t e.1]
    | some r =>
      (if Config.choice (k + e.1) % 2 == 0 then [Event.remotePairing t e.1] else []) ++
      (if r.send then [Event.queueAccept t e.1] else [Event.stopGo t e.1] ++ (if r.ringLen = 0 then [] else [Event.ringReentry t e.1])) ++
      (if e.2.toks.isEmpty then [] else [Event.queuePortDelivery t e.1])) ++
  (if th.bq.isSome then [Event.queueAccept t 32] else [])

/-- Streams, chains, pools and copies of a thread. -/
def Thread.engineEvents (th : Thread) (t : Nat) : List Event :=
  th.ss.flatMap (fun (e : Nat × SSlot) => match e.2 with
    | .stream x => if x.state != .run then [] else if x.store then [Event.storeStreamTake t e.1] else [Event.streamTokenDelivery t e.1]
    | .chain c => if c.state != .run then [] else [Event.chainHop t e.1] ++ (if c.route && c.last then [Event.ingressSelector t e.1] else [])) ++
  th.pools.flatMap (fun (e : Nat × Pool) => (if e.2.state == .run then [Event.poolBag t e.1] else []) ++ (if e.2.tokenDue then [Event.completionToken t e.1 false] else [])) ++
  th.copies.flatMap (fun (e : Nat × Copy) => if e.2.tokenDue then [Event.completionToken t e.1 true] else [])

/-- A link port that is up sends a flit in every cycle it may, empty beats included; it listens and waits for its acknowledgements (R383, R384). That of a
lost die does neither, and is declared down once nothing has come for 10 µs. -/
def linkEvents (s : State) (n : Nat) : List Event :=
  let l := s.link n
  let port : Fin 16 := ⟨n % 16, Nat.mod_lt _ (by decide)⟩
  let carries := !s.portLost n
  if !l.up then []
  else
    (if carries && decide (l.unacked.length < 256) then [Event.flitSend port] else []) ++
    (if carries && !l.unacked.isEmpty && decide (l.ackAt + ackTicks ≤ s.tick) then [Event.flitResend port] else []) ++
    (if l.heardAt + quietTicks ≤ s.tick then [Event.portDown port] else [])

/-- Slices and fault rings of a partition. -/
def partEvents (s : State) (p : Fin 8) : List Event :=
  let q := s.part p
  (if q.phase = 1 then [Event.sliceBegin p] else []) ++ (if q.phase = 2 then [Event.graceExpiry p] else []) ++
  (if q.records.isEmpty then [] else [Event.faultRecordWrite p])

/-- The events of a fabric cycle, in order. Threads take turns at being first at their core's node. -/
def State.fabricEvents (s : State) : List Event :=
  let live := s.threads.filter (fun (e : Nat × Thread) => e.2.st != .off && !(s.die (dieOf e.1)).lost)
  let n := s.tick / 5 % 8
  let turns := live.filter (fun e => decide (n ≤ thOf e.1)) ++ live.filter (fun e => decide (thOf e.1 < n))
  (fin4s.filter (fun d => !(s.die d).lost)).map Event.bucketCredit ++
  (s.regions.filter (fun e => !(s.die e.2.die).lost)).flatMap (fun e => Region.events s e.1 e.2) ++
  s.rims.filterMap (fun m => match s.grantAt m, tget s.rimLast m with
    | some _, some k => some (Event.streamLineRequest (k / 8) (k % 8))
    | _, _ => none) ++
  turns.flatMap (fun e => e.2.queueEvents e.1 (s.freeCtr + 32 * e.1)) ++ turns.flatMap (fun e => e.2.engineEvents e.1) ++
  (if live.any (fun e => e.2.copies.any (fun c => c.2.state == .run)) then (fin4s.filter (fun d => !(s.die d).lost)).map Event.copyLine else []) ++
  (List.range 16).flatMap (linkEvents s) ++ fin8s.flatMap (partEvents s)

/-! ### Events of an access-core cycle -/

/-- What a request in flight is due for. -/
def Req.events (r : Req) (s : State) : List Event :=
  match r.stage with
  | .sent =>
    if s.tick < r.due then []
    else match r.kind with
      | .load _ _ => [.loadAtHome r.id]
      | .store _ | .write _ => [.storeAtHome r.id]
      | .amo _ _ | .cas _ _ | .dirty _ | .claim _ _ | .close _ _ _ => [.atomicAtHome r.id]
      | .domain _ _ _ _ _ _ _ => [.domainReadAtHome r.id] ++ (if r.stalled then [.staleWait r.id] else [])
  | .lease _ => [.cxlLeaseWaitEnd r.id]
  | .replied _ _ _ _ _ => if s.tick < r.due then [] else [.loadReply r.id]
  | .acked _ => if s.tick < r.due then [] else [.storeAcknowledgement r.id]
  | .inval _ _ | .host | .arrived _ _ => []

/-- Access cores with a thread that may run. -/
def State.liveCores (s : State) : List Nat :=
  ((s.threads.filter (fun (e : Nat × Thread) => e.2.runs && !(s.die (dieOf e.1)).lost)).map (fun e => coreOf e.1)).eraseDups

/-- The events of an access-core cycle: the memory system, walks, logical time (every 64 cycles), traps, and the selections. -/
def State.coreEvents (s : State) : List Event :=
  s.flight.flatMap (fun r => r.events s) ++
  (fin4s.filter (fun d => (s.die d).misses.any (s.walkReady d))).map Event.pageWalk ++
  (if s.tick % 128 = 0 then ((s.threads.map (fun (e : Nat × Thread) => coreOf e.1)).eraseDups).map Event.ltTick else []) ++
  (s.threads.filter (fun (e : Nat × Thread) => s.trapDue e.1 && !(s.die (dieOf e.1)).lost)).map (fun e => Event.takeTrap e.1) ++
  s.liveCores.map Event.selectThread

/-! ### The tick -/

/-- Nanoseconds that a number of ticks make. -/
def nsOf (n : Nat) : Nat := n * 10 / 47

/-- How far a die's count advances in a nanosecond, and what is left of its correction: while it is slewed, which nanoseconds count twice or not at
all is open (R361; log 24). -/
def slewStep (slew : Int) (corrects : Bool) : Nat × Int :=
  if slew = 0 ∨ !corrects then (1, slew) else if 0 < slew then (2, slew - 1) else (0, slew + 1)

/-- A die's clock advances by a nanosecond; past a whole microsecond its copy engine has paid off one microsecond's budget (R315). -/
def State.dieNs (s : State) (d : Fin 4) : State :=
  let (k, s) := s.fresh
  let (n, slew) := slewStep (s.die d).slew (Config.choice k % 2 == 0)
  let past := (s.gtime d + n) / 1000 != s.gtime d / 1000
  let s := s.onDie d (fun x => { x with gtime := (x.gtime + n) % 2 ^ 64, slew := slew })
  if !past then s
  else
    let s := s.onDie d (fun x => { x with copyUsed := Vector.ofFn (fun (p : Fin 8) => x.copyUsed.get p - (s.part p).copyBudget) })
    s.post ((fin8s.filter (fun p => !(s.copiesIn d p (fun _ _ => true)).isEmpty)).map (Event.deadlineTest d))

/-- The power controller measures every 10 µs (R430): what it finds is open, and so is the clamp it gives each die for the cap in force. -/
def State.measure (s : State) : State :=
  let (k, s) := s.fresh
  let (j, s) := s.fresh
  let watts := Config.choice k % 4096
  s.post [.powerMeasurement watts (Config.choice j % 256) (Vector.ofFn (fun (d : Fin 4) => min 1024 (Config.clamp (min 3000 s.power.cap.toNat) watts d.val)))]

/-- Events whose time has come happen first. -/
def State.release (s : State) : State :=
  { s with agenda := (s.later.filter (fun e => decide (e.1 ≤ s.tick))).map (·.2) ++ s.agenda, later := s.later.filter (fun e => !decide (e.1 ≤ s.tick)) }

/-- One tick: clocks, then the events of the cycles that begin with it. -/
def State.advanceClock (s : State) : State :=
  let n := s.tick + 1
  let s := { s with tick := n }.release
  let s := if nsOf n = nsOf (n - 1) then s else fin4s.foldl State.dieNs s
  let s := if n % 47000 = 0 ∧ s.boot.starts ≠ 0 then s.measure else s
  let s := if n % 5 = 0 then let s := s.fabricBeat; s.post s.fabricEvents else s
  if n % 2 = 0 then s.post s.coreEvents else s

end Sys2Proof.Machine
end

