-- ==== Sys2Proof/Machine/Schedule.lean ====
section
/-!
DEFINITION. What happens next: the meaning of an event of the agenda, the element instruction that stands at a reference, and the state in which a
word is the next instruction of thread 0 or of a compute element.
-/
namespace Sys2Proof.Machine

/-- An event of the agenda happens: the meaning of its row. -/
def runEvent (e : Event) (st : State) : Out :=
  match e with
  | .moduleStart o => execModuleStart o st
  | .bootClr step unit => execBootClr step unit st
  | .attestationRequest nonce => execAttestationRequest nonce st
  | .managementPortAccess a => execManagementPortAccess a st
  | .heartbeatMiss die => execHeartbeatMiss die st
  | .homeLossBroadcast die => execHomeLossBroadcast die st
  | .retrain port => execRetrain port st
  | .retrainComplete port passed peer => execRetrainComplete port passed peer st
  | .powerMeasurement watts temp clamps => execPowerMeasurement watts temp clamps st
  | .thermalClamp => execThermalClamp st
  | .thermalPowerOff die => execThermalPowerOff die st
  | .bucketSettingWrite die bogie v => execBucketSettingWrite die bogie v st
  | .bucketCredit die => execBucketCredit die st
  | .registerWrite pa size v mode => execRegisterWrite pa size v mode st
  | .partitionStart p => execPartitionStart p st
  | .partitionStop p => execPartitionStop p st
  | .sliceArm p => execSliceArm p st
  | .sliceJoin p => execSliceJoin p st
  | .sliceBegin p => execSliceBegin p st
  | .joinReceived p gang seq peer => execJoinReceived p gang seq peer st
  | .graceExpiry p => execGraceExpiry p st
  | .cancelReceived p gang seq => execCancelReceived p gang seq st
  | .timeDiscipline die slew sync => execTimeDiscipline die slew sync st
  | .driftBeyondGuard die drift => execDriftBeyondGuard die drift st
  | .ltTick core => execLtTick core st
  | .selectThread core => execSelectThread core st
  | .takeTrap t => execTakeTrap t st
  | .likelyPathResolution t => execLikelyPathResolution t st
  | .wfeLimit t => execWfeLimit t st
  | .queueStall t => execQueueStall t st
  | .lossOfDecoupling t => execLossOfDecoupling t st
  | .queuePortDelivery t q => execQueuePortDelivery t q st
  | .queueAccept t q => execQueueAccept t q st
  | .remoteTokenArrival t q tok => execRemoteTokenArrival t q tok st
  | .ringReentry t q => execRingReentry t q st
  | .stopGo t q => execStopGo t q st
  | .remoteAck t q n => execRemoteAck t q n st
  | .remotePairing t q => execRemotePairing t q st
  | .flitReceived port f intact => execFlitReceived port f intact st
  | .flitResend port => execFlitResend port st
  | .portDown port => execPortDown port st
  | .loadAtHome id => execLoadAtHome id st
  | .loadReply id => execLoadReply id st
  | .storeAtHome id => execStoreAtHome id st
  | .atomicAtHome id => execAtomicAtHome id st
  | .invalidationAck id die => execInvalidationAck id die st
  | .hostRead pa size cache => execHostRead pa size cache st
  | .hostWrite pa size v => execHostWrite pa size v st
  | .hostSnoop line => execHostSnoop line st
  | .backInvalidateResponse id => execBackInvalidateResponse id st
  | .cxlLeaseWaitEnd id => execCxlLeaseWaitEnd id st
  | .pageWalk die => execPageWalk die st
  | .domainReadAtHome id => execDomainReadAtHome id st
  | .staleWait id => execStaleWait id st
  | .roundControllerIncrement t => execRoundControllerIncrement t st
  | .viewUpdate p dom die n => execViewUpdate p dom die n st
  | .contextCounter rgn => execContextCounter rgn st
  | .roundStart rgn ce => execRoundStart rgn ce st
  | .vectorUnitStart rgn ce => execVectorUnitStart rgn ce st
  | .roundCommit rgn ce => execRoundCommit rgn ce st
  | .channelHeadArrival rgn chan => execChannelHeadArrival rgn chan st
  | .kStepRound rgn ce => execKStepRound rgn ce st
  | .brakeEngage rgn freeze => execBrakeEngage rgn freeze st
  | .brakeRelease rgn => execBrakeRelease rgn st
  | .sequencerTimeout rgn mt unit => execSequencerTimeout rgn mt unit st
  | .faultRecordLeave rgn => execFaultRecordLeave rgn st
  | .autoDiscard rgn => execAutoDiscard rgn st
  | .faultRecordWrite p => execFaultRecordWrite p st
  | .triggerFire rgn => execTriggerFire rgn st
  | .quietReport rgn => execQuietReport rgn st
  | .swapActivate rgn => execSwapActivate rgn st
  | .mtRequestArrival rgn mt => execMtRequestArrival rgn mt st
  | .mtBankAccess rgn mt => execMtBankAccess rgn mt st
  | .mtResponse rgn mt => execMtResponse rgn mt st
  | .streamLineRequest t slot => execStreamLineRequest t slot st
  | .streamTokenDelivery t slot => execStreamTokenDelivery t slot st
  | .storeStreamTake t slot => execStoreStreamTake t slot st
  | .poolBag t slot => execPoolBag t slot st
  | .completionToken t slot copyEngine => execCompletionToken t slot copyEngine st
  | .copyLine die => execCopyLine die st
  | .deadlineTest die p => execDeadlineTest die p st
  | .chainHop t slot => execChainHop t slot st
  | .ingressSelector t slot => execIngressSelector t slot st
  | .storeAcknowledgement id => execStoreAcknowledgement id st
  | .l1Invalidation die line => execL1Invalidation die line st
  | .flitSend port => execFlitSend port st
  | .thermalClampRelease => execThermalClampRelease st

/-- Nobody's turn: the first event of the agenda happens, or the clock ticks. -/
def State.idleStep (s : State) : Out :=
  match s.agenda with
  | e :: rest => runEvent e { s with agenda := rest }
  | [] => .next s.advanceClock

/-- The module start that comes from outside, if one has been asked for. -/
def State.startAsked (s : State) : Option BootOutcome :=
  (s.agenda ++ s.later.map (·.2)).findSome? (fun e => match e with
    | .moduleStart o => some o
    | _ => none)

/-- After module power has been removed (R431), and in a module that stays off for want of firmware (R422), nothing but a module start happens. -/
def State.darkStep (s : State) : Out :=
  match s.startAsked with
  | some o => execModuleStart o s
  | none => .fault .powerRemoved

/-! ### Where a word is the next instruction (log 25) -/

/-- The translation under which a word is placed: the page of an address, mapped to granule 0 of HBM with every permission. -/
def placeEntry (fw : Bool) (pc : Addr) : TlbEntry := ⟨0, fw, pc.toNat / 2 ^ 14, 5, 0, 0, false, true, true, true, true, 0⟩

/-- A Pelyen-A word stands at the program counter of thread 0, which is ACTIVE in partition 0, running on core 0, and has its turn. -/
def State.withWordA (s : State) (w : Nat) : State :=
  let th := s.thread 0
  let s := s.onThread 0 (fun th => { th with st := .active })
  let s := s.onPart 0 (fun p => { p.setReg 0x1E0 (Nat.lor (p.reg 0x1E0) 1) with state := .running })
  let s := s.onCore 0 (fun c => { c with l1i := l1Remove c.l1i (lineOf (th.pc.toNat % 2 ^ 14)), tlb := placeEntry (th.cur == .firmware) th.pc :: c.tlb })
  { s with mem := memWrite s.mem (th.pc.toNat % 2 ^ 14) (leBytes w 4), turn := .thread 0 }

/-- A task of one instruction, and the round of it whose operands are tokens of zeros, every lane valid. -/
def placeBlock (i : Instr) (w : Nat) : Block := ⟨0, 0, [i], [0], [], 0, 0, 0, [0], .rne, 0, 0, 0, 0, [w]⟩
def placeRound : Round :=
  let z : Token := { Token.empty with valid := 0xFFFF }
  ⟨0, 0, 0, .ordinary, false, [(0, .l, z), (0, .r, z), (0, .p, z), (0, .t, z)], [], [], 0, [], [], [], [], [], [], 0, [0], false⟩

/-- A Pelyen-E word is the one instruction of the one task of a region of one bogie, with a round in flight and its turn. -/
def State.withWordE (s : State) (i : Instr) (w : Nat) : State :=
  let r := Region.new 0 1 0 0 0 0 1 1
  let image : Image := ⟨0, [placeBlock i w], [], []⟩
  let r := { r with slots := r.slots.set 0 (some image), active := some 0, ces := [(0, { Ce.new with rounds := [placeRound] })] }
  { s.setRegion r.key r with turn := .elem ⟨r.key, 0, 0, 0⟩ }

/-- The element instruction of a reference. -/
def State.elemInstr (s : State) (e : ElemRef) : Option Instr := (s.elemOf e).bind (fun x => x.block.code[e.instr]?)

end Sys2Proof.Machine
end

