-- ==== Sys2Proof/Machine/Step.lean ====
section
/-!
DEFINITION. One step of the machine: the thread or element instruction whose turn it is executes, or the next event happens.
-/
namespace Sys2Proof.Machine

/-- One step. A turn is spent by the step that takes it. -/
def step (s : State) : Host.Outcome State Fault Refusal :=
  if s.power.removed.isSome || s.boot.off then s.darkStep
  else match s.turn with
    | .idle => s.idleStep
    | .thread t => { s with turn := .idle, cur := t }.issue exec
    | .elem e =>
      match s.elemInstr e with
      | some i => exec i { s with turn := .idle, elem := e }
      | none => .next { s with turn := .idle }

/-- The state in which a word of the table is the next instruction: see State.withWordA and State.withWordE. -/
def State.withFetchWord (s : State) (nbits w : Nat) : State :=
  if nbits ≠ 32 then s
  else match decodeA (w % 2 ^ 32) with
    | .ok _ => s.withWordA (w % 2 ^ 32)
    | .error _ =>
      match decodeE (w % 2 ^ 32) with
      | .ok i => s.withWordE i (w % 2 ^ 32)
      | .error _ => s.withWordA (w % 2 ^ 32)

end Sys2Proof.Machine
end

