-- ==== Sys2Proof/Safety.lean ====
section
/-!
DEFINITION. The terms in which statements speak of a run: what an instruction leaves unchanged, how it completes, when an access passes
its checks, and what every step keeps.
-/
namespace Sys2Proof.Machine

/-! ### Frames -/

/-- Nothing of the machine differs but the executing thread. -/
def State.sameButMe (s s' : State) : Prop := s' = s.setThread s.cur (s'.thread s.cur)

/-- Every byte of memory reads as before. -/
def State.sameMemory (s s' : State) : Prop := ∀ a, memByte s'.mem a = memByte s.mem a

/-- Every byte of memory outside n bytes from an address reads as before. -/
def State.sameMemoryBut (s s' : State) (pa n : Nat) : Prop := ∀ a, a < pa ∨ pa + n ≤ a → memByte s'.mem a = memByte s.mem a

/-- Nothing of the thread differs but x registers, the program counter and what belongs to the instruction in issue. -/
def Thread.sameButX (th th' : Thread) : Prop :=
  { th' with x := th.x, pc := th.pc, wait := th.wait, reply := th.reply, walked := th.walked } = th

/-- The same for a registers. -/
def Thread.sameButA (th th' : Thread) : Prop :=
  { th' with a := th.a, pc := th.pc, wait := th.wait, reply := th.reply, walked := th.walked } = th

/-- The same for v registers. -/
def Thread.sameButV (th th' : Thread) : Prop :=
  { th' with v := th.v, pc := th.pc, wait := th.wait, reply := th.reply, walked := th.walked } = th

/-- The same for m registers. -/
def Thread.sameButM (th th' : Thread) : Prop :=
  { th' with m := th.m, pc := th.pc, wait := th.wait, reply := th.reply, walked := th.walked } = th

/-- The same with no register of any kind changed. -/
def Thread.sameButPc (th th' : Thread) : Prop :=
  { th' with pc := th.pc, wait := th.wait, reply := th.reply, walked := th.walked } = th

/-! ### Completion -/

/-- The instruction of the executing thread completes: x[d] reads v after it (x0 stays zero), every other x register, every other
register, flag and special register of the thread, the rest of the machine and every byte of memory are as before, and the program
counter stands at the next word. -/
def State.givesX (s : State) (i : Instr) (d : Fin 32) (v : Word) : Prop :=
  ∃ t, exec i s = .next t ∧ s.sameButMe t ∧ s.sameMemory t ∧ s.me.sameButX t.me ∧ t.me.pc = s.me.pc + 4 ∧ t.me.wait = none ∧
    ∀ r, t.me.getX r = if r = d ∧ r ≠ 0 then v else s.me.getX r

/-- The same for an a register. -/
def State.givesA (s : State) (i : Instr) (d : Fin 16) (v : Addr) : Prop :=
  ∃ t, exec i s = .next t ∧ s.sameButMe t ∧ s.sameMemory t ∧ s.me.sameButA t.me ∧ t.me.pc = s.me.pc + 4 ∧ t.me.wait = none ∧
    ∀ r, t.me.getA r = if r = d then v else s.me.getA r

/-- The same for a v register, lane by lane. -/
def State.givesV (s : State) (i : Instr) (d : Fin 16) (v : Fin 8 → Word) : Prop :=
  ∃ t, exec i s = .next t ∧ s.sameButMe t ∧ s.sameMemory t ∧ s.me.sameButV t.me ∧ t.me.pc = s.me.pc + 4 ∧ t.me.wait = none ∧
    ∀ r l, (t.me.getV r).get l = if r = d then v l else (s.me.getV r).get l

/-- The same for an m register, bit by bit. -/
def State.givesM (s : State) (i : Instr) (d : Fin 8) (v : Fin 8 → Bool) : Prop :=
  ∃ t, exec i s = .next t ∧ s.sameButMe t ∧ s.sameMemory t ∧ s.me.sameButM t.me ∧ t.me.pc = s.me.pc + 4 ∧ t.me.wait = none ∧
    ∀ r l, (t.me.getM r).getLsbD l.val = if r = d then v l else (s.me.getM r).getLsbD l.val

/-- A floating-point instruction retires a result: x[d] reads its pattern, its flags are added to sr.fflags, nothing else changes. -/
def State.givesFp (s : State) (i : Instr) (d : Fin 32) (r : Res) : Prop :=
  ∃ t, exec i s = .next t ∧ s.sameButMe t ∧ s.sameMemory t ∧ s.me.sameButX { t.me with flags := s.me.flags } ∧ t.me.flags = s.me.flags ||| r.flags ∧
    t.me.pc = s.me.pc + 4 ∧ t.me.wait = none ∧ ∀ q, t.me.getX q = if q = d ∧ q ≠ 0 then BitVec.ofNat 64 r.bits else s.me.getX q

/-- The instruction of the executing thread goes to an address and changes nothing else but the a register it links, if it links one. -/
def State.goesTo (s : State) (i : Instr) (pc : Addr) (link : Option (Fin 16)) : Prop :=
  ∃ t, exec i s = .next t ∧ s.sameButMe t ∧ s.sameMemory t ∧ s.me.sameButA t.me ∧ t.me.pc = pc ∧ t.me.wait = none ∧
    ∀ r, t.me.getA r = if link = some r then s.me.pc + 4 else s.me.getA r

/-- The executing thread has read a descriptor: later reads of the thread stand behind all that its die has performed (R318, R345; log 45). -/
def State.hasRead (s : State) : State := s.saw s.cur (s.die (dieOf s.cur)).dlt

/-- The instruction traps at its own address with a cause and a value, having done nothing else, or nothing but what leads to a second state. -/
def State.traps (s : State) (i : Instr) (code : Nat) (tval : Word) (v : State := s) : Prop :=
  exec i s = .next (v.enterTrap s.cur code false tval s.me.pc)

/-- The instruction stays in issue and waits; nothing else changes but a wait of another kind that it ends, or what leads to a second state. -/
def State.waits (s : State) (i : Instr) (k : WaitKind) (v : State := s) : Prop := exec i s = .next (v.waitFor k)

/-- A target a transfer may go to (R82). -/
def goodTarget (a : Addr) : Prop := a.toNat < 2 ^ 64 ∧ a.toNat % 4 = 0

/-- Nothing of the machine differs but the executing thread and its core. -/
def State.sameButMyCore (s s' : State) : Prop :=
  s.sameButMe { s' with cores := s.cores } ∧ ∀ c, c ≠ coreOf s.cur → s'.core c = s.core c

/-- What an acquire of a thread does (R321, R331): its core's logical time rises to its die's highest write time, and the floor of each valid
clock slot to the die's view of the slot's domain. -/
def State.acquired (s s' : State) (t : Nat) : Prop :=
  (s'.core (coreOf t)).lt = max (s.core (coreOf t)).lt (s.die (dieOf t)).dlt ∧
  ∀ i : Fin 8, (s'.thread t).dclk.get i = (let k := (s.thread t).dclk.get i
    if k.v then { k with floor := max k.floor ((s.part (s.partOf t)).view k.dom (dieOf t)) } else k)

/-! ### Accesses -/

/-- An access of the executing thread passes every check at once (R144): it is aligned, its core's TLB holds the page with the permission, its
home is alive, a page to be stored to is dirty already, and no walk asked for by this access has failed (R142). -/
def State.reaches (s : State) (va : Addr) (k : AccKind) (size pa : Nat) (e : TlbEntry) : Prop :=
  va.toNat % size = 0 ∧ tlbFind (s.core (coreOf s.cur)).tlb (s.partOf s.cur) (s.me.cur == .firmware) va = some e ∧
  permOk k (s.me.cur == .worker) size e = true ∧ leafPa e va = pa ∧ s.homeLost pa = false ∧ (k = .store ∨ k = .atomic → e.d = true) ∧
  (walkKey va k (s.me.cur == .firmware), 1) ∉ s.me.walked

/-- One request has been sent: it takes the next id and is on its way; nothing else of the machine differs but the executing thread. -/
def State.sent (s s' : State) (r : Req) : Prop :=
  s'.flight = s.flight ++ [r] ∧ s'.nextId = s.nextId + 1 ∧ r.id = s.nextId ∧ r.stage = .sent ∧ s.tick < r.due ∧
  s.sameButMe { s' with flight := s.flight, nextId := s.nextId, freeCtr := s.freeCtr }

/-- Nothing of the threads differs but how far one's reads stand, which may only grow (log 45). -/
def State.sameThreadsBut (s t : State) (u : Option Nat) : Prop :=
  ∀ k, { t.thread k with seen := (s.thread k).seen } = s.thread k ∧ (s.thread k).seen ≤ (t.thread k).seen ∧ (u ≠ some k → t.thread k = s.thread k)

/-- A core's logical time, TLB and copies without the marks of evict-first lines. -/
def Core.unmarked (c : Core) : Core := { c with l1 := c.l1.map (fun l => { l with evictFirst := false }) }

/-- A load has its value at once: it is in the destination register, extended as the size code says, and nothing else has changed but what an acquire
does, if the load is one, the evict-first mark of the copy read (R147), and how far the thread's reads stand (log 45). -/
def State.loads (s : State) (i : Instr) (d : Fin 32) (z : Sz) (n : Nat) (acq : Bool) : Prop :=
  ∃ t, exec i s = .next t ∧ s.sameMemory t ∧ t.me.pc = s.me.pc + 4 ∧ t.me.wait = none ∧
    (∀ r, t.me.getX r = if z ≠ .a ∧ r = d ∧ r ≠ 0 then z.extend n else s.me.getX r) ∧
    (∀ r, t.me.getA r = if z = .a ∧ r = lowReg d then BitVec.ofNat 80 n else s.me.getA r) ∧
    s.me.sameButX { t.me with a := s.me.a, dclk := s.me.dclk, seen := s.me.seen } ∧ s.me.seen ≤ t.me.seen ∧
    (acq = false → s.sameButMyCore t ∧ (t.core (coreOf s.cur)).unmarked = (s.core (coreOf s.cur)).unmarked ∧ t.me.dclk = s.me.dclk) ∧ (acq = true → s.sameButMyCore t ∧ s.acquired t s.cur)

/-- The home of a line holds no other agent's copy that a write must wait for, and the line is not memory of the host, which acknowledges a write first. -/
def State.writable (s : State) (r : Req) : Prop :=
  (∀ e, dirFind (s.die (homeDie r.pa)).dir (lineOf r.pa) = some e → e.dies = [] ∧ e.host = false) ∧
  (dirFind (s.die (homeDie r.pa)).dir (lineOf r.pa) = none → (r.mt ≠ 2 ∨ (s.home (lineOf r.pa)).gmax = 0) ∧ hostLine (lineOf r.pa) = false)

/-- A write of an agent without a cache to a line is performed as it arrives: no copy elsewhere stands against it, and its line is not the host's (R318, R325 to R327). -/
def State.alone (s : State) (pa mt : Nat) : Prop :=
  dirFind (s.die (homeDie pa)).dir (lineOf pa) = none ∧ hostLine (lineOf pa) = false ∧ (mt = 2 → (s.home (lineOf pa)).gmax = 0)

/-- Nothing of the dies differs but directory entries of lines that a test selects. -/
def State.sameDiesBut (s t : State) (sel : Nat → Bool) : Prop :=
  ∀ d : Fin 4, { t.die d with dir := (s.die d).dir } = s.die d ∧ ∀ l, sel l = false → dirFind (t.die d).dir l = dirFind (s.die d).dir l

/-- The executing thread finds a descriptor's bytes at an address, eight at a time (R144): each passes its checks, is no device's and not poisoned, and
no access of the thread that must come first is on its way. -/
def State.readable (s : State) (va : Addr) (bs : List Byte) : Prop :=
  bs.length % 8 = 0 ∧ s.owesAcq s.cur s.me.acqBar = false ∧ ∀ i, 8 * i < bs.length → ∃ pa e, s.reaches (va + BitVec.ofNat 80 (8 * i)) .load 8 pa e ∧ e.mt ≠ 4 ∧
    s.overlap s.cur pa 8 = false ∧ s.isPoisoned pa = false ∧ (bs.drop (8 * i)).take 8 = memBytes s.mem pa 8

/-- An engine's rim tile holds the translation of an address (R139, R146): the access is permitted, no walk asked for by it has failed (R142), its page dirty if
it is to be written, its memory type no device's, its home alive and its byte not poisoned. -/
def State.engineAt (s : State) (e : Engine) (va : Addr) (k : AccKind) (pa mt : Nat) : Prop :=
  ∃ l, tlbFind (tgetD s.rimTlb e.rim []) (s.partOf e.t) (e.mode == .firmware) va = some l ∧ permOk k (e.mode == .worker) 8 l = true ∧ leafPa l va = pa ∧ l.mt = mt ∧
    (k = .store → l.d = true) ∧ (e.who, walkKey va k (e.mode == .firmware), 1) ∉ s.rimWalks ∧ s.homeLost pa = false ∧ s.isPoisoned pa = false ∧ mt ≠ 4

/-- The instruction is refused with CONFIG_INVALID and a reason, having done nothing (R190), or nothing but what leads to a second state; on an open
likely path it waits for its resolution. -/
def State.refuses (s : State) (i : Instr) (reason : Nat) (v : State := s) : Prop :=
  (s.me.path = none → s.traps i 0x0D (BitVec.ofNat 64 (2 ^ 63 + reason)) v) ∧ (s.me.path.isSome → s.waits i .likely v)

/-- The region as a thread's FABRIC instruction finds it when its turn has come (R191): the instruction has left the line of those that have arrived. -/
def Region.taken (g : Region) (t : Nat) : Region := if g.busyWith = some t then g else { g with line := g.line.filter (fun u => u != t) }

/-- The turn of a thread's FABRIC instruction has come: it is at work already, or nothing is and none arrived before it (R191). -/
def Region.atTurn (g : Region) (t : Nat) : Prop := g.busyWith = some t ∨ (g.busyWith = none ∧ g.line.headD t = t)

/-- A FABRIC instruction traps at its own address, leaving its region so, in the state before it or in a second one that its reads lead to; on an
open likely path it waits for the resolution. -/
def State.trapsWith (s : State) (g : Region) (i : Instr) (code : Nat) (tval : Word) (v : State := s) : Prop :=
  (s.me.path = none → exec i s = .next ((v.setRegion g.key g).enterTrap s.cur code false tval s.me.pc)) ∧
  (s.me.path.isSome → exec i s = .next ((v.setRegion g.key g).waitFor .likely))

/-- A FABRIC instruction whose turn has come is refused with a reason: only its place in the line of its region changes. -/
def State.refusesAt (s : State) (g : Region) (i : Instr) (reason : Nat) : Prop := s.trapsWith (g.taken s.cur) i 0x0D (BitVec.ofNat 64 (2 ^ 63 + reason))

/-- The word at the executing thread's program counter (R82, R144), and the state in which it has been fetched: its page is in the core's TLB with
permission X, no walk for it has failed, its home is alive, and no store of the thread to its bytes is on its way, nor one to its line that has been performed. It stands in the core's
instruction cache, or its line is brought in from its home (R11, log 12). -/
def State.fetches (s : State) (w : Nat) (t : State) : Prop :=
  ∃ pa e, tlbFind (s.core (coreOf s.cur)).tlb (s.partOf s.cur) (s.me.cur == .firmware) s.me.pc = some e ∧ permOk .fetch (s.me.cur == .worker) 4 e = true ∧
    leafPa e s.me.pc = pa ∧ (walkKey s.me.pc .fetch (s.me.cur == .firmware), 1) ∉ s.me.walked ∧ pa % 4 = 0 ∧ s.homeLost pa = false ∧ (∀ q ∈ s.flight, q.by' = .thread s.cur → ∀ v, q.kind = .store v → q.pa + q.size ≤ pa ∨ pa + 4 ≤ q.pa) ∧
    s.codeBehind pa = false ∧
    ((∃ c, l1Find (s.core (coreOf s.cur)).l1i (pa / 128) = some c ∧ copyCurrent (s.core (coreOf s.cur)) (s.gtimeOf s.cur) c = true ∧
        w = leNat ((c.data.drop (pa % 128)).take 4) ∧ t = s) ∨
      ((∀ c, l1Find (s.core (coreOf s.cur)).l1i (pa / 128) = some c → copyCurrent (s.core (coreOf s.cur)) (s.gtimeOf s.cur) c = false) ∧
        w = memRead s.mem pa 4 ∧ t = s.bringCode pa e))

/-- The state in which a thread's instruction executes when its turn has come. -/
def State.turnOf (s : State) (t : Nat) : State := { s with turn := .idle, cur := t }

/-- An instruction of the executing thread leaves one of its queues in a new form and goes on: nothing of the machine differs but that queue, and the event bit
where a queue that was empty has taken a token in (R104), which on a likely path counts once the path is kept. -/
def State.setsQueue (s : State) (i : Instr) (q : Fin 32) (y : Queue) : Prop :=
  let new (staged : Bool) : Bool := (match tget s.me.qs q.val with | some x => x.toks.isEmpty | none => true) && y.toks.any (fun e => e.2.2 == staged)
  ∃ t, exec i s = .next t ∧ s.sameButMe t ∧ s.sameMemory t ∧ t.me.pc = s.me.pc + 4 ∧ t.me.wait = none ∧ tget t.me.qs q.val = some y ∧
    (∀ k, k ≠ q.val → tget t.me.qs k = tget s.me.qs k) ∧ t.me.ev = (s.me.ev || new false) ∧ t.me.path = s.me.path.map (fun p => { p with ev := p.ev || new true }) ∧
    s.me.sameButPc { t.me with qs := s.me.qs, ev := s.me.ev, path := s.me.path }

/-! ### Element instructions -/

/-- Whether predication keeps a lane (R216, R217). -/
def ECtx.kept (x : ECtx) (e : EWord) (l : Fin 16) : Bool :=
  let p := x.operand e .p
  match e.p with
  | .none => true
  | .pos => p.valid.getLsbD l.val && (p.lanes.get l).getLsbD 0
  | .neg => p.valid.getLsbD l.val && !(p.lanes.get l).getLsbD 0

/-- A lane that computes: valid in the operands at some slots, and kept (R217). -/
def ECtx.on (x : ECtx) (e : EWord) (slots : List Slot) (l : Fin 16) : Bool := slots.all (fun sl => (x.operand e sl).valid.getLsbD l.val) && x.kept e l

/-- Every used slot holds a data token (R218). -/
def ECtx.data (x : ECtx) (i : Instr) (e : EWord) : Prop := ∀ sl ∈ Instr.tokenSlots i, (x.operand e sl).stop = 0

/-- The state after the executing instruction has started (R220, R221): its two results reach the targets after a latency, at once if it is 0; its flags join
the round's; the unit is held for some cycles; nothing else of the machine changes but what the round notes for its commit. -/
def ECtx.after (x : ECtx) (s : State) (e : EWord) (lat unit : Nat) (t1 t2 : Token) (fl : FlagSet) (note : Round → Round) : State :=
  let at' (g : Target) (t : Token) : List (Nat × Slot × Token) := match g with
    | .none => []
    | .to n sl => [(n.val, sl, t)]
  let out := at' e.t1 t1 ++ at' e.t2 t2
  let rd := note x.round
  let rd : Round := if lat = 0 then { rd with vals := rd.vals ++ out } else { rd with inFlight := rd.inFlight ++ out.map (fun o => (lat, o)) }
  let ce : Ce := { x.ce with busy := if unit = 0 then x.ce.busy else unit }
  s.setRegion x.ref.rgn { x.rgn with ces := tput x.rgn.ces x.ref.ce { ce with rounds := x.ce.rounds.set x.ref.round { rd with fired := rd.fired ++ [x.ref.instr], flags := rd.flags ||| fl } } }

/-- The executing instruction starts so. -/
def ECtx.delivers (x : ECtx) (s : State) (i : Instr) (e : EWord) (lat unit : Nat) (t1 t2 : Token) (fl : FlagSet) (note : Round → Round) : Prop :=
  exec i s = .next (x.after s e lat unit t1 t2 fl note)

/-- A data token that the executing instruction makes (R219): its sideband, and a value in each lane that has one. -/
def ECtx.makes (x : ECtx) (i : Instr) (e : EWord) (ty : EType) (f : Fin 16 → Option Word) (t : Token) : Prop :=
  t.flags = 0 ∧ t.round = BitVec.ofNat 15 x.round.num ∧ t.ctx = x.round.ctx ∧ t.gen = x.gen i e ∧ t.etype = ty ∧ t.stop = 0 ∧
  ∀ l : Fin 16, t.valid.getLsbD l.val = (f l).isSome ∧ ∀ v, f l = some v → t.lanes.get l = v

/-- One result of a type for both targets, lane by lane, with the flags of the lanes that compute. -/
def ECtx.gives (x : ECtx) (s : State) (i : Instr) (e : EWord) (lat unit : Nat) (ty : EType) (f : Fin 16 → Option Res) : Prop :=
  ∃ t, x.makes i e ty (fun l => (f l).map (fun r => BitVec.ofNat 64 r.bits)) t ∧
    x.delivers s i e lat unit t t ((List.finRange 16).foldl (fun fl l => fl ||| ((f l).map (fun r => r.flags)).getD 0) 0) id

/-! ### Floating-point values -/

/-- The rational value of a finite pattern (R25). -/
def FVal.rat : FVal → Rat
  | .fin neg m e => (if neg then -1 else 1) * m * (2 : Rat) ^ e
  | _ => 0

/-- The order of numbers, infinities outermost, zeros equal. -/
def FVal.less : FVal → FVal → Prop
  | .nan _, _ | _, .nan _ => False
  | .inf n, .inf k => n = true ∧ k = false
  | .inf n, .fin _ _ _ => n = true
  | .fin _ _ _, .inf k => k = false
  | .fin n m e, .fin k p q => (FVal.fin n m e).rat < (FVal.fin k p q).rat

/-- A number equals another: neither is a NaN and neither is below the other. -/
def FVal.same (a b : FVal) : Prop := a.isNan = false ∧ b.isNan = false ∧ ¬ a.less b ∧ ¬ b.less a

/-- The eight floating-point formats (R25). -/
def allFmts : List Fmt := [.fp64, .fp32, ⟨5, 10, 15, .ieee⟩, ⟨8, 7, 127, .ieee⟩, ⟨5, 2, 15, .ieee⟩, ⟨4, 3, 7, .e4m3⟩, ⟨3, 2, 3, .finite⟩, ⟨2, 1, 1, .finite⟩]

end Sys2Proof.Machine

namespace Sys2Proof

/-- Rows that have one word, since what an operand register or constant holds selects between them: the row as which the decoder reads the word. -/
def Instr.readAs : Instr → Instr
  | .sstopAbort s m => .sstopPause s m
  | .binitBarrier n v => .binitWindow n v
  | .cfgswapForce h r a => if a = 0 then .cfgswap h r else .cfgswapForce h r a
  | .cfgtrigDisarm h r c => .cfgtrig h r c
  | .drainWait d h r | .drainDiscard d h r | .drainStat d h r => .drainQuiet d h r
  | .poolResume s a | .poolAbandon s a => .pool s a
  | .copyResume s a | .copyAbandon s a => .copy s a
  | .rndsetClr s v => .rndset s v
  | .ctxsaveThread d r a => .ctxsaveRegion d r a
  | .ctxrstThread d r a => .ctxrstRegion d r a
  | .bnetLoad e => .bnet e
  | i => i

/-- The instruction that is the row of an event of the agenda. -/
def Event.names (e : Event) (i : Instr) : Prop :=
  match e with
  | .moduleStart o => i = .moduleStart o
  | .bootClr step unit => i = .bootClr step unit
  | .attestationRequest nonce => i = .attestationRequest nonce
  | .managementPortAccess a => i = .managementPortAccess a
  | .heartbeatMiss die => i = .heartbeatMiss die
  | .homeLossBroadcast die => i = .homeLossBroadcast die
  | .retrain port => i = .retrain port
  | .retrainComplete port passed peer => i = .retrainComplete port passed peer
  | .powerMeasurement watts temp clamps => i = .powerMeasurement watts temp clamps
  | .thermalClamp => i = .thermalClamp
  | .thermalPowerOff die => i = .thermalPowerOff die
  | .bucketSettingWrite die bogie v => i = .bucketSettingWrite die bogie v
  | .bucketCredit die => i = .bucketCredit die
  | .registerWrite pa size v mode => i = .registerWrite pa size v mode
  | .partitionStart p => i = .partitionStart p
  | .partitionStop p => i = .partitionStop p
  | .sliceArm p => i = .sliceArm p
  | .sliceJoin p => i = .sliceJoin p
  | .sliceBegin p => i = .sliceBegin p
  | .joinReceived p gang seq peer => i = .joinReceived p gang seq peer
  | .graceExpiry p => i = .graceExpiry p
  | .cancelReceived p gang seq => i = .cancelReceived p gang seq
  | .timeDiscipline die slew sync => i = .timeDiscipline die slew sync
  | .driftBeyondGuard die drift => i = .driftBeyondGuard die drift
  | .ltTick core => i = .ltTick core
  | .selectThread core => i = .selectThread core
  | .takeTrap t => i = .takeTrap t
  | .likelyPathResolution t => i = .likelyPathResolution t
  | .wfeLimit t => i = .wfeLimit t
  | .queueStall t => i = .queueStall t
  | .lossOfDecoupling t => i = .lossOfDecoupling t
  | .queuePortDelivery t q => i = .queuePortDelivery t q
  | .queueAccept t q => i = .queueAccept t q
  | .remoteTokenArrival t q tok => i = .remoteTokenArrival t q tok
  | .ringReentry t q => i = .ringReentry t q
  | .stopGo t q => i = .stopGo t q
  | .remoteAck t q n => i = .remoteAck t q n
  | .remotePairing t q => i = .remotePairing t q
  | .flitReceived port f intact => i = .flitReceived port f intact
  | .flitResend port => i = .flitResend port
  | .portDown port => i = .portDown port
  | .loadAtHome id => i = .loadAtHome id
  | .loadReply id => i = .loadReply id
  | .storeAtHome id => i = .storeAtHome id
  | .atomicAtHome id => i = .atomicAtHome id
  | .invalidationAck id die => i = .invalidationAck id die
  | .hostRead pa size cache => i = .hostRead pa size cache
  | .hostWrite pa size v => i = .hostWrite pa size v
  | .hostSnoop line => i = .hostSnoop line
  | .backInvalidateResponse id => i = .backInvalidateResponse id
  | .cxlLeaseWaitEnd id => i = .cxlLeaseWaitEnd id
  | .pageWalk die => i = .pageWalk die
  | .domainReadAtHome id => i = .domainReadAtHome id
  | .staleWait id => i = .staleWait id
  | .roundControllerIncrement t => i = .roundControllerIncrement t
  | .viewUpdate p dom die n => i = .viewUpdate p dom die n
  | .contextCounter rgn => i = .contextCounter rgn
  | .roundStart rgn ce => i = .roundStart rgn ce
  | .vectorUnitStart rgn ce => i = .vectorUnitStart rgn ce
  | .roundCommit rgn ce => i = .roundCommit rgn ce
  | .channelHeadArrival rgn chan => i = .channelHeadArrival rgn chan
  | .kStepRound rgn ce => i = .kStepRound rgn ce
  | .brakeEngage rgn freeze => i = .brakeEngage rgn freeze
  | .brakeRelease rgn => i = .brakeRelease rgn
  | .sequencerTimeout rgn mt unit => i = .sequencerTimeout rgn mt unit
  | .faultRecordLeave rgn => i = .faultRecordLeave rgn
  | .autoDiscard rgn => i = .autoDiscard rgn
  | .faultRecordWrite p => i = .faultRecordWrite p
  | .triggerFire rgn => i = .triggerFire rgn
  | .quietReport rgn => i = .quietReport rgn
  | .swapActivate rgn => i = .swapActivate rgn
  | .mtRequestArrival rgn mt => i = .mtRequestArrival rgn mt
  | .mtBankAccess rgn mt => i = .mtBankAccess rgn mt
  | .mtResponse rgn mt => i = .mtResponse rgn mt
  | .streamLineRequest t slot => i = .streamLineRequest t slot
  | .streamTokenDelivery t slot => i = .streamTokenDelivery t slot
  | .storeStreamTake t slot => i = .storeStreamTake t slot
  | .poolBag t slot => i = .poolBag t slot
  | .completionToken t slot copyEngine => i = .completionToken t slot copyEngine
  | .copyLine die => i = .copyLine die
  | .deadlineTest die p => i = .deadlineTest die p
  | .chainHop t slot => i = .chainHop t slot
  | .ingressSelector t slot => i = .ingressSelector t slot
  | .storeAcknowledgement id => i = .storeAcknowledgement id
  | .l1Invalidation die line => i = .l1Invalidation die line
  | .flitSend port => i = .flitSend port
  | .thermalClampRelease => i = .thermalClampRelease

end Sys2Proof
end

