-- ==== Sys2Proof/Certificates/Slice0/Obligations.lean ====
section
/-!
DEFINITION. The statements for the provers, family by family.
-/
open Sys2Proof Sys2Proof.Machine

/-- ALU group (R109): the words of the group decode to its instructions, and each writes the stated result to x[rd], whatever the registers named, and
changes nothing else. MULDIV group (R110): the words of the group, its results in exact integer arithmetic, and the two division corners. BITS group
(R111): CLZ and CTZ answer the number of 0 bits above the highest and below the lowest 1 bit, 64 for zero; POPC the number of 1 bits; BSWAP moves byte
k to byte 7 − k. A nonzero rs2 is a reserved encoding. -/
def Obligations.RegisterGroupResults : Prop :=
  (
    ∀ (s : State) (d p q : Fin 32),
      let a := s.me.getX p
      let b := s.me.getX q
      let k := b.toNat % 64
      let word (fn : Nat) : Nat := 0x04000000 + fn + d.val * 2 ^ 21 + p.val * 2 ^ 16 + q.val * 2 ^ 11
      (decodeA (word 0) = .ok (.add d p q) ∧ s.givesX (.add d p q) d (BitVec.ofNat 64 (a.toNat + b.toNat))) ∧
      (decodeA (word 1) = .ok (.sub d p q) ∧ s.givesX (.sub d p q) d (BitVec.ofInt 64 ((a.toNat : Int) - b.toNat))) ∧
      (decodeA (word 2) = .ok (.and d p q) ∧ s.givesX (.and d p q) d (a &&& b)) ∧
      (decodeA (word 3) = .ok (.or d p q) ∧ s.givesX (.or d p q) d (a ||| b)) ∧
      (decodeA (word 4) = .ok (.xor d p q) ∧ s.givesX (.xor d p q) d (a ^^^ b)) ∧
      (decodeA (word 5) = .ok (.sll d p q) ∧ s.givesX (.sll d p q) d (BitVec.ofNat 64 (a.toNat * 2 ^ k))) ∧
      (decodeA (word 6) = .ok (.srl d p q) ∧ s.givesX (.srl d p q) d (BitVec.ofNat 64 (a.toNat / 2 ^ k))) ∧
      (decodeA (word 7) = .ok (.sra d p q) ∧ s.givesX (.sra d p q) d (BitVec.ofInt 64 (a.toInt / 2 ^ k))) ∧
      (decodeA (word 8) = .ok (.slt d p q) ∧ s.givesX (.slt d p q) d (if a.toInt < b.toInt then 1 else 0)) ∧
      (decodeA (word 9) = .ok (.sltu d p q) ∧ s.givesX (.sltu d p q) d (if a.toNat < b.toNat then 1 else 0)) ∧
      (decodeA (word 10) = .ok (.min d p q) ∧ s.givesX (.min d p q) d (BitVec.ofInt 64 (Min.min a.toInt b.toInt))) ∧
      (decodeA (word 11) = .ok (.max d p q) ∧ s.givesX (.max d p q) d (BitVec.ofInt 64 (Max.max a.toInt b.toInt))) ∧
      (decodeA (word 12) = .ok (.minu d p q) ∧ s.givesX (.minu d p q) d (BitVec.ofNat 64 (Min.min a.toNat b.toNat))) ∧
      (decodeA (word 13) = .ok (.maxu d p q) ∧ s.givesX (.maxu d p q) d (BitVec.ofNat 64 (Max.max a.toNat b.toNat)))) ∧
  (
    ∀ (s : State) (d p q : Fin 32),
      let a := s.me.getX p
      let b := s.me.getX q
      let minusOne : Word := BitVec.ofInt 64 (-1)
      let word (fn : Nat) : Nat := 0x08000000 + fn + d.val * 2 ^ 21 + p.val * 2 ^ 16 + q.val * 2 ^ 11
      (decodeA (word 0) = .ok (.mul d p q) ∧ s.givesX (.mul d p q) d (BitVec.ofNat 64 (a.toNat * b.toNat))) ∧
      (decodeA (word 1) = .ok (.mulh d p q) ∧ s.givesX (.mulh d p q) d ((BitVec.ofInt 128 (a.toInt * b.toInt)).extractLsb' 64 64)) ∧
      (decodeA (word 2) = .ok (.mulhu d p q) ∧ s.givesX (.mulhu d p q) d ((BitVec.ofNat 128 (a.toNat * b.toNat)).extractLsb' 64 64)) ∧
      (decodeA (word 3) = .ok (.div d p q) ∧ s.givesX (.div d p q) d (if b = 0 then minusOne else BitVec.ofInt 64 (a.toInt.tdiv b.toInt)) ∧
        (a.toInt = -2 ^ 63 → b.toInt = -1 → s.givesX (.div d p q) d a)) ∧
      (decodeA (word 4) = .ok (.divu d p q) ∧ s.givesX (.divu d p q) d (if b = 0 then minusOne else BitVec.ofNat 64 (a.toNat / b.toNat))) ∧
      (decodeA (word 5) = .ok (.rem d p q) ∧ s.givesX (.rem d p q) d (if b = 0 then a else BitVec.ofInt 64 (a.toInt.tmod b.toInt)) ∧
        (a.toInt = -2 ^ 63 → b.toInt = -1 → s.givesX (.rem d p q) d 0)) ∧
      (decodeA (word 6) = .ok (.remu d p q) ∧ s.givesX (.remu d p q) d (if b = 0 then a else BitVec.ofNat 64 (a.toNat % b.toNat)))) ∧
  (
    ∀ (s : State) (d p : Fin 32),
      let a := s.me.getX p
      let word (fn : Nat) : Nat := 0x0C000000 + fn + d.val * 2 ^ 21 + p.val * 2 ^ 16
      (decodeA (word 0) = .ok (.clz d p) ∧ ∃ n, s.givesX (.clz d p) d (BitVec.ofNat 64 n) ∧ n ≤ 64 ∧ (∀ i, 64 ≤ i + n → a.getLsbD i = false) ∧ (n < 64 → a.getLsbD (63 - n) = true)) ∧
      (decodeA (word 1) = .ok (.ctz d p) ∧ ∃ n, s.givesX (.ctz d p) d (BitVec.ofNat 64 n) ∧ n ≤ 64 ∧ (∀ i, i < n → a.getLsbD i = false) ∧ (n < 64 → a.getLsbD n = true)) ∧
      (decodeA (word 2) = .ok (.popc d p) ∧ s.givesX (.popc d p) d (BitVec.ofNat 64 (((List.range 64).filter (fun i => a.getLsbD i)).length))) ∧
      (decodeA (word 3) = .ok (.bswap d p) ∧ ∃ v : Word, s.givesX (.bswap d p) d v ∧ ∀ k, k < 8 → v.extractLsb' (8 * (7 - k)) 8 = a.extractLsb' (8 * k) 8) ∧
      (∀ q : Fin 32, q ≠ 0 → ∀ fn, fn < 4 → ∃ e, decodeA (word fn + q.val * 2 ^ 11) = .error e))

/-- The immediate group and the immediate shifts (R112, R113): the words, with every immediate, and the results; selector 11 is reserved. LUI (R114): its
word and result; and six instructions build any value in any register but x0. -/
def Obligations.ImmediateGroupResults : Prop :=
  (
    ∀ (s : State) (d p : Fin 32) (i : BitVec 16) (h : BitVec 6),
      let a := s.me.getX p
      let sh := h.toNat
      let word (base : Nat) : Nat := base + d.val * 2 ^ 21 + p.val * 2 ^ 16
      (decodeA (word 0x10000000 + i.toNat) = .ok (.addi d p i) ∧ s.givesX (.addi d p i) d (BitVec.ofInt 64 (a.toNat + i.toInt))) ∧
      (decodeA (word 0x14000000 + i.toNat) = .ok (.andi d p i) ∧ s.givesX (.andi d p i) d (a &&& BitVec.ofNat 64 i.toNat)) ∧
      (decodeA (word 0x18000000 + i.toNat) = .ok (.ori d p i) ∧ s.givesX (.ori d p i) d (a ||| BitVec.ofNat 64 i.toNat)) ∧
      (decodeA (word 0x1C000000 + i.toNat) = .ok (.xori d p i) ∧ s.givesX (.xori d p i) d (a ^^^ BitVec.ofNat 64 i.toNat)) ∧
      (decodeA (word 0x20000000 + i.toNat) = .ok (.slti d p i) ∧ s.givesX (.slti d p i) d (if a.toInt < i.toInt then 1 else 0)) ∧
      (decodeA (word 0x24000000 + i.toNat) = .ok (.sltiu d p i) ∧ s.givesX (.sltiu d p i) d (if a.toNat < (BitVec.ofInt 64 i.toInt).toNat then 1 else 0)) ∧
      (decodeA (word 0x28000000 + sh) = .ok (.slli d p h) ∧ s.givesX (.slli d p h) d (BitVec.ofNat 64 (a.toNat * 2 ^ sh))) ∧
      (decodeA (word 0x28004000 + sh) = .ok (.srli d p h) ∧ s.givesX (.srli d p h) d (BitVec.ofNat 64 (a.toNat / 2 ^ sh))) ∧
      (decodeA (word 0x28008000 + sh) = .ok (.srai d p h) ∧ s.givesX (.srai d p h) d (BitVec.ofInt 64 (a.toInt / 2 ^ sh))) ∧
      (∃ e, decodeA (word 0x2800C000 + sh) = .error e)) ∧
  (
    (∀ (s : State) (d : Fin 32) (i : BitVec 16),
      decodeA (0x2C000000 + d.val * 2 ^ 21 + i.toNat) = .ok (.lui d i) ∧ s.givesX (.lui d i) d (BitVec.ofInt 64 (i.toInt * 2 ^ 16))) ∧
    ∀ (s : State) (d : Fin 32) (v : Word), d ≠ 0 →
      ∃ s1 s2 s3 s4 s5 s6,
        exec (.lui d (v.extractLsb' 48 16)) s = .next s1 ∧ exec (.ori d d (v.extractLsb' 32 16)) s1 = .next s2 ∧ exec (.slli d d 16) s2 = .next s3 ∧
        exec (.ori d d (v.extractLsb' 16 16)) s3 = .next s4 ∧ exec (.slli d d 16) s4 = .next s5 ∧ exec (.ori d d (v.extractLsb' 0 16)) s5 = .next s6 ∧
        s6.me.getX d = v ∧ s6.me.pc = s.me.pc + 24 ∧ s.me.sameButX s6.me ∧ s.sameButMe s6 ∧ s.sameMemory s6 ∧ ∀ r, r ≠ d → s6.me.getX r = s.me.getX r)

/-- The ADDR group, AADDI and ADDPC (R115 to R117): words and results, modulo 2^80. VEC group but VLD (R125): lane arithmetic modulo 2^64, the lane mask
of VCMP, the lane VEXT selects. -/
def Obligations.AddressAndVectorGroupResults : Prop :=
  (
    ∀ (s : State) (d p q : Fin 16) (x : Fin 32) (i : BitVec 16) (o : BitVec 22),
      let a := s.me.getA p
      let w (r : Fin 32) : Word := s.me.getX r
      let word (fn rd rs1 rs2 : Nat) : Nat := 0x30000000 + fn + rd * 2 ^ 21 + rs1 * 2 ^ 16 + rs2 * 2 ^ 11
      (decodeA (word 0 d.val p.val x.val) = .ok (.aadd d p x) ∧ s.givesA (.aadd d p x) d (BitVec.ofInt 80 (a.toNat + (w x).toInt))) ∧
      (decodeA (word 1 x.val p.val q.val) = .ok (.asub x p q) ∧ s.givesX (.asub x p q) x (BitVec.ofInt 64 ((a.toNat : Int) - (s.me.getA q).toNat))) ∧
      (decodeA (word 2 d.val x.val 0) = .ok (.afromx d x) ∧ s.givesA (.afromx d x) d (BitVec.ofNat 80 (w x).toNat)) ∧
      (decodeA (word 3 x.val p.val 0) = .ok (.atox x p) ∧ s.givesX (.atox x p) x (BitVec.ofNat 64 a.toNat)) ∧
      (decodeA (word 4 x.val p.val 0) = .ok (.ahi x p) ∧ s.givesX (.ahi x p) x (BitVec.ofNat 64 (a.toNat / 2 ^ 64))) ∧
      (decodeA (word 5 d.val p.val x.val) = .ok (.asethi d p x) ∧
        s.givesA (.asethi d p x) d (BitVec.ofNat 80 ((w x).toNat % 2 ^ 16 * 2 ^ 64 + a.toNat % 2 ^ 64))) ∧
      (decodeA (0x34000000 + d.val * 2 ^ 21 + p.val * 2 ^ 16 + i.toNat) = .ok (.aaddi d p i) ∧
        s.givesA (.aaddi d p i) d (BitVec.ofInt 80 (a.toNat + i.toInt))) ∧
      (decodeA (0x38000000 + d.val * 2 ^ 22 + o.toNat) = .ok (.addpc d o) ∧ s.givesA (.addpc d o) d (BitVec.ofInt 80 (s.me.pc.toNat + 4 * o.toInt)))) ∧
  (
    ∀ (s : State) (d p q : Fin 16) (x y : Fin 32) (m : Fin 8),
      let word (fn rd rs1 rs2 : Nat) : Nat := 0x88000000 + fn + rd * 2 ^ 21 + rs1 * 2 ^ 16 + rs2 * 2 ^ 11
      let lane (r : Fin 16) (l : Fin 8) : Nat := ((s.me.getV r).get l).toNat
      (decodeA (word 0 d.val x.val y.val) = .ok (.vidx d x y) ∧
        s.givesV (.vidx d x y) d (fun l => BitVec.ofNat 64 ((s.me.getX x).toNat + l.val * (s.me.getX y).toNat))) ∧
      (decodeA (word 2 d.val p.val q.val) = .ok (.vadd d p q) ∧ s.givesV (.vadd d p q) d (fun l => BitVec.ofNat 64 (lane p l + lane q l))) ∧
      (decodeA (word 3 d.val x.val 0) = .ok (.vbcast d x) ∧ s.givesV (.vbcast d x) d (fun _ => s.me.getX x)) ∧
      (decodeA (word 4 m.val p.val q.val) = .ok (.vcmp m p q) ∧ s.givesM (.vcmp m p q) m (fun l => decide (lane p l < lane q l))) ∧
      (decodeA (word 5 x.val p.val y.val) = .ok (.vext x p y) ∧
        s.givesX (.vext x p y) x (BitVec.ofNat 64 (lane p ⟨(s.me.getX y).toNat % 8, Nat.mod_lt _ (by decide)⟩))))

/-- Floating point (R38, R108, R118): every FP instruction, in every rounding mode that its field and sr.frm name, either retires its result with the
flags added to sr.fflags, or, where a raised flag is enabled, traps with FP_EXCEPTION and those flags in sr.tval, writing nothing. With an enable set
it does so once no earlier result is owed and no likely path is open. A rounding field of 111 while sr.frm holds 101, 110 or 111 traps with
ILLEGAL_INSTRUCTION and the instruction's word, and writes nothing; the rounding fields 101 and 110 themselves are no instruction's (R37). -/
def Obligations.FpInstructionsRetireOrTrap : Prop :=
  (
    ∀ (s : State) (d p q : Fin 32) (rm : FpRm) (m : Rm) (f : FpFmt) (c : FpCond) (e : EType) (v : Bool),
      fpMode rm s.me.frm = some m → (s.me.en ≠ 0 → s.me.path = none ∧ s.me.ahead = []) →
      let x (r : Fin 32) : Nat := f.operand (s.me.getX r)
      ∀ ir ∈ [(Instr.fadd d p q rm f, f.fmt.add m .zero (x p) (x q)), (.fsub d p q rm f, f.fmt.sub m .zero (x p) (x q)),
          (.fmul d p q rm f, f.fmt.mul m .zero (x p) (x q)), (.fdiv d p q rm f, f.fmt.div m .zero (x p) (x q)),
          (.fsqrt d p rm f, f.fmt.sqrt m .zero (x p)), (.fma d p q rm f, f.fmt.fma m .zero false false (x p) (x q) (x d)),
          (.fmin d p q f, f.fmt.minmax false (x p) (x q)), (.fmax d p q f, f.fmt.minmax true (x p) (x q)),
          (.fcmp d p q c f, f.fmt.compare (condCmp c) (x p) (x q)), (.fclass d p f, ⟨classWord f.fmt (x p), 0⟩),
          (.fcvt d p e v rm f,
            if v then convert f.etype false m .zero (decodeElem e (s.me.getX p).toNat)
            else
              let r := convert e false m .zero (decodeElem f.etype (x p))
              { r with bits := if e = .i32 then (BitVec.signExtend 64 (BitVec.ofNat 32 r.bits)).toNat else r.bits })],
        (ir.2.flags &&& s.me.en = 0 → s.givesFp ir.1 d ir.2) ∧
        (ir.2.flags &&& s.me.en ≠ 0 → s.traps ir.1 0x0E (BitVec.ofNat 64 ir.2.flags.toNat))) ∧
  (
    (∀ (s : State) (d p q : Fin 32) (f : FpFmt) (e : EType) (v : Bool), 5 ≤ s.me.frm.toNat → s.me.path = none → (s.me.en ≠ 0 → s.me.ahead = []) → fcvtOk e v = true →
      ∀ i ∈ [Instr.fadd d p q .dyn f, .fsub d p q .dyn f, .fmul d p q .dyn f, .fdiv d p q .dyn f, .fsqrt d p .dyn f, .fma d p q .dyn f, .fcvt d p e v .dyn f],
        ∃ w, encodeA i = some w ∧ s.traps i 0x01 (BitVec.ofNat 64 w)) ∧
    ∀ w, w < 2 ^ 32 → w / 2 ^ 26 = 0x0F → (w / 2 ^ 6 % 8 = 5 ∨ w / 2 ^ 6 % 8 = 6) → ∃ r, decodeA w = .error r)

/-- FCMP (R121): 1 when the condition holds of the two values, else 0, and the flag each condition raises. FMIN and FMAX (R120): of two numbers the lesser
or the greater, bit for bit, −0 below +0; of a number and a NaN the number; of two NaNs the canonical NaN; NV for a signalling NaN and no other flag.
FCLASS (R122): every field of the class word, and no flag. -/
def Obligations.FpComparisonsAndClasses : Prop :=
  (
    ∀ (s : State) (d p q : Fin 32) (f : FpFmt), s.me.en = 0 →
      let a := f.fmt.decode (f.operand (s.me.getX p))
      let b := f.fmt.decode (f.operand (s.me.getX q))
      let nan : Prop := a.isNan = true ∨ b.isNan = true
      let sig : Prop := a.isSig = true ∨ b.isSig = true
      ∃ eq lt le un : Res,
        s.givesFp (.fcmp d p q .eq f) d eq ∧ s.givesFp (.fcmp d p q .lt f) d lt ∧ s.givesFp (.fcmp d p q .le f) d le ∧ s.givesFp (.fcmp d p q .un f) d un ∧
        ((eq.bits = 1 ∧ a.same b) ∨ (eq.bits = 0 ∧ ¬ a.same b)) ∧ ((lt.bits = 1 ∧ a.less b) ∨ (lt.bits = 0 ∧ ¬ a.less b)) ∧
        ((le.bits = 1 ∧ (a.less b ∨ a.same b)) ∨ (le.bits = 0 ∧ ¬ (a.less b ∨ a.same b))) ∧ ((un.bits = 1 ∧ nan) ∨ (un.bits = 0 ∧ ¬ nan)) ∧
        ((eq.flags = NV ∧ un.flags = NV ∧ sig) ∨ (eq.flags = 0 ∧ un.flags = 0 ∧ ¬ sig)) ∧ ((lt.flags = NV ∧ le.flags = NV ∧ nan) ∨ (lt.flags = 0 ∧ le.flags = 0 ∧ ¬ nan))) ∧
  (
    ∀ (s : State) (d p q : Fin 32) (f : FpFmt), s.me.en = 0 →
      let x := f.operand (s.me.getX p)
      let y := f.operand (s.me.getX q)
      let a := f.fmt.decode x
      let b := f.fmt.decode y
      let under (u v : FVal) : Prop := u.less v ∨ (u.same v ∧ u.isNeg = true ∧ v.isNeg = false)
      ∃ lo hi : Res, s.givesFp (.fmin d p q f) d lo ∧ s.givesFp (.fmax d p q f) d hi ∧
        (a.isNan = false → b.isNan = false → (lo.bits = x ∨ lo.bits = y) ∧ (hi.bits = x ∨ hi.bits = y) ∧
          ∀ v ∈ [a, b], ¬ under v (f.fmt.decode lo.bits) ∧ ¬ under (f.fmt.decode hi.bits) v) ∧
        (a.isNan = false → b.isNan = true → lo.bits = x ∧ hi.bits = x) ∧ (a.isNan = true → b.isNan = false → lo.bits = y ∧ hi.bits = y) ∧
        (a.isNan = true → b.isNan = true → lo.bits = f.fmt.canonNan ∧ hi.bits = f.fmt.canonNan) ∧
        lo.flags = hi.flags ∧ ((lo.flags = NV ∧ (a.isSig = true ∨ b.isSig = true)) ∨ (lo.flags = 0 ∧ a.isSig = false ∧ b.isSig = false))) ∧
  (
    ∀ (s : State) (d p : Fin 32) (f : FpFmt), s.me.en = 0 →
      let n := f.operand (s.me.getX p)
      ∃ r : Res, s.givesFp (.fclass d p f) d r ∧ r.flags = 0 ∧ r.bits < 2 ^ 32 ∧ r.bits / 2 ^ 4 % 2 ^ 12 = 0 ∧
        r.bits / 8 % 2 = n / 2 ^ (f.fmt.width - 1) % 2 ∧
        match f.fmt.decode n with
        | .nan sig => r.bits % 8 = (if sig then 5 else 4) ∧ r.bits / 2 ^ 16 = 0
        | .inf _ => r.bits % 8 = 3 ∧ r.bits / 2 ^ 16 = 0
        | .fin neg m e =>
          let v := (FVal.fin neg m e).rat
          if m = 0 then r.bits % 8 = 0 ∧ r.bits / 2 ^ 16 = 0
          else ∃ ex : Int, r.bits / 2 ^ 16 = (BitVec.ofInt 16 ex).toNat ∧ (2 : Rat) ^ ex ≤ |v| ∧ |v| < (2 : Rat) ^ (ex + 1) ∧
            r.bits % 8 = if ex < f.fmt.emin then 1 else 2)

/-- Rounding keeps what a format can hold (R33, R40): a finite nonzero pattern's value rounds to that pattern with no flag, in every format, mode and
form. Round toward zero (R32, R33): the greatest finite magnitude of the format that does not exceed the exact one; only E4M3, whose overflow is a
NaN, may deliver none. Round to nearest even (R32, R33): no finite value of the format lies nearer to the exact result than a finite one delivered,
and a tie goes to the even significand. Directed roundings and ties away (R32, R33): of a positive exact result RUP delivers the least magnitude of
the format not below it, RDN as RTZ, RNA the nearest, a tie going up; beyond the largest finite value RUP takes the overflow table; a negative result
is the mirror image. The flags of a rounding in every mode but RSH (R33, R35): none when the format holds the exact value; OF and NX when the
magnitude rounded at unbounded exponent exceeds the largest finite one; UF with NX when it stays below the smallest normal; else NX. RSH (R33 to R35):
beyond the largest finite magnitude the overflow table; a value the format holds stays, with no flag; between two neighbours the outer one where
Mix32's hash of seed, encoding, lane and round lies below the fraction, else the inner, with NX, and UF below the smallest normal. FADD, FSUB, FMUL,
FDIV and FMA of numbers (R44, R119): the exact result, where it is not zero, rounded once; an exact zero has the sign of R44 or of the operands; a
division by zero gives DZ, or NV for 0 ÷ 0. The same operations with an infinity or a NaN among their operands (R27, R44, R119). FSQRT of a number
(R119): ±0 stays, below it NaN with NV; else the root as each mode bounds it, by squares, and NX unless it is exact. The conversions of FCVT (R40,
R123): a number becomes the integer that its mode names, NX if inexact, or the nearer bound with NV; NaN gives 0 with NV and NI, an infinity a bound
with NV; an integer, and a value of another format, is rounded once. -/
def Obligations.RoundingDeliversTheNearest : Prop :=
  (
    ∀ f ∈ allFmts, ∀ (m : Rm) (rs : Rsh) (sat neg : Bool) (n mm : Nat) (e : Int), n < 2 ^ f.width → f.decode n = .fin neg mm e → mm ≠ 0 →
      f.round m rs sat (exactOf neg mm e) = ⟨n, 0⟩) ∧
  (
    ∀ f ∈ allFmts, ∀ (rs : Rsh) (num den : Nat), 0 < num → 0 < den →
      let n := (f.round .rtz rs false ⟨false, num, den, false⟩).bits
      (f.top ≠ .e4m3 → n ≤ f.maxMag) ∧
        (n ≤ f.maxMag → (f.decode n).rat ≤ (num : Rat) / den ∧ ∀ k, n < k → k ≤ f.maxMag → (num : Rat) / den < (f.decode k).rat)) ∧
  (
    ∀ f ∈ allFmts, ∀ (rs : Rsh) (num den : Nat), 0 < num → 0 < den →
      let x : Rat := (num : Rat) / den
      let n := (f.round .rne rs false ⟨false, num, den, false⟩).bits
      n ≤ f.maxMag → ∀ k, k ≤ f.maxMag →
        |(f.decode n).rat - x| ≤ |(f.decode k).rat - x| ∧ (|(f.decode n).rat - x| = |(f.decode k).rat - x| → k ≠ n → n % 2 = 0)) ∧
  (
    ∀ f ∈ allFmts, ∀ (rs : Rsh) (num den : Nat), 0 < num → 0 < den →
      let x : Rat := (num : Rat) / den
      let val (n : Nat) : Rat := (f.decode n).rat
      let res (m : Rm) (neg : Bool) : Res := f.round m rs false ⟨neg, num, den, false⟩
      let up := (res .rup false).bits
      let away := (res .rna false).bits
      (x ≤ val f.maxMag → up ≤ f.maxMag ∧ x ≤ val up ∧ ∀ k, k < up → val k < x) ∧
      (val f.maxMag < x → res .rup false = ⟨match f.top with | .ieee => f.infBits false | .e4m3 => 0x7F | .finite => f.maxMag, OF ||| NX⟩) ∧
      res .rdn false = res .rtz false ∧
      (away ≤ f.maxMag → ∀ k, k ≤ f.maxMag → |val away - x| ≤ |val k - x| ∧ (|val away - x| = |val k - x| → k ≤ away)) ∧
      ∀ mm ∈ [(Rm.rne, Rm.rne), (.rtz, .rtz), (.rna, .rna), (.rup, .rdn), (.rdn, .rup)],
        (res mm.1 true).flags = (res mm.2 false).flags ∧
        (res mm.1 true).bits = if f.top = .e4m3 ∧ (res mm.2 false).bits = 0x7F then 0x7F else f.signBit true + (res mm.2 false).bits) ∧
  (
    ∀ f ∈ allFmts, ∀ (m : Rm) (rs : Rsh) (neg : Bool) (num den : Nat), 0 < num → 0 < den → m ≠ .rsh →
      let x : Rat := (num : Rat) / den
      let fl := (f.round m rs false ⟨neg, num, den, false⟩).flags
      let val (n : Nat) : Rat := (f.decode n).rat
      let held : Prop := ∃ k, k ≤ f.maxMag ∧ val k = x
      let away : Prop := (m = .rup ∧ neg = false) ∨ (m = .rdn ∧ neg = true)
      let top := val f.maxMag
      let gap := top - val (f.maxMag - 1)
      let least : Rat := (2 : Rat) ^ f.emin
      let step : Rat := (2 : Rat) ^ (f.emin - 1 - f.fb)
      let beyond : Prop := match m with
        | .rne => top + gap / 2 < x ∨ (top + gap / 2 = x ∧ f.top ≠ .e4m3)
        | .rna => top + gap / 2 ≤ x
        | _ => (away ∧ top < x) ∨ (¬ away ∧ top + gap ≤ x)
      let tiny : Prop := match m with
        | .rne | .rna => x < least - step / 2
        | _ => (away ∧ x ≤ least - step) ∨ (¬ away ∧ x < least)
      (held → fl = 0) ∧ (beyond → fl = OF ||| NX) ∧ (¬ held → ¬ beyond → tiny → fl = NX ||| UF) ∧ (¬ held → ¬ beyond → ¬ tiny → fl = NX)) ∧
  (
    ∀ f ∈ allFmts, ∀ (rs : Rsh) (neg : Bool) (num den : Nat), 0 < num → 0 < den →
      let x : Rat := (num : Rat) / den
      let val (n : Nat) : Rat := (f.decode n).rat
      let res : Res := f.round .rsh rs false ⟨neg, num, den, false⟩
      let mix (h : BitVec 32) : BitVec 32 :=
        let h := (h ^^^ (h >>> 16)) * 0x2C1B3C6D
        let h := (h ^^^ (h >>> 12)) * 0x297A2D39
        h ^^^ (h >>> 15)
      let hash (v : Nat) : BitVec 32 :=
        mix (mix (mix (rs.seed ^^^ BitVec.ofNat 32 v) ^^^ BitVec.ofNat 32 (v / 2 ^ 32)) ^^^ (BitVec.ofNat 32 rs.lane <<< 16) ^^^ BitVec.ofNat 32 rs.round)
      (val f.maxMag < x → res = ⟨match f.top with | .ieee => f.infBits neg | .e4m3 => 0x7F | .finite => f.maxBits neg, OF ||| NX⟩) ∧
      (∀ k, k ≤ f.maxMag → val k = x → res = ⟨f.signBit neg + k, 0⟩) ∧
      ∀ k, k < f.maxMag → val k < x → x < val (k + 1) →
        let d : Int := ⌊(x - val k) / (val (k + 1) - val k) * 2 ^ 32⌋
        let n := if ((hash (f.signBit neg + k)).toNat : Int) < d then k + 1 else k
        res = ⟨f.signBit neg + n, if val n < (2 : Rat) ^ f.emin then NX ||| UF else NX⟩) ∧
  (
    ∀ (f : FpFmt) (m : Rm) (rs : Rsh) (a b c ma mb mc : Nat) (na nb nc : Bool) (ea eb ec : Int),
      let F := f.fmt
      F.decode a = .fin na ma ea → F.decode b = .fin nb mb eb → F.decode c = .fin nc mc ec →
      let A := (F.decode a).rat
      let B := (F.decode b).rat
      let C := (F.decode c).rat
      let rounds (r : Res) (v : Rat) : Prop := ∃ x : Exact, 0 < x.num ∧ 0 < x.den ∧ x.sticky = false ∧ (if x.neg then -1 else 1) * (x.num : Rat) / x.den = v ∧ r = F.round m rs false x
      let zero (r : Res) (neg : Bool) : Prop := r = ⟨F.signBit neg, 0⟩
      (A + B ≠ 0 → rounds (F.add m rs a b) (A + B)) ∧ (A + B = 0 → zero (F.add m rs a b) (if ma = 0 ∧ na = nb then na else m == .rdn)) ∧
      (A - B ≠ 0 → rounds (F.sub m rs a b) (A - B)) ∧ (A - B = 0 → zero (F.sub m rs a b) (if ma = 0 ∧ na ≠ nb then na else m == .rdn)) ∧
      (A * B ≠ 0 → rounds (F.mul m rs a b) (A * B)) ∧ (A * B = 0 → zero (F.mul m rs a b) (na != nb)) ∧
      (B ≠ 0 → A ≠ 0 → rounds (F.div m rs a b) (A / B)) ∧ (B ≠ 0 → A = 0 → zero (F.div m rs a b) (na != nb)) ∧
      (B = 0 → A ≠ 0 → F.div m rs a b = ⟨F.infBits (na != nb), DZ⟩) ∧ (B = 0 → A = 0 → F.div m rs a b = ⟨F.canonNan, NV⟩) ∧
      (A * B + C ≠ 0 → rounds (F.fma m rs false false a b c) (A * B + C)) ∧
      (A * B + C = 0 → zero (F.fma m rs false false a b c) (if mc = 0 ∧ (na != nb) = nc then nc else m == .rdn))) ∧
  (
    ∀ (f : FpFmt) (m : Rm) (rs : Rsh) (a b c : Nat),
      let F := f.fmt
      let A := F.decode a
      let B := F.decode b
      let C := F.decode c
      let nan (nv : Bool) : Res := ⟨F.canonNan, if nv then NV else 0⟩
      let inf (neg : Bool) : Res := ⟨F.infBits neg, 0⟩
      let s := A.isNeg != B.isNeg
      let isInf (v : FVal) : Prop := v = .inf v.isNeg
      let isZero (v : FVal) : Prop := v.isNan = false ∧ ¬ isInf v ∧ v.rat = 0
      (A.isNan || B.isNan → ∀ r ∈ [F.add m rs a b, F.sub m rs a b, F.mul m rs a b, F.div m rs a b], r = nan (A.isSig || B.isSig)) ∧
      (A.isNan || B.isNan || C.isNan → F.fma m rs false false a b c = nan (A.isSig || B.isSig || C.isSig)) ∧
      (A.isNan = false → B.isNan = false → (isInf A ∨ isInf B) →
        (isInf A → isInf B → F.add m rs a b = (if s then nan true else inf A.isNeg) ∧ F.sub m rs a b = (if s then inf A.isNeg else nan true) ∧ F.div m rs a b = nan true) ∧
        (isInf A → ¬ isInf B → F.add m rs a b = inf A.isNeg ∧ F.sub m rs a b = inf A.isNeg ∧ F.div m rs a b = inf s) ∧
        (¬ isInf A → isInf B → F.add m rs a b = inf B.isNeg ∧ F.sub m rs a b = inf (!B.isNeg) ∧ F.div m rs a b = ⟨F.signBit s, 0⟩) ∧
        (isZero A ∨ isZero B → F.mul m rs a b = nan true ∧ (C.isNan = false → F.fma m rs false false a b c = nan true)) ∧
        (¬ isZero A → ¬ isZero B → F.mul m rs a b = inf s ∧ (C.isNan = false → F.fma m rs false false a b c = if C = .inf (!s) then nan true else inf s))) ∧
      (A.isNan = false → B.isNan = false → ¬ isInf A → ¬ isInf B → isInf C → F.fma m rs false false a b c = inf C.isNeg) ∧
      (A.isNan → F.sqrt m rs a = nan A.isSig) ∧ (isInf A → F.sqrt m rs a = if A.isNeg then nan true else inf false)) ∧
  (
    ∀ (f : FpFmt) (m : Rm) (rs : Rsh) (a mm : Nat) (neg : Bool) (e : Int),
      let F := f.fmt
      F.decode a = .fin neg mm e → m ≠ .rsh →
      let r := F.sqrt m rs a
      let x := (F.decode a).rat
      let v (n : Nat) : Rat := (F.decode n).rat
      (mm = 0 → r = ⟨F.signBit neg, 0⟩) ∧ (mm ≠ 0 → neg = true → r = ⟨F.canonNan, NV⟩) ∧
      (mm ≠ 0 → neg = false → 0 < r.bits ∧ r.bits < F.maxMag ∧ ((r.flags = 0 ∧ v r.bits ^ 2 = x) ∨ (r.flags = NX ∧ v r.bits ^ 2 ≠ x)) ∧
        match m with
        | .rup => v (r.bits - 1) ^ 2 < x ∧ x ≤ v r.bits ^ 2
        | .rne | .rna => (v (r.bits - 1) + v r.bits) ^ 2 ≤ 4 * x ∧ 4 * x ≤ (v r.bits + v (r.bits + 1)) ^ 2
        | _ => v r.bits ^ 2 ≤ x ∧ x < v (r.bits + 1) ^ 2)) ∧
  (
    ∀ (m : Rm) (rs : Rsh) (v : FVal) (i : Int), m ≠ .rsh →
      (∀ (t : EType) (sg : Bool), etypeFmt t = .error sg →
        let w := etypeWidth t
        let r := convert t false m rs (.float v)
        match v with
        | .nan _ => r = ⟨0, NV ||| NI⟩
        | .inf neg => r = ⟨wrapInt w (if neg then intMin w sg else intMax w sg), NV⟩
        | .fin neg mm e =>
          let x := (FVal.fin neg mm e).rat
          ∃ z : Int, (match m with
              | .rup => x ≤ z ∧ (z : Rat) < x + 1
              | .rdn => (z : Rat) ≤ x ∧ x < z + 1
              | .rne => |(z : Rat) - x| ≤ 1 / 2 ∧ (|(z : Rat) - x| = 1 / 2 → z % 2 = 0)
              | .rna => |(z : Rat) - x| ≤ 1 / 2 ∧ (|(z : Rat) - x| = 1 / 2 → |x| < |(z : Rat)|)
              | _ => |(z : Rat)| ≤ |x| ∧ |x| < |(z : Rat)| + 1 ∧ 0 ≤ z * x) ∧
            r = if z < intMin w sg then ⟨wrapInt w (intMin w sg), NV⟩ else if intMax w sg < z then ⟨wrapInt w (intMax w sg), NV⟩
              else ⟨wrapInt w z, if (z : Rat) = x then 0 else NX⟩) ∧
      ∀ (t : EType) (f : Fmt), etypeFmt t = .ok f → f.top = .ieee →
        (convert t false m rs (.int 0) = ⟨0, 0⟩) ∧ (i ≠ 0 → convert t false m rs (.int i) = f.round m rs false ⟨decide (i < 0), i.natAbs, 1, false⟩) ∧
        let r := convert t false m rs (.float v)
        match v with
        | .nan sig => r = ⟨f.canonNan, if sig then NV else 0⟩
        | .inf neg => r = ⟨f.infBits neg, 0⟩
        | .fin neg mm e => if mm = 0 then r = ⟨f.signBit neg, 0⟩
            else ∃ x : Exact, 0 < x.den ∧ x.sticky = false ∧ (if x.neg then -1 else 1) * (x.num : Rat) / x.den = (FVal.fin neg mm e).rat ∧ r = f.round m rs false x)

/-- Conditional branches (R92): the words; the branch goes to PC + 4 × offset when its comparison holds and to PC + 4 when not, changing no register and
no memory; a next address that no transfer may go to traps with MISALIGNED and its low 64 bits. J, JAL and JALR (R93, R94): words, targets modulo
2^80, the link register, which a trap at the target leaves alone; JALR reads its base before it links. -/
def Obligations.TransfersGoWhereTheySay : Prop :=
  (
    ∀ (s : State) (p q : Fin 32) (o : BitVec 16),
      let a := s.me.getX p
      let b := s.me.getX q
      ∀ icw ∈ [(Instr.beq p q o, decide (a = b), 0x60000000), (.bne p q o, decide (a ≠ b), 0x64000000), (.blt p q o, decide (a.toInt < b.toInt), 0x68000000),
          (.bge p q o, decide (b.toInt ≤ a.toInt), 0x6C000000), (.bltu p q o, decide (a.toNat < b.toNat), 0x70000000), (.bgeu p q o, decide (b.toNat ≤ a.toNat), 0x74000000)],
        let next : Addr := if icw.2.1 then BitVec.ofInt 80 (s.me.pc.toNat + 4 * o.toInt) else s.me.pc + 4
        decodeA (icw.2.2 + p.val * 2 ^ 21 + q.val * 2 ^ 16 + o.toNat) = .ok icw.1 ∧
        (goodTarget next → s.goesTo icw.1 next none) ∧ (¬ goodTarget next → s.me.path = none → s.traps icw.1 0x03 (next.truncate 64)) ∧
        (¬ goodTarget next → s.me.path.isSome → s.waits icw.1 .likely)) ∧
  (
    ∀ (s : State) (o : BitVec 26) (d a : Fin 16) (i : BitVec 16),
      let rel : Addr := BitVec.ofInt 80 (s.me.pc.toNat + 4 * o.toInt)
      let base : Addr := BitVec.ofInt 80 ((s.me.getA a).toNat + i.toInt)
      ∀ icw ∈ [(Instr.j o, rel, (none : Option (Fin 16)), 0x78000000 + o.toNat), (.jal o, rel, some 15, 0x7C000000 + o.toNat),
          (.jalr d a i, base, some d, 0x80000000 + d.val * 2 ^ 21 + a.val * 2 ^ 16 + i.toNat)],
        decodeA icw.2.2.2 = .ok icw.1 ∧ (goodTarget icw.2.1 → s.goesTo icw.1 icw.2.1 icw.2.2.1) ∧
        (¬ goodTarget icw.2.1 → s.me.path = none → s.traps icw.1 0x03 (icw.2.1.truncate 64)) ∧
        (¬ goodTarget icw.2.1 → s.me.path.isSome → s.waits icw.1 .likely))

/-- The branch queue's pops, BQB and BQPOP (R95, R174): with an entry v at the head and a good next address, v is popped and written to x[d], the thread
goes to the target for v ≠ 0 and to the next word for v = 0, and what an acquire does is done; on a bad next address BQB traps and the entry stays;
unbound, they trap with QUEUE_PROTOCOL; empty, they wait, and while the region is frozen they wait for it (R368). On an unbound branch queue BQB,
BQB.LK and BQPOP trap with QUEUE_PROTOCOL, queue 0xFF, reason 1 (R95, R163, R174). The likely path (R96, R98): BQB.LK on an empty branch queue, with a
good target and no path open, records the checkpoint, advances sr.gen and goes on at the target; an entry that is not 0 drops the checkpoint and,
unless the path has written it, fills the destination; an entry of 0 restores every register of the checkpoint, writes 0 to the destination, advances
sr.gen again and resumes at the word after the BQB. That the flags go back with the registers is the model's choice (log 27). -/
def Obligations.BranchQueueInstructions : Prop :=
  (
    ∀ (s : State) (d : Fin 32) (o : BitVec 16) (b : Bq) (v : Word) (rest : List Word), s.me.bq = some b →
      let target : Addr := if v = 0 then s.me.pc + 4 else BitVec.ofInt 80 (s.me.pc.toNat + 4 * o.toInt)
      let frozen : Prop := ∃ g, s.region (rkey (s.partOf s.cur) b.region.toNat) = some g ∧ g.frozen = true
      (b.entries = v :: rest → frozen → ∀ i ∈ [Instr.bqb d o, .bqbLk d o, .bqpop d], s.waits i .region) ∧
      (b.entries = v :: rest → ¬ frozen → ∀ it ∈ [(Instr.bqb d o, target), (.bqbLk d o, target), (.bqpop d, s.me.pc + 4)],
        (goodTarget it.2 ∨ it.1 = .bqpop d → ∃ t, exec it.1 s = .next t ∧ t.me.pc = it.2 ∧ t.me.wait = none ∧ t.me.bq = some { b with entries := rest } ∧
          (∀ r, t.me.getX r = if r = d ∧ r ≠ 0 then v else s.me.getX r) ∧
          s.me.sameButX { t.me with bq := s.me.bq, dclk := s.me.dclk } ∧ s.acquired t s.cur ∧ s.sameButMyCore t ∧ s.sameMemory t) ∧
        (¬ goodTarget it.2 → it.1 ≠ .bqpop d → s.me.path = none → s.traps it.1 0x03 (it.2.truncate 64))) ∧
      (b.entries = [] → s.waits (.bqb d o) .bqEmpty ∧ s.waits (.bqpop d) .bqEmpty)) ∧
  (
    ∀ (s : State) (d : Fin 32) (o : BitVec 16), s.me.bq = none → s.me.path = none →
      ∀ i ∈ [Instr.bqb d o, .bqbLk d o, .bqpop d], s.traps i 0x08 (BitVec.ofNat 64 (0xFF * 256 + 1))) ∧
  (
    (∀ (s : State) (d : Fin 32) (o : BitVec 16) (b : Bq), s.me.bq = some b → b.entries = [] → s.me.path = none →
      let target : Addr := BitVec.ofInt 80 (s.me.pc.toNat + 4 * o.toInt)
      goodTarget target → ∃ t p, exec (.bqbLk d o) s = .next t ∧ t.me.path = some p ∧ p.x = s.me.x ∧ p.a = s.me.a ∧ p.v = s.me.v ∧ p.m = s.me.m ∧ p.ahead = s.me.ahead ∧
        p.pc = s.me.pc ∧ p.rd = d ∧ p.flags = s.me.flags ∧ t.me.gen = s.me.gen + 1 ∧ t.me.pc = target ∧ t.me.wait = none ∧ s.sameButMe t ∧ s.sameMemory t ∧
        s.me.sameButPc { t.me with path := none, gen := s.me.gen }) ∧
    ∀ (s : State) (u : Nat) (p : Path) (b : Bq) (v : Word) (rest : List Word), (s.thread u).path = some p → (s.thread u).bq = some b → b.entries = v :: rest →
      ∃ t, exec (.likelyPathResolution u) s = .next t ∧ s.sameMemory t ∧ (∀ w, w ≠ u → t.thread w = s.thread w) ∧ (t.thread u).path = none ∧
        (v ≠ 0 → (t.thread u).bq = some { b with entries := rest } ∧ (t.thread u).pc = (s.thread u).pc ∧ (t.thread u).gen = (s.thread u).gen ∧
          ∀ r, (t.thread u).getX r = if r = p.rd ∧ r ≠ 0 ∧ p.wrote = false then v else (s.thread u).getX r) ∧
        (v = 0 → goodTarget (p.pc + 4) → (t.thread u).bq = some { b with entries := rest } ∧ (t.thread u).pc = p.pc + 4 ∧ (t.thread u).gen = (s.thread u).gen + 1 ∧
          (t.thread u).a = p.a ∧ (t.thread u).v = p.v ∧ (t.thread u).m = p.m ∧ (t.thread u).flags = p.flags ∧
          ∀ r, (t.thread u).getX r = if r = p.rd ∨ r = 0 then 0 else p.x.get r))

/-- Trap entry (R85): the registers it writes, the mode it enters and where it goes, in every mode; no other thread, no memory and nothing else of the
machine changes. -/
def Obligations.TrapEntryIsOneAct : Prop :=
  ∀ (s : State) (u code : Nat) (asy : Bool) (tval : Word) (epc : Addr),
    let th := s.thread u
    let t := s.enterTrap u code asy tval epc
    let th' := t.thread u
    let page := s.part (s.partOf u)
    t = s.setThread u th' ∧ s.sameMemory t ∧
    th'.epc = epc.truncate 64 ∧ th'.asy = asy ∧ th'.code = BitVec.ofNat 8 code ∧ th'.tval = tval ∧ th'.phold = th.hold ∧ th'.hold = true ∧
    th'.prev = Mode.bits th.cur ∧ th'.cur = (if th.cur = .worker then .supervisor else .firmware) ∧
    th'.pc = BitVec.ofNat 80 (page.reg (if th.cur = .worker then 0x120 else 0x130) % 2 ^ 64 / 4 * 4) ∧
    th.sameButPc { th' with epc := th.epc, asy := th.asy, code := th.code, tval := th.tval, phold := th.phold, hold := th.hold, prev := th.prev, cur := th.cur }

/-- TRAP and SVC (R101): causes 0x11 and 0x10, sr.tval the immediate, sr.epc the following instruction; their words. ERET (R102): in supervisor and
firmware mode it restores mode and HOLD and goes to sr.epc; below, PRIVILEGE with its word. Privilege (R84): below supervisor mode ERET, RQBIND,
RNDDOM, TLBINV, both CTX instructions and an RGNALLOC of a service region trap with PRIVILEGE and their word, before any effect. -/
def Obligations.TrapsAreTakenAndReturnedFrom : Prop :=
  (
    ∀ (s : State) (i : BitVec 11),
      decodeA (0xFC000000 + i.toNat) = .ok (.trap i) ∧ decodeA (0xFC010000 + i.toNat) = .ok (.svc i) ∧
      exec (.trap i) s = .next (s.enterTrap s.cur 0x11 false (i.zeroExtend 64) (s.me.pc + 4)) ∧
      exec (.svc i) s = .next (s.enterTrap s.cur 0x10 false (i.zeroExtend 64) (s.me.pc + 4))) ∧
  (
    ∀ (s : State),
      decodeA 0xFC020000 = .ok .eret ∧
      (s.me.cur ≠ .worker → ∃ t, exec .eret s = .next t ∧ (s.me.prev ≠ 2 → Mode.bits t.me.cur = s.me.prev) ∧ t.me.prev = 0 ∧ t.me.hold = s.me.phold ∧ t.me.phold = false ∧
        t.me.pc = BitVec.ofNat 80 (s.me.epc.toNat / 4 * 4) ∧ t.me.wait = none ∧ s.sameMemory t ∧ s.sameButMe { t with freeCtr := s.freeCtr } ∧
        s.me.sameButPc { t.me with cur := s.me.cur, prev := s.me.prev, hold := s.me.hold, phold := s.me.phold }) ∧
      (s.me.cur = .worker → s.me.path = none → s.traps .eret 0x02 0xFC020000)) ∧
  (
    (∀ (s : State) (d p : Fin 32) (a : Fin 16) (q : Fin 32) (e : RqEnd) (r : Reach), s.me.cur = .worker → s.me.path = none →
      ∀ i ∈ [Instr.eret, .rqbind a q e, .rnddom d a, .tlbinvPg a r, .tlbinvAll r, .ctxsaveRegion d p a, .ctxsaveThread d p a, .ctxrstRegion d p a, .ctxrstThread d p a],
        ∃ w, encode i = some w ∧ s.traps i 0x02 (BitVec.ofNat 64 w)) ∧
    ∀ (s : State) (d p : Fin 32), s.me.cur = .worker → s.me.path = none → (s.me.getX p).getLsbD 30 = true →
      ∃ w, encode (.rgnalloc d p) = some w ∧ s.traps (.rgnalloc d p) 0x02 (BitVec.ofNat 64 w))

/-- SRR reads each status register as its map lays the fields out (R36, R37, R83, R103). SRW writes the fields that the mode may write and no others (R36,
R37, R83): a supervisor and firmware the RW fields of the map, a worker those of the registers that are not privileged, with PRIO no higher than CAP;
every other status register, register and byte of memory stays. WFE, YIELD and HALT (R104 to R106): WFE with EV set goes on and clears it, else waits;
its limit ends the wait with EV still 0; YIELD goes on and only marks its core; HALT, once nothing is owed and no cause may be taken (R87), halts the
thread after itself, else waits. -/
def Obligations.StatusRegistersAndWaiting : Prop :=
  (
    ∀ (s : State) (d : Fin 32),
      let th := s.me
      let of (n : Nat) : Word := BitVec.ofNat 64 n
      ∀ nv ∈ [(SrNum.mode, of (th.phold.toNat * 2 ^ 5 + th.hold.toNat * 2 ^ 4 + th.prev.toNat * 2 ^ 2 + (match th.cur with | .worker => 0 | .supervisor => 1 | .firmware => 3))),
          (.epc, th.epc), (.cause, of (th.asy.toNat * 2 ^ 8 + th.code.toNat)), (.tval, th.tval), (.fflags, of (th.en.toNat * 2 ^ 8 + th.flags.toNat)), (.frm, of th.frm.toNat),
          (.gen, of th.gen.toNat), (.lt, of (s.core (s.cur / 8)).lt), (.gtime, of (s.die (dieOf s.cur)).gtime), (.rwait, of th.rwait.toNat), (.qwatch, of th.qwatch.toNat),
          (.prio, of (th.cap.toNat * 2 ^ 2 + th.prio.toNat))],
        s.givesX (.srr d nv.1) d nv.2) ∧
  (
    ∀ (s : State) (p : Fin 32) (n : SrNum),
      let v := s.me.getX p
      let rw : Word := match n with
        | .mode => 0x3C | .epc => 0xFFFFFFFFFFFFFFFC | .cause => 0x1FF | .tval => 0xFFFFFFFFFFFFFFFF | .fflags => 0x7F7F | .frm => 7
        | .gen | .lt | .gtime => 0 | .rwait | .qwatch => 0xFFFFFFFF | .prio => 0xF
      let guarded : Prop := n = .mode ∨ n = .epc ∨ n = .cause ∨ n = .tval
      let word : Word := BitVec.ofNat 64 (0xFC040000 + p.val * 2 ^ 11 + n.code)
      (s.me.cur = .worker → guarded → s.me.path = none → s.traps (.srw p n) 0x02 word) ∧
      (s.me.cur = .supervisor → n = .mode → v.toNat / 4 % 4 = 3 → s.me.path = none → s.traps (.srw p n) 0x02 word) ∧
      (¬ (s.me.cur = .worker ∧ guarded) → ¬ (s.me.cur = .supervisor ∧ n = .mode ∧ v.toNat / 4 % 4 = 3) →
        ∃ t, exec (.srw p n) s = .next t ∧ s.sameButMe t ∧ s.sameMemory t ∧ t.me.pc = s.me.pc + 4 ∧ t.me.wait = none ∧ (∀ k, k ≠ n → t.sr k = s.sr k) ∧
          (s.me.cur ≠ .worker ∨ n ≠ .prio → t.sr n = (if n = .epc then 0 else s.sr n &&& ~~~rw) ||| (v &&& rw)) ∧
          (s.me.cur = .worker → n = .prio → t.me.cap = s.me.cap ∧ t.me.prio = BitVec.ofNat 2 (min (v.toNat % 4) s.me.cap.toNat)) ∧
          s.me.sameButPc { t.me with phold := s.me.phold, hold := s.me.hold, prev := s.me.prev, epc := s.me.epc, asy := s.me.asy, code := s.me.code, tval := s.me.tval, en := s.me.en, flags := s.me.flags, frm := s.me.frm, rwait := s.me.rwait, qwatch := s.me.qwatch, cap := s.me.cap, prio := s.me.prio })) ∧
  (
    (∀ (s : State) (p : Fin 32),
      (s.me.ev = true → ∃ t, exec (.wfe p) s = .next t ∧ s.sameButMe t ∧ s.sameMemory t ∧ t.me.ev = false ∧ t.me.pc = s.me.pc + 4 ∧ t.me.wait = none ∧ s.me.sameButPc { t.me with ev := true }) ∧
      (s.me.ev = false → s.waits (.wfe p) (.wfe (s.me.getX p).toNat)) ∧
      (∃ t, exec .yield s = .next t ∧ s.sameButMyCore t ∧ s.sameMemory t ∧ s.me.sameButPc t.me ∧ t.me.pc = s.me.pc + 4 ∧ t.me.wait = none ∧
        t.core (coreOf s.cur) = { s.core (coreOf s.cur) with yielded := some (thOf s.cur) }) ∧
      (s.me.ahead = [] → s.me.hold = true ∨ s.me.pend = [] → ∃ t, exec .halt s = .next t ∧ s.sameButMe t ∧ s.sameMemory t ∧ t.me.st = .halted ∧ t.me.pc = s.me.pc + 4 ∧ t.me.wait = none ∧ s.me.sameButPc { t.me with st := s.me.st }) ∧
      (s.me.ahead ≠ [] ∨ (s.me.hold = false ∧ s.me.pend ≠ []) → s.waits .halt .register)) ∧
    ∀ (s : State) (u limit n : Nat) (l : Bool), (s.thread u).wait = some ⟨.wfe limit, n, l⟩ → (s.thread u).ev = false →
      (0 < limit → limit ≤ n → ∃ t, exec (.wfeLimit u) s = .next t ∧ t = s.setThread u (t.thread u) ∧ s.sameMemory t ∧ (t.thread u).ev = false ∧ (t.thread u).wait = none ∧
        (t.thread u).pc = (s.thread u).pc + 4 ∧ (s.thread u).sameButPc (t.thread u)) ∧
      (limit = 0 ∨ n < limit → exec (.wfeLimit u) s = .next s))

/-- Checks of a memory access (R144), for every load, store and atomic: a misaligned address traps with MISALIGNED before translation; a walk that has
found no entry gives PAGE_NOT_PRESENT, a fresh entry without the permission PAGE_PERMISSION, a home on a lost die HOME_LOST; each precise, with the
address in sr.tval. Loads leave issue (R147, R148, R150, R337), outside round domains. From a device register, or from a current copy that no access
of the thread on its way overlaps and that is not leased and older than what the thread's reads stand for (log 45), the value is there at once; else,
and always on an open likely path (R173), a request goes to the home and the thread goes on with a run-ahead entry. The destination is the a register
for sz 111, else x[d] (x0 discards), extended as sz says; LDACQ acquires; .EF marks a copy that is there (R147). Stores leave issue (R147, R149,
R150): once the checks pass, a request with the low bytes of x[d], or the a register for sz 111, is on its way to the address computed, and no memory
has changed yet; hint .NA drops the line's L1 copy, .EF marks it, and on stream-buffer lines both are ignored (R133); STREL goes after every earlier
access; a device register is written at once. Atomics leave issue (R152 to R154): a request with the operands read at issue goes to the home; no
register, flag or memory changes yet. A release waits for every earlier access and an acquire holds every later one back, within the scope: whom a
scope names as observers of memory is the model's reading (log 17). -/
def Obligations.AccessesTrapReadOrSend : Prop :=
  (
    ∀ (s : State) (d r : Fin 32) (a b : Fin 16) (z : Sz) (mo : Mo) (am : AMo) (f : Afn) (c : Scope) (o : BitVec 12) (u : BitVec 10), s.me.path = none → s.awaitsReply = false →
      let near : Addr := BitVec.ofInt 80 ((s.me.getA a).toNat + z.bytes * o.toInt)
      ∀ ikv ∈ [(Instr.ld d a z mo o, AccKind.load, near), (.ldacq d a z mo o, .load, near), (.st d a z mo o, .store, near), (.strel d a z mo o, .store, near),
          (.ldb d a z b u, .load, BitVec.ofInt 80 ((s.me.getA a).toNat + z.bytes * u.toInt)), (.amo d a r f c am z, .atomic, s.me.getA a), (.cas d a r c am z, .atomic, s.me.getA a)],
        let k := ikv.2.1
        let va := ikv.2.2
        let found := tlbFind (s.core (coreOf s.cur)).tlb (s.partOf s.cur) (s.me.cur == .firmware) va
        let below := (s.die (dieOf s.cur)).tlbFind (s.partOf s.cur) (s.me.cur == .firmware) va
        let page := walkKey va k (s.me.cur == .firmware)
        (va.toNat % z.bytes ≠ 0 → s.traps ikv.1 0x03 (va.truncate 64)) ∧
        (va.toNat % z.bytes = 0 → found = none → below = none → (page, 1) ∈ s.me.walked → s.traps ikv.1 0x04 (va.truncate 64)) ∧
        (∀ e, va.toNat % z.bytes = 0 → found = some e → permOk k (s.me.cur == .worker) z.bytes e = false → (page, 0) ∈ s.me.walked → (page, 1) ∉ s.me.walked → s.traps ikv.1 0x05 (va.truncate 64)) ∧
        (∀ e, va.toNat % z.bytes = 0 → found = some e → permOk k (s.me.cur == .worker) z.bytes e = true → (page, 1) ∉ s.me.walked → s.homeLost (leafPa e va) = true → s.traps ikv.1 0x0A (va.truncate 64))) ∧
  (
    ∀ (s : State) (d : Fin 32) (a b : Fin 16) (z : Sz) (mo : Mo) (o : BitVec 12) (u : BitVec 10) (pa : Nat) (e : TlbEntry), s.awaitsReply = false → s.me.aheadCount < 64 →
      let near : Addr := BitVec.ofInt 80 ((s.me.getA a).toNat + z.bytes * o.toInt)
      ∀ iva ∈ [(Instr.ld d a z mo o, near, false, mo), (.ldacq d a z mo o, near, true, mo), (.ldb d a z b u, BitVec.ofInt 80 ((s.me.getA a).toNat + z.bytes * u.toInt), false, .normal)],
        let i := iva.1
        let va := iva.2.1
        let acq := iva.2.2.1
        s.reaches va .load z.bytes pa e → (s.part (s.partOf s.cur)).domainOf va = none → (2 < e.mt → s.me.path = none) →
        let usable (c : L1Line) : Bool := copyCurrent (s.core (coreOf s.cur)) (s.gtimeOf s.cur) c && (match c.kind with | .lease rts => decide (s.me.seen ≤ rts) | _ => true)
        let copy := (l1Find (s.core (coreOf s.cur)).l1 (pa / 128)).filter usable
        let free := s.owesAcq s.cur s.me.acqBar = false
        (∀ n, ((e.mt = 4 ∧ n = s.devRead pa z.bytes ∧ free) ∨ (e.mt < 3 ∧ s.me.path = none ∧ ∃ c, copy = some c ∧ n = leNat (copyBytes c pa z.bytes) ∧ s.overlap s.cur pa z.bytes = false ∧ free)) → s.loads i d z n acq) ∧
        (e.mt = 3 ∨ (e.mt < 3 ∧ copy = none) ∨ (e.mt < 3 ∧ copy.isSome ∧ (s.me.path.isSome ∨ s.overlap s.cur pa z.bytes = true ∨ ¬ free)) → ∃ t r, exec i s = .next t ∧ s.sent { t with cores := s.cores } r ∧ r.by' = .thread s.cur ∧
          (∀ c, t.core c = if e.mt < 3 ∧ copy.isSome ∧ iva.2.2.2 = .ef ∧ c = coreOf s.cur then { s.core c with l1 := (s.core c).l1.map (fun l => { l with evictFirst := l.evictFirst || l.line == pa / 128 }) } else s.core c) ∧
          (∃ fill ef, r.kind = .load fill ef ∧ (fill = true ↔ e.mt ≠ 3 ∧ iva.2.2.2 ≠ .na ∧ copy = none)) ∧ r.va = va ∧ r.pa = pa ∧ r.size = z.bytes ∧ r.dst = loadDst d z ∧ r.acq = acq ∧ r.bars = acq ∧ r.bar = 0 ∧
          t.me.pc = s.me.pc + 4 ∧ t.me.wait = none ∧ t.me.ahead = s.me.ahead ++ [(s.nextId, r.dst)] ∧ t.me.acqBar = (if acq then s.nextId + 1 else s.me.acqBar) ∧
          s.me.sameButPc { t.me with ahead := s.me.ahead, acqBar := s.me.acqBar } ∧ s.sameMemory t)) ∧
  (
    ∀ (s : State) (d : Fin 32) (a : Fin 16) (z : Sz) (mo : Mo) (o : BitVec 12) (pa : Nat) (e : TlbEntry),
      let va : Addr := BitVec.ofInt 80 ((s.me.getA a).toNat + z.bytes * o.toInt)
      let v : Nat := if z = .a then (s.me.getA (lowReg d)).toNat else (s.me.getX d).toNat % 2 ^ (8 * z.bytes)
      s.reaches va .store z.bytes pa e →
      ∀ ir ∈ [(Instr.st d a z mo o, s.me.relBar), (.strel d a z mo o, s.nextId)],
        (e.mt ≠ 4 → ∃ t r, exec ir.1 s = .next t ∧ s.sent { t with cores := s.cores, dies := s.dies } r ∧ s.sameDiesBut t (fun l => mo == .na && e.mt != 3 && l == pa / 128) ∧ r.by' = .thread s.cur ∧ r.kind = .store v ∧ r.va = va ∧ r.pa = pa ∧ r.size = z.bytes ∧ r.bars = false ∧ r.bar = ir.2 ∧
          (∀ c, t.core c = if mo = .na ∧ e.mt ≠ 3 ∧ c = coreOf s.cur then { s.core c with l1 := (s.core c).l1.filter (fun l => l.line != pa / 128) }
            else if mo = .ef ∧ e.mt ≠ 3 ∧ c = coreOf s.cur then { s.core c with l1 := (s.core c).l1.map (fun l => { l with evictFirst := l.evictFirst || l.line == pa / 128 }) } else s.core c) ∧
          t.me.pc = s.me.pc + 4 ∧ t.me.wait = none ∧ s.me.sameButPc t.me ∧ s.sameMemory t) ∧
        (e.mt = 4 → s.owes s.cur ir.2 = false → s.owesAcq s.cur s.me.acqBar = false → exec ir.1 s = .next ((s.devWrite pa z.bytes v s.me.cur).onMe Thread.advance))) ∧
  (
    ∀ (s : State) (d q : Fin 32) (a : Fin 16) (f : Afn) (c : Scope) (mo : AMo) (z : Sz) (pa : Nat) (e : TlbEntry), s.me.aheadCount < 64 → s.reaches (s.me.getA a) .atomic z.bytes pa e →
      let low (r : Fin 32) : Nat := (s.me.getX r).toNat % 2 ^ (8 * z.bytes)
      ∀ ik ∈ [(Instr.amo d a q f c mo z, ReqKind.amo f (low q)), (.cas d a q c mo z, .cas (low d) (low q))],
        ∃ t r, exec ik.1 s = .next t ∧ s.sent t r ∧ r.by' = .thread s.cur ∧ r.kind = ik.2 ∧ r.va = s.me.getA a ∧ r.pa = pa ∧ r.size = z.bytes ∧ r.dst = (if d = 0 then .none else .x d z) ∧
          (r.acq = true ↔ mo = .acq ∨ mo = .ar) ∧ (r.rel = true ↔ mo = .rel ∨ mo = .ar) ∧
          t.me.pc = s.me.pc + 4 ∧ t.me.wait = none ∧ t.me.ahead = s.me.ahead ++ [(s.nextId, r.dst)] ∧ t.me.acqBar = (if r.acq ∧ s.scoped c then s.nextId + 1 else s.me.acqBar) ∧ r.bar = (if r.rel ∧ s.scoped c then s.nextId else s.me.relBar) ∧ (r.bars = true ↔ r.acq = true ∧ s.scoped c = true) ∧
          s.me.sameButPc { t.me with ahead := s.me.ahead, acqBar := s.me.acqBar } ∧ s.sameMemory t)

/-- A load at its home takes the bytes that memory holds then and changes no memory (R148); its reply writes the destination register, extended as sz
says, and frees the run-ahead entry; a poisoned one leaves the destination and makes POISON pending (R145). A store at its home writes its bytes,
lowest first, where it was sent, and no other byte (R2, R149, R318). AMO and CAS at their home (R152, R153): one indivisible step that answers the old
value and writes the new one, CAS only when the old value is the one expected; a poisoned old value is kept. No other byte of memory changes. -/
def Obligations.AccessesActAtTheirHome : Prop :=
  (
    (∀ (s : State) (id : Nat) (r : Req) (fill ef : Bool), s.findReq id = some r → r.kind = .load fill ef → s.mayPerform r = true →
      ∃ t r' k wts line, exec (.loadAtHome id) s = .next t ∧ s.sameMemory t ∧ t.findReq id = some r' ∧ r'.stage = .replied (memBytes s.mem r.pa r.size) (s.isPoisoned r.pa) k wts line ∧
        r'.by' = r.by' ∧ r'.dst = r.dst ∧ r'.va = r.va ∧ r'.pa = r.pa ∧ r'.size = r.size ∧ (r.acq = false → s.sameThreadsBut t r.thread?)) ∧
    ∀ (s : State) (id u : Nat) (r : Req) (v line : List Byte) (poison : Bool) (k : CopyKind) (wts : Nat),
      s.findReq id = some r → r.stage = .replied v poison k wts line → r.due ≤ s.tick → s.inTurn r = true → r.by' = .thread u → (∀ q l, r.dst ≠ .lane q l) →
      (∀ n l, (s.thread u).wait ≠ some ⟨.sync id, n, l⟩) → (s.thread u).ahead.any (fun e => e.1 == id) = true → (s.thread u).path = none →
      ∃ t, exec (.loadReply id) s = .next t ∧ s.sameMemory t ∧ t.findReq id = none ∧ (∀ w, w ≠ u → t.thread w = s.thread w) ∧
        (poison = false → t.thread u = { (s.thread u).writeDst r.dst (leNat v) with ahead := (s.thread u).ahead.filter (fun e => e.1 != id) }) ∧
        (poison = true → (s.thread u).st = .active →
          t.thread u = { s.thread u with ahead := (s.thread u).ahead.filter (fun e => e.1 != id), pend := insertPending ⟨0x13, r.va.truncate 64⟩ (s.thread u).pend, ev := (s.thread u).ev || (s.thread u).hold })) ∧
  (
    ∀ (s : State) (id v : Nat) (r : Req), s.mem.wf = true → s.findReq id = some r → r.kind = .store v → s.mayPerform r = true → s.writable r →
      ∃ t r' wts, exec (.storeAtHome id) s = .next t ∧ (∀ k, k < r.size → memByte t.mem (r.pa + k) = BitVec.ofNat 8 (v / 256 ^ k)) ∧ s.sameMemoryBut t r.pa r.size ∧
        t.findReq id = some r' ∧ r'.stage = .acked wts ∧ t.threads = s.threads ∧ t.cores = s.cores ∧ t.parts = s.parts ∧ t.regions = s.regions) ∧
  (
    ∀ (s : State) (id : Nat) (r : Req), s.mem.wf = true → s.findReq id = some r → s.mayPerform r = true → s.writable r →
      let n := r.size
      let old := memRead s.mem r.pa n
      let int (x : Nat) : Int := (BitVec.ofNat (8 * n) x).toInt
      ∀ new : Nat,
        ((∃ f v, r.kind = .amo f v ∧ new = match f with
            | .add => (old + v) % 2 ^ (8 * n) | .and => Nat.land old v | .or => Nat.lor old v | .xor => Nat.xor old v
            | .min => if int v < int old then v else old | .max => if int old < int v then v else old | .minu => min old v | .maxu => max old v | .swap => v
            | .fadd => ((if n = 4 then Fmt.fp32 else Fmt.fp64).add .rne .zero old v).bits) ∨
          (∃ c v, r.kind = .cas c v ∧ new = if old = c then v else old)) →
        ∃ t r' k wts line, exec (.atomicAtHome id) s = .next t ∧ t.findReq id = some r' ∧ r'.stage = .replied (memBytes s.mem r.pa n) (s.isPoisoned r.pa) k wts line ∧ r'.dst = r.dst ∧
          s.sameMemoryBut t r.pa n ∧ (s.isPoisoned r.pa = true → s.sameMemory t) ∧ (s.isPoisoned r.pa = false → memRead t.mem r.pa n = new % 2 ^ (8 * n)) ∧
          (r.acq = false → s.sameThreadsBut t r.thread?))

/-- A load performed after a store at its home finds the stored bytes (R151, R318): whoever sent it, whatever comes with the request, when both name the
same bytes; and a load that shares no byte with the store finds what it would have found before. -/
def Obligations.LoadAfterStoreFindsItsBytes : Prop :=
  ∀ (s t w : State) (id jd v : Nat) (r q q' : Req) (fill ef p : Bool) (b line : List Byte) (k : CopyKind) (wts : Nat), s.mem.wf = true →
    s.findReq id = some r → r.kind = .store v → s.mayPerform r = true → s.writable r → exec (.storeAtHome id) s = .next t →
    t.findReq jd = some q → q.kind = .load fill ef → t.mayPerform q = true → exec (.loadAtHome jd) t = .next w → w.findReq jd = some q' → q'.stage = .replied b p k wts line →
    (q.pa = r.pa → q.size = r.size → leNat b = v % 256 ^ r.size) ∧ (q.pa + q.size ≤ r.pa ∨ r.pa + r.size ≤ q.pa → b = memBytes s.mem q.pa q.size)

/-- PREF (R155): with its translation settled, found or not, it goes on, changing no register and no memory; a fill of the L1 that may bring the line and
does not find it sends a request for it. VLD (R126): with every lane masked it writes zeros; with its active lanes checked and none of them held in
the L1, one request per active lane goes out in lane order, and the thread goes on; with every active lane held in the L1 by a usable copy that
nothing stands before, v[d] is written at once from the copies; the lowest lane that is misaligned, not present, without permission or on a lost home
traps before any request is sent. The last lane's reply (R126, R145): with every lane of the VLD come and none poisoned, v[d] is written whole, each
active lane with its 8 bytes and each masked lane with zero, and its run-ahead entry is freed; with one poisoned, the register stays and POISON
becomes pending. -/
def Obligations.PrefetchesAndGathers : Prop :=
  (
    ∀ (s : State) (h : Hint) (a : Fin 16) (o : BitVec 12), s.me.path = none →
      let va : Addr := BitVec.ofInt 80 ((s.me.getA a).toNat + o.toInt)
      let page := walkKey va .load (s.me.cur == .firmware)
      let found := tlbFind (s.core (coreOf s.cur)).tlb (s.partOf s.cur) (s.me.cur == .firmware) va
      let below := (s.die (dieOf s.cur)).tlbFind (s.partOf s.cur) (s.me.cur == .firmware) va
      (found = none ∧ below = none ∧ (page, 1) ∈ s.me.walked ∨ (∃ e, found = some e ∧ (permOk .load (s.me.cur == .worker) 8 e = true ∨ (page, 0) ∈ s.me.walked)) →
        ∃ t, exec (.pref h a o) s = .next t ∧ s.sameMemory t ∧ t.me.pc = s.me.pc + 4 ∧ t.me.wait = none ∧ s.me.sameButPc t.me ∧ t.threads = (s.setThread s.cur t.me).threads ∧ t.cores = s.cores) ∧
      (∀ e, found = some e → (page, 1) ∉ s.me.walked → permOk .load (s.me.cur == .worker) 8 e = true → e.mt < 3 → s.homeLost (leafPa e va) = false → (s.part (s.partOf s.cur)).domainOf va = none →
        l1Find (s.core (coreOf s.cur)).l1 (leafPa e va / 128) = none → ∃ t r, exec (.pref .fillL1 a o) s = .next t ∧ s.sent t r ∧ r.by' = .pref s.cur ∧ r.kind = .load true false ∧ r.pa = leafPa e va / 128 * 128 ∧ r.size = 128)) ∧
  (
    ∀ (s : State) (d b q : Fin 16) (e : Fin 8 → TlbEntry), s.me.path = none →
      let addr (l : Fin 8) : Addr := BitVec.ofInt 80 ((s.me.getA b).toNat + ((s.me.getV q).get l).toInt)
      let on (l : Fin 8) : Bool := (s.me.getM 0).getLsbD l.val
      ((∀ l, on l = false) → s.me.aheadCount < 64 → s.givesV (.vld d b q) d (fun _ => 0)) ∧
      ((∃ l, on l = true) → s.me.aheadCount < 64 →
        (∀ l, on l = true → s.reaches (addr l) .load 8 (leafPa (e l) (addr l)) (e l) ∧ (e l).mt < 3 ∧ (s.part (s.partOf s.cur)).domainOf (addr l) = none ∧
          l1Find (s.core (coreOf s.cur)).l1 (leafPa (e l) (addr l) / 128) = none) →
        ∃ t rs, exec (.vld d b q) s = .next t ∧ s.sameMemory t ∧ t.me.pc = s.me.pc + 4 ∧ t.me.wait = none ∧ t.flight = s.flight ++ rs ∧
          rs.map (fun r => r.dst) = ((List.finRange 8).filter on).map (fun l => .lane d l) ∧
          (∀ r ∈ rs, r.by' = .thread s.cur ∧ r.size = 8 ∧ r.stage = .sent ∧ s.tick < r.due ∧ ∀ l, r.dst = .lane d l → r.va = addr l ∧ r.pa = leafPa (e l) (addr l)) ∧
          s.me.sameButPc { t.me with ahead := s.me.ahead }) ∧
      (∀ c : Fin 8 → L1Line, (∃ l, on l = true) → s.me.aheadCount < 64 → s.owesAcq s.cur s.me.acqBar = false → (∀ r ∈ s.flight, r.by' = .thread s.cur → ∀ l, r.dst ≠ .lane d l) →
        (∀ l, on l = true → s.reaches (addr l) .load 8 (leafPa (e l) (addr l)) (e l) ∧ (e l).mt < 3 ∧ (s.part (s.partOf s.cur)).domainOf (addr l) = none ∧
          l1Find (s.core (coreOf s.cur)).l1 (leafPa (e l) (addr l) / 128) = some (c l) ∧ s.copyUsable s.cur (c l) = true ∧ s.overlap s.cur (leafPa (e l) (addr l)) 8 = false) →
        ∃ t, exec (.vld d b q) s = .next t ∧ s.sameMemory t ∧ t.me.pc = s.me.pc + 4 ∧ t.me.wait = none ∧ t.cores = s.cores ∧ s.me.sameButV { t.me with ahead := s.me.ahead, seen := s.me.seen } ∧
          ∀ r l, (t.me.getV r).get l = if r = d then (if on l then BitVec.ofNat 64 (leNat (copyBytes (c l) (leafPa (e l) (addr l)) 8)) else 0) else (s.me.getV r).get l) ∧
      (∀ l, on l = true → (∀ k, k < l → on k = true → s.reaches (addr k) .load 8 (leafPa (e k) (addr k)) (e k)) →
        let page := walkKey (addr l) .load (s.me.cur == .firmware)
        let found := tlbFind (s.core (coreOf s.cur)).tlb (s.partOf s.cur) (s.me.cur == .firmware) (addr l)
        let low : Word := (addr l).truncate 64
        ((addr l).toNat % 8 ≠ 0 → s.traps (.vld d b q) 0x03 low) ∧
        ((addr l).toNat % 8 = 0 → found = none → (s.die (dieOf s.cur)).tlbFind (s.partOf s.cur) (s.me.cur == .firmware) (addr l) = none → (page, 1) ∈ s.me.walked → s.traps (.vld d b q) 0x04 low) ∧
        (∀ g, (addr l).toNat % 8 = 0 → found = some g → permOk .load (s.me.cur == .worker) 8 g = false → (page, 0) ∈ s.me.walked → (page, 1) ∉ s.me.walked → s.traps (.vld d b q) 0x05 low) ∧
        (∀ g, (addr l).toNat % 8 = 0 → found = some g → permOk .load (s.me.cur == .worker) 8 g = true → (page, 1) ∉ s.me.walked → s.homeLost (leafPa g (addr l)) = true →
          s.traps (.vld d b q) 0x0A low))) ∧
  (
    ∀ (s : State) (id u : Nat) (d : Fin 16) (i : Fin 8) (r : Req) (v line : List Byte) (p : Bool) (k : CopyKind) (wts : Nat) (val : Fin 8 → Option (List Byte)),
      s.findReq id = some r → r.stage = .replied v p k wts line → r.due ≤ s.tick → s.inTurn r = true → r.by' = .thread u → r.dst = .lane d i → (s.thread u).path = none → val i = none →
      (∃ fill ef, r.kind = .load fill ef) →
      (∀ q ∈ s.flight, q.id ≠ id → q.by' = .thread u → ∀ l, q.dst = .lane d l → ∃ b, q.stage = .arrived b false ∧ val l = some b) →
      (∀ q ∈ s.flight, q.id = id → q = r) → (∀ l b, val l = some b → ∃ q ∈ s.flight, q.id ≠ id ∧ q.by' = .thread u ∧ q.dst = .lane d l) →
      ∃ t, exec (.loadReply id) s = .next t ∧ s.sameMemory t ∧ (∀ w, w ≠ u → t.thread w = s.thread w) ∧
        (p = false → t.thread u = ({ s.thread u with ahead := (s.thread u).ahead.filter (fun e => match e.2 with | .lane q _ => q != d | _ => true) } : Thread).setV d
          (Vector.ofFn (fun l => if l = i then BitVec.ofNat 64 (leNat v) else match val l with | some b => BitVec.ofNat 64 (leNat b) | none => 0))) ∧
        (p = true → (s.thread u).st = .active → (t.thread u).v = (s.thread u).v ∧ (t.thread u).pend = insertPending ⟨0x13, r.va.truncate 64⟩ (s.thread u).pend))

/-- L1DROP and TLBINV (R156, R157): L1DROP empties the issuing core's L1, L1DROP.LINE takes one line from it, and fills of theirs on their way install
nothing; TLBINV, above worker mode, waits for the thread's earlier stores and for the walks of the partition within its reach; then it removes the
named entries within its reach, and waits on for every access, held write or context area whose translation a removed entry gave; with none it goes
on. A page walk (R127 to R130, R140 to R143): the oldest walk of a die that is over serves every miss to its page, partition and root; each waiting
thread learns whether the walk found an entry, the misses are gone, a found entry is in the threads' cores' TLBs, and the walk is counted, as failed
where it found none (of a root that is not present, the model's choice, log 37). A table entry (R127, R129, R130): the walk from a valid root in HBM
finds a leaf at the level the entry stands at, with its page and permission bits, and finds nothing through an entry that is not present or malformed. -/
def Obligations.MaintenanceAndWalks : Prop :=
  (
    (∀ (s : State) (a : Fin 16) (e : TlbEntry),
      let va := s.me.getA a
      let line := leafPa e va / 128
      let after (t : State) (gone : Nat → Bool) : Prop := t.me.pc = s.me.pc + 4 ∧ t.me.wait = none ∧ s.me.sameButPc t.me ∧ s.sameMemory t ∧ s.sameButMyCore { t with flight := s.flight, dies := s.dies } ∧ s.sameDiesBut t gone ∧
        t.core (coreOf s.cur) = { s.core (coreOf s.cur) with l1 := (s.core (coreOf s.cur)).l1.filter (fun c => !gone c.line) } ∧
        (∀ r ∈ t.flight, reqCore r = some (coreOf s.cur) → gone (r.pa / 128) = true → ∀ f, r.kind ≠ .load true f) ∧ t.flight.map (fun r => r.id) = s.flight.map (fun r => r.id)
      (∃ t, exec .l1drop s = .next t ∧ after t (fun _ => true)) ∧
      (tlbFind (s.core (coreOf s.cur)).tlb (s.partOf s.cur) (s.me.cur == .firmware) va = some e → ∃ t, exec (.l1dropLine a) s = .next t ∧ after t (fun n => n == line))) ∧
    ∀ (s : State) (a : Fin 16) (r : Reach), s.me.cur ≠ .worker → s.me.path = none →
      let va := (s.me.getA a).toNat
      let p := s.partOf s.cur
      let die (n : Nat) : Prop := (r = .module ∧ n < 4) ∨ n = (dieOf s.cur).val
      ∀ ig ∈ [(Instr.tlbinvPg a r, fun (e : TlbEntry) => va / 2 ^ pageBits e.level == e.vpn, fun (q : Nat × Nat) => va / 2 ^ pageBits q.1 == q.2), (.tlbinvAll r, fun _ => true, fun _ => true)],
        let stores : Prop := ∃ q ∈ s.flight, q.by' = .thread s.cur ∧ q.isStore = true ∧ q.performed = false
        let walks : Prop := ∃ d : Fin 4, die d.val ∧ ∃ m ∈ (s.die d).misses, m.part = p
        let used : Prop := (∃ q ∈ s.flight, q.part = p ∧ q.performed = false ∧ ig.2.2 q.tlb = true) ∨ (∃ u th k y h g, (u, th) ∈ s.threads ∧ s.partOf u = p ∧ (k, SSlot.stream y) ∈ th.ss ∧ h ∈ y.heldWrites ∧ g ∈ h.tlbs ∧ ig.2.2 g = true) ∨
          (∃ u th l n x g, (u, th) ∈ s.threads ∧ s.partOf u = p ∧ th.wait = some ⟨.pages l, n, x⟩ ∧ g ∈ l ∧ ig.2.2 g.tlb = true) ∨
          (∃ u th i j k v g n x, (u, th) ∈ s.threads ∧ s.partOf u = p ∧ th.wait = some ⟨.claim i j k v g, n, x⟩ ∧ ig.2.2 (g.level, g.vpn) = true) ∨
          ∃ k r w g, (k, r) ∈ s.regions ∧ r.part = p ∧ r.swap = some w ∧ g ∈ w.pages ∧ ig.2.2 g.tlb = true
        (stores → s.waits ig.1 .memory) ∧ (¬ stores → walks → s.waits ig.1 .walk) ∧
        (¬ stores → ¬ walks → ∃ t, exec ig.1 s = .next t ∧ s.me.sameButPc t.me ∧ s.sameMemory t ∧ s.sameButMe { t with cores := s.cores, dies := s.dies, rimTlb := s.rimTlb } ∧
            (used → t.me.pc = s.me.pc ∧ t.me.wait.map Wait.kind = some .memory) ∧ (¬ used → t.me.pc = s.me.pc + 4 ∧ t.me.wait = none) ∧
            (∀ d : Fin 4, die d.val → (t.die d).tlb = (s.die d).tlb.filter (fun e => !(e.part == p && ig.2.1 e)) ∧ (t.die d).tlbBig = (s.die d).tlbBig.filter (fun e => !(e.part == p && ig.2.1 e))) ∧
            (∀ c, die (c / 48) → (t.core c).tlb = (s.core c).tlb.filter (fun e => !(e.part == p && ig.2.1 e))) ∧
            (∀ x e, e ∈ tgetD t.rimTlb x [] → die (x / 96) → ¬ (e.part = p ∧ ig.2.1 e = true)) ∧
            (∀ d : Fin 4, ¬ die d.val → t.die d = s.die d) ∧ ∀ c, ¬ die (c / 48) → t.core c = s.core c)) ∧
  (
    ∀ (s : State) (d : Fin 4) (m : Miss), (s.die d).misses.find? (s.walkReady d) = some m →
      let res := s.walk m.part m.fw m.va
      let onPage (n : Miss) : Bool := match res with
        | some e => tlbHit m.part m.fw n.va e
        | none => false
      let same (n : Miss) : Bool := n.part == m.part && n.fw == m.fw && (n.va.toNat / 2 ^ 14 == m.va.toNat / 2 ^ 14 || onPage n)
      let served := (s.die d).misses.filter same
      ∃ t, exec (.pageWalk d) s = .next t ∧ s.sameMemory t ∧
        (t.die d).misses.map (fun n => { n with due := none }) = ((s.die d).misses.filter (fun n => !same n)).map (fun n => { n with due := none }) ∧
        (∀ n ∈ served, ∀ u, n.who = .thread u → (walkKey n.va n.kind n.fw, if res.isSome then 0 else 1) ∈ (t.thread u).walked ∧ (t.thread u).pc = (s.thread u).pc ∧ ∀ r, (t.thread u).getX r = (s.thread u).getX r) ∧
        (∀ u, (∀ n ∈ served, n.who ≠ .thread u) → t.thread u = s.thread u) ∧
        (∀ e, res = some e → ∀ n ∈ served, ∀ u, n.who = .thread u → e ∈ (t.core (coreOf u)).tlb) ∧
        (t.part m.part).page = ((if res.isSome then fun (p : Part) => p.bump 0x160 127 64 1 else fun p => (p.bump 0x160 127 64 1).bump 0x160 63 32 1) (s.part m.part)).page) ∧
  (
    ∀ (s : State) (p : Fin 8) (fw : Bool) (bounds : List (Nat × Nat)) (va n level table : Nat),
      let at' := table + 8 * (va / 2 ^ (69 - 11 * level) % 2 ^ 11)
      let e := memRead s.mem at' 8
      (e % 2 = 0 ∨ s.malformed bounds level e = true → s.walkTable p fw bounds va (n + 1) level table = none) ∧
      (e % 2 = 1 → s.malformed bounds level e = false → e / 2 % 2 = 0 → s.walkTable p fw bounds va (n + 1) level table = s.walkTable p fw bounds va n (level + 1) (e / 2 ^ 14 % 2 ^ 43 * 2 ^ 14)) ∧
      (e % 2 = 1 → s.malformed bounds level e = false → e / 2 % 2 = 1 → ∃ l, s.walkTable p fw bounds va (n + 1) level table = some l ∧ l.part = p ∧ l.fw = fw ∧ l.level = level ∧
        l.vpn = va / 2 ^ pageBits level ∧ l.pa = e / 2 ^ 14 % 2 ^ 43 * 2 ^ 14 ∧ l.mt = e / 2 ^ 8 % 8 ∧ (l.d = true ↔ e / 2 ^ 6 % 2 = 1) ∧ (l.s = true ↔ e / 2 ^ 5 % 2 = 1) ∧
        (l.x = true ↔ e / 2 ^ 4 % 2 = 1) ∧ (l.w = true ↔ e / 2 ^ 3 % 2 = 1) ∧ (l.r = true ↔ e / 2 ^ 2 % 2 = 1)))

/-- A write whose line the directory tracks (R325, R326): it is not performed, and no memory changes, until every marked die and the host have answered;
an invalidation removes the line's copies from the die's L1s and calls for the die's answer; the last answer frees the entry and performs the write.
An acknowledged store's own core keeps its copy current (R320): its logical time rises to the write time where leases keep the line, and its copies of
the line take the bytes, a leased one with its lease end at the write time, or they go if another write came between, which is the model's choice (log
38); the request is gone. A cxl-far write (R327) waits, unperformed, until global time at its home has passed the greatest lease end and the guard
band; then it is performed. A write of host memory (R318, R326) is performed once the host has acknowledged it; which lines are host memory is fixed
beyond the port (log 36). -/
def Obligations.WritesWaitForCopies : Prop :=
  (
    (∀ (s : State) (id v : Nat) (r : Req) (e : DirEntry), s.findReq id = some r → r.kind = .store v → s.mayPerform r = true →
      dirFind (s.die (homeDie r.pa)).dir (lineOf r.pa) = some e → e.dies ≠ [] ∨ e.host = true →
      ∃ t, exec (.storeAtHome id) s = .next t ∧ s.sameMemory t ∧ t.threads = s.threads ∧ t.findReq id = some { r with stage := .inval e.dies e.host } ∧
        (∀ d ∈ e.dies, ∃ at', s.tick < at' ∧ (at', Event.l1Invalidation ⟨d % 4, Nat.mod_lt _ (by decide)⟩ (lineOf r.pa)) ∈ t.later) ∧
        (e.host = true → ∃ at', s.tick < at' ∧ (at', Event.backInvalidateResponse id) ∈ t.later)) ∧
    (∀ (s : State) (d : Fin 4) (line : Nat), ∃ t, exec (.l1Invalidation d line) s = .next t ∧ s.sameMemory t ∧ t.threads = s.threads ∧
      (∀ c, c / 48 = d.val → ∀ l ∈ (t.core c).l1i ++ (t.core c).l1, l.line = line → ∃ n, l.kind = .tag n) ∧ (∀ c, c / 48 ≠ d.val → t.core c = s.core c) ∧
      (∀ r ∈ s.flight, ∀ ds h, r.stage = .inval ds h → lineOf r.pa = line → d.val ∈ ds → ∃ at', s.tick < at' ∧ (at', Event.invalidationAck r.id d) ∈ t.later)) ∧
    ∀ (s : State) (id v : Nat) (r : Req) (ds : List Nat) (h : Bool) (d : Fin 4), s.mem.wf = true → s.findReq id = some r → r.kind = .store v → r.stage = .inval ds h → (r.mt ≠ 2 ∨ (s.home (lineOf r.pa)).gmax = 0) → hostLine (lineOf r.pa) = false →
      ∀ eds ∈ [(Instr.invalidationAck id d, ds.filter (fun n => n != d.val), h), (.backInvalidateResponse id, ds, false)],
        ∃ t r', exec eds.1 s = .next t ∧ t.findReq id = some r' ∧ t.threads = s.threads ∧
          (eds.2.1 ≠ [] ∨ eds.2.2 = true → r'.stage = .inval eds.2.1 eds.2.2 ∧ s.sameMemory t) ∧
          (eds.2.1 = [] → eds.2.2 = false → (∃ wts, r'.stage = .acked wts) ∧ dirFind (t.die (homeDie r.pa)).dir (lineOf r.pa) = none ∧
            (∀ k, k < r.size → memByte t.mem (r.pa + k) = BitVec.ofNat 8 (v / 256 ^ k)) ∧ s.sameMemoryBut t r.pa r.size)) ∧
  (
    ∀ (s : State) (id u v wts : Nat) (r : Req), s.findReq id = some r → r.kind = .store v → r.stage = .acked wts → r.due ≤ s.tick → s.inTurn r = true → r.by' = .thread u →
      let put (e : L1Line) : L1Line := { e with data := e.data.take (r.pa % 128) ++ leBytes v r.size ++ e.data.drop (r.pa % 128 + r.size), dlt := (s.die (dieOf u)).dlt }
      let new (e : L1Line) : Option L1Line := if e.line ≠ r.pa / 128 then some e else match e.kind with
        | .lease _ => if e.ver = r.prev then some { put e with kind := .lease wts, ver := wts } else none
        | _ => some (put e)
      ∃ t, exec (.storeAcknowledgement id) s = .next t ∧ s.sameMemory t ∧ t.threads = s.threads ∧ t.findReq id = none ∧
        (t.core (u / 8)).lt = (if r.mt < 2 ∧ dieOf u = homeDie r.pa then max (s.core (u / 8)).lt wts else (s.core (u / 8)).lt) ∧
        (∀ c, c ≠ u / 8 → t.core c = s.core c) ∧ (t.core (u / 8)).l1 = (s.core (u / 8)).l1.filterMap new ∧ (t.core (u / 8)).l1i = (s.core (u / 8)).l1i.filterMap new) ∧
  (
    (∀ (s : State) (id v : Nat) (r : Req), s.findReq id = some r → r.kind = .store v → s.mayPerform r = true → r.mt = 2 →
      let h := s.home (lineOf r.pa)
      dirFind (s.die (homeDie r.pa)).dir (lineOf r.pa) = none → 0 < h.gmax → s.gtime (homeDie r.pa) ≤ h.gmax + s.guardBand →
      ∃ t, exec (.storeAtHome id) s = .next t ∧ s.sameMemory t ∧ t.threads = s.threads ∧ t.findReq id = some { r with stage := .lease (h.gmax + s.guardBand) }) ∧
    (∀ (s : State) (id v : Nat) (r : Req), s.mem.wf = true → s.findReq id = some r → r.kind = .store v → hostLine (lineOf r.pa) = true → r.by' ≠ .other →
      (s.mayPerform r = true → dirFind (s.die (homeDie r.pa)).dir (lineOf r.pa) = none → (s.home (lineOf r.pa)).gmax = 0 →
        ∃ t, exec (.storeAtHome id) s = .next t ∧ s.sameMemory t ∧ t.threads = s.threads ∧ t.findReq id = some { r with stage := .host } ∧
          ∃ at', s.tick < at' ∧ (at', Event.backInvalidateResponse id) ∈ t.later) ∧
      (r.stage = .host → ∃ t r' wts, exec (.backInvalidateResponse id) s = .next t ∧ t.findReq id = some r' ∧ r'.stage = .acked wts ∧ t.threads = s.threads ∧
        (∀ k, k < r.size → memByte t.mem (r.pa + k) = BitVec.ofNat 8 (v / 256 ^ k)) ∧ s.sameMemoryBut t r.pa r.size)) ∧
    ∀ (s : State) (id v u : Nat) (r : Req), s.mem.wf = true → s.findReq id = some r → r.kind = .store v → r.stage = .lease u → hostLine (lineOf r.pa) = false →
      (s.gtime (homeDie r.pa) ≤ u → exec (.cxlLeaseWaitEnd id) s = .next s) ∧
      (u < s.gtime (homeDie r.pa) → ∃ t r' wts, exec (.cxlLeaseWaitEnd id) s = .next t ∧ t.findReq id = some r' ∧ r'.stage = .acked wts ∧ t.threads = s.threads ∧
        (∀ k, k < r.size → memByte t.mem (r.pa + k) = BitVec.ofNat 8 (v / 256 ^ k)) ∧ s.sameMemoryBut t r.pa r.size))

/-- Leases at a home (R320, R322): a fill to a core of the home's die is granted a lease that ends LLEASE past the later of the line's write time and the
core's logical time, and the home covers it; a store's write time is past every lease granted. Reads of a round domain (R332, R333): a copy tagged at
least the minimum round serves the load, LOCAL advancing; else the request goes to the home at once, REFETCH advancing, and the load waits in issue
exactly when the die's view is below the minimum. While a fill of the thread's for the line is on its way, it waits for that (R91). A domain read at
its home (R333, R334, R340): with the round reached it takes the line's bytes, tagged with the greater of the home's view and its own; below, it
stays, STALL advancing once; when the wait exceeds sr.rwait, at once for 0, the instruction traps with STALE_WAIT at its own address, or with
HOME_LOST when the round's die is lost, and the request is gone. Time (R321, R327, R361): a tick of a core's logical time adds one; discipline notes a
die's drift to be slewed away and sets SYNC, the record of drift rising to what was measured and clearing when SYNC rises; a nanosecond of a die's
count advances it by one, or while it is slewed by two or by none, never back (at which nanoseconds is open, log 24); drift beyond the guard band
clears SYNC, invalidates every cxl-far copy in the die's L1s, records the worst drift, and makes TIME_SYNC_LOST pending on the die's ACTIVE threads. -/
def Obligations.LeasesRoundReadsAndTime : Prop :=
  (
    (∀ (s : State) (id u : Nat) (r : Req) (ef : Bool), s.findReq id = some r → r.kind = .load true ef → r.by' = .thread u → s.mayPerform r = true → r.mt < 2 → dieOf u = homeDie r.pa →
      s.writePending (lineOf r.pa) = false → s.isPoisoned r.pa = false →
      let h := s.home (lineOf r.pa)
      let e := max h.wts (s.core (u / 8)).lt + s.llease r.part
      ∃ t r' v line, exec (.loadAtHome id) s = .next t ∧ t.findReq id = some r' ∧ r'.stage = .replied v false (.lease e) h.wts line ∧ s.sameMemory t ∧
        t.home (lineOf r.pa) = { h with rts := max h.rts e } ∧ ∀ l, l ≠ lineOf r.pa → t.home l = s.home l) ∧
    ∀ (s : State) (id v : Nat) (r : Req), s.findReq id = some r → r.kind = .store v → s.mayPerform r = true → s.writable r →
      let h := s.home (lineOf r.pa)
      let w := max (s.writerLt r) (h.rts + 1)
      ∃ t, exec (.storeAtHome id) s = .next t ∧ t.home (lineOf r.pa) = { h with wts := w, rts := w } ∧ (∀ l, l ≠ lineOf r.pa → t.home l = s.home l) ∧
        (t.die (homeDie r.pa)).dlt = max (s.die (homeDie r.pa)).dlt w ∧ t.threads = s.threads ∧ s.sameMemoryBut t r.pa r.size) ∧
  (
    ∀ (s : State) (d : Fin 32) (a b : Fin 16) (z : Sz) (mo : Mo) (o : BitVec 12) (u : BitVec 10) (pa dom : Nat) (e : TlbEntry), s.awaitsReply = false → s.me.aheadCount < 64 → e.mt < 3 →
      ∀ ivm ∈ [(Instr.ld d a z mo o, (BitVec.ofInt 80 ((s.me.getA a).toNat + z.bytes * o.toInt) : Addr), (none : Option Nat)),
          (.ldb d a z b u, BitVec.ofInt 80 ((s.me.getA a).toNat + z.bytes * u.toInt), some b.val)],
        let p := s.partOf s.cur
        let view := (s.part p).view dom (dieOf s.cur)
        let m := match s.me.slotFor dom, ivm.2.2 with
          | some k, some b => max (k.clk - b) k.floor
          | _, _ => view
        let copy := l1Find (s.core (coreOf s.cur)).l1 (pa / 128)
        s.reaches ivm.2.1 .load z.bytes pa e → (s.part p).domainOf ivm.2.1 = some dom →
        (s.fillAwaited s.cur pa = true → s.waits ivm.1 .memory) ∧
        (∀ c g, copy = some c → c.kind = .tag g → m ≤ g → s.fillAwaited s.cur pa = false → s.overlap s.cur pa z.bytes = false → s.owesAcq s.cur s.me.acqBar = false →
          let n := leNat (copyBytes c pa z.bytes)
          ∃ t, exec ivm.1 s = .next t ∧ s.sameMemory t ∧ t.me.pc = s.me.pc + 4 ∧ t.me.wait = none ∧ t.parts = (s.bump p 0x1B0 127 96 1).parts ∧
            s.sameButMyCore { t with parts := s.parts } ∧ (t.core (coreOf s.cur)).unmarked = (s.core (coreOf s.cur)).unmarked ∧
            (∀ r, t.me.getX r = if z ≠ .a ∧ r = d ∧ r ≠ 0 then z.extend n else s.me.getX r) ∧ (∀ r, t.me.getA r = if z = .a ∧ r = lowReg d then BitVec.ofNat 80 n else s.me.getA r)) ∧
        ((∀ c g, copy = some c → c.kind = .tag g → g < m) → s.fillAwaited s.cur pa = false → ∃ t r, exec ivm.1 s = .next t ∧ s.sent { t with parts := s.parts } r ∧ s.sameMemory t ∧ t.parts = (s.bump p 0x1B0 95 64 1).parts ∧
          (∃ fill ef, r.kind = .domain p dom m view (s.gtimeOf s.cur) fill ef) ∧ r.by' = .thread s.cur ∧ r.va = ivm.2.1 ∧ r.pa = pa ∧ r.size = z.bytes ∧ r.dst = loadDst d z ∧
          (∀ q, t.me.getX q = s.me.getX q) ∧
          (view < m → t.me.pc = s.me.pc ∧ ∃ n l, t.me.wait = some ⟨.sync r.id, n, l⟩) ∧ (m ≤ view → t.me.pc = s.me.pc + 4 ∧ t.me.wait = none ∧ t.me.ahead = s.me.ahead ++ [(r.id, r.dst)]))) ∧
  (
    ∀ (s : State) (id dom m w issued u : Nat) (p : Fin 8) (fill ef : Bool) (r : Req), s.findReq id = some r → r.kind = .domain p dom m w issued fill ef → r.by' = .thread u →
      let t := max ((s.part p).view dom (homeDie r.pa)) w
      let lim := (s.thread u).rwait.toNat
      let trapped (i : Instr) (code : Nat) : Prop := ∃ t, exec i s = .next t ∧ s.sameMemory t ∧ t.findReq id = none ∧ (∀ v, v ≠ u → t.thread v = s.thread v) ∧
        t.thread u = ({ s.thread u with ahead := (s.thread u).ahead.filter (fun e => e.1 != id) } : Thread).takeTrap (s.part (s.partOf u)) code false (r.va.truncate 64) (s.thread u).pc
      (s.mayPerform r = true → m ≤ t → ∃ s' r' wts line, exec (.domainReadAtHome id) s = .next s' ∧ s.sameMemory s' ∧ s.sameThreadsBut s' (some u) ∧ s'.findReq id = some r' ∧
        r'.stage = .replied (memBytes s.mem r.pa r.size) (s.isPoisoned r.pa) (.tag t) wts line) ∧
      (s.mayPerform r = true → t < m → (s.die ⟨dom % 4, Nat.mod_lt _ (by decide)⟩).lost = true → trapped (.domainReadAtHome id) 0x0A) ∧
      (s.mayPerform r = true → t < m → (s.die ⟨dom % 4, Nat.mod_lt _ (by decide)⟩).lost = false →
        (r.stalled = true → exec (.domainReadAtHome id) s = .next s) ∧
        (r.stalled = false → lim ≠ 0 → exec (.domainReadAtHome id) s = .next ((s.setReq { r with stalled := true }).bump p 0x1B0 63 32 1)) ∧
        (r.stalled = false → lim = 0 → trapped (.domainReadAtHome id) 0x09)) ∧
      (r.stage = .sent → r.stalled = true → (lim = 0 ∨ issued + lim < s.gtimeOf u → trapped (.staleWait id) 0x09) ∧ (lim ≠ 0 → s.gtimeOf u ≤ issued + lim → exec (.staleWait id) s = .next s))) ∧
  (
    (∀ (s : State) (c : Nat), ∃ t, exec (.ltTick c) s = .next t ∧ t = s.onCore c (fun k => { k with lt := k.lt + 1 }) ∧ s.sameMemory t ∧ t.threads = s.threads) ∧
    (∀ (s : State) (d : Fin 4) (n : Int) (on : Bool), ∃ t, exec (.timeDiscipline d n on) s = .next t ∧ t.die d = { s.die d with slew := n } ∧ (∀ k, k ≠ d → t.die k = s.die k) ∧ t.sync = on ∧
      t.drift.toNat = (if on ∧ s.sync = false then 0 else max s.drift.toNat (min n.natAbs (2 ^ 32 - 1))) ∧ s.sameMemory t ∧ t.threads = s.threads) ∧
    (∀ (s : State) (d : Fin 4), ∃ n, ((s.dieNs d).die d).gtime = ((s.die d).gtime + n) % 2 ^ 64 ∧ (∀ k, k ≠ d → (s.dieNs d).die k = s.die k) ∧
      ((n = 1 ∧ ((s.dieNs d).die d).slew = (s.die d).slew) ∨ (n = 2 ∧ 0 < (s.die d).slew ∧ ((s.dieNs d).die d).slew = (s.die d).slew - 1) ∨
        (n = 0 ∧ (s.die d).slew < 0 ∧ ((s.dieNs d).die d).slew = (s.die d).slew + 1))) ∧
    ∀ (s : State) (d : Fin 4) (n : Nat), ∃ t, exec (.driftBeyondGuard d n) s = .next t ∧ t.sync = false ∧ t.drift.toNat = max s.drift.toNat (min n (2 ^ 32 - 1)) ∧ s.sameMemory t ∧
      (∀ c, c / 48 = d.val → ∀ l ∈ (t.core c).l1i ++ (t.core c).l1, ∀ k, prange (l.line * 128) ≠ .cxl k) ∧ (∀ c, c / 48 ≠ d.val → t.core c = s.core c) ∧
      (∀ u, (dieOf u ≠ d ∨ (s.thread u).st ≠ .active) → t.thread u = s.thread u) ∧
      (sortedKeys s.threads = true → ∀ u th, tget s.threads u = some th → th.st = .active → dieOf u = d → (t.thread u).pend = insertPending ⟨0x16, BitVec.ofNat 64 (min n (2 ^ 64 - 1))⟩ th.pend ∧ (t.thread u).pc = th.pc))

/-- The host (R326, R327): a host read that may cache the line marks the host in the line's entry, or makes one for it in the lowest way with room (R324),
and changes no memory; a host write of an untracked line on a living die stores its bytes at the home, after the host's earlier ones; a snoop is
answered, the home dropping its own copy, once every lease has expired on every die, the guard band past its end, and put off until then. -/
def Obligations.HostAccessesMeetTheHome : Prop :=
  (∀ (s : State) (pa n v : Nat) (cache : Bool), s.mem.wf = true → (prange pa = .hbm ∨ prange pa = .capacity) → pa % 128 + n ≤ 128 →
    (∃ t, exec (.hostRead pa n cache) s = .next t ∧ s.sameMemory t ∧ t.threads = s.threads ∧
      ((cache = false ∨ s.writePending (lineOf pa) = true) → (t.die (homeDie pa)).dir = (s.die (homeDie pa)).dir) ∧
      (cache = true → s.writePending (lineOf pa) = false → ∀ e, dirFind (s.die (homeDie pa)).dir (lineOf pa) = some e → dirFind (t.die (homeDie pa)).dir (lineOf pa) = some { e with host := true }) ∧
      (∀ w, cache = true → s.writePending (lineOf pa) = false → dirFind (s.die (homeDie pa)).dir (lineOf pa) = none →
        let free (k : Nat) : Prop := ∀ e ∈ (s.die (homeDie pa)).dir, ¬ (e.way = k ∧ dirHash k e.line = dirHash k (lineOf pa))
        w < 4 → free w → (∀ k, k < w → ¬ free k) → dirFind (t.die (homeDie pa)).dir (lineOf pa) = some ⟨w, lineOf pa, [], true⟩)) ∧
    (dirFind (s.die (homeDie pa)).dir (lineOf pa) = none → s.homeLost pa = false → (∀ q ∈ s.flight, q.by' ≠ .other) → ∃ t, exec (.hostWrite pa n v) s = .next t ∧ t.threads = s.threads ∧
      (∀ k, k < n → memByte t.mem (pa + k) = BitVec.ofNat 8 (v / 256 ^ k)) ∧ s.sameMemoryBut t pa n)) ∧
  ∀ (s : State) (line : Nat),
    let h := s.home line
    let d := homeDie (line * 128)
    (0 < h.gmax → s.gtime d ≤ h.gmax + s.guardBand → exec (.hostSnoop line) s = .next (s.postAt 1 (.hostSnoop line))) ∧
    (∀ tile, (h.gmax = 0 ∨ h.gmax + s.guardBand < s.gtime d) → homeTile (line * 128) = some tile → ∃ t, exec (.hostSnoop line) s = .next t ∧ s.sameMemory t ∧ t.threads = s.threads ∧
      ∀ e ∈ tgetD t.l2 tile [], e.line ≠ line)

/-- A step runs the decoded instruction: when the word at the program counter of the thread whose turn it is decodes to an instruction that no register of
its own and no full run-ahead holds, and that does not run off the top of the space, the step is that instruction's meaning in the state that the
fetch leaves; on an open likely path it is so for what may issue there, the path counting it once it has left issue. How turns go round, and that a
fetch fills the instruction cache at once, is the model's choice (log 6, 12). -/
def Obligations.StepRunsTheDecodedInstruction : Prop :=
  ∀ (s v : State) (u w : Nat) (i : Instr), s.power.removed = none → s.boot.off = false → s.turn = .thread u → (s.turnOf u).fetches w v → decodeA w = .ok i →
    v.me = (s.turnOf u).me ∧ v.cur = u ∧ s.sameMemory v ∧
    (v.me.hazard i = false → (Instr.slow i = false ∨ v.me.aheadCount < 64) → (v.me.pc ≠ 0xFFFFFFFFFFFFFFFC ∨ Instr.isTransfer i = true) →
      (v.me.path = none → step s = exec i v) ∧
      (∀ p, v.me.path = some p → Instr.onPath i = true → p.issued < 64 → ∀ t, exec i v = .next t → step s = .next (t.countPath i)))

/-- Element instructions run in their own turn: the step is the meaning of the instruction that stands there. Nobody's turn: the step is the meaning of
the first event's row; with no event, time goes on by one tick. That agents act one event at a time, in ticks of a common clock, is the model's choice
(log 6, 7). After module power has been removed (R431), and in a module that stays off for want of firmware (R422), only a module start that has been
asked for happens. -/
def Obligations.StepRunsElementsAndEvents : Prop :=
  (
  ∀ (s : State) (e : ElemRef) (i : Instr), s.power.removed = none → s.boot.off = false → s.turn = .elem e → s.elemInstr e = some i → step s = exec i { s with turn := .idle, elem := e }) ∧
  (
    (∀ (s : State), s.power.removed = none → s.boot.off = false → s.turn = .idle →
      (∀ (e : Event) (i : Instr) (rest : List Event), e.names i → s.agenda = e :: rest → step s = exec i { s with agenda := rest }) ∧
      (s.agenda = [] → ∃ t, step s = .next t ∧ t.tick = s.tick + 1 ∧ s.sameMemory t)) ∧
    ∀ (s : State), s.power.removed.isSome ∨ s.boot.off = true →
      let asked := s.agenda ++ s.later.map (fun e => e.2)
      (∀ pre o post, asked = pre ++ .moduleStart o :: post → (∀ e ∈ pre, ∀ b, e ≠ .moduleStart b) → step s = exec (.moduleStart o) s) ∧
      ((∀ e ∈ asked, ∀ b, e ≠ .moduleStart b) → step s = .fault .powerRemoved))

/-- Reserved encodings (R58): a fetched word that no instruction has traps with ILLEGAL_INSTRUCTION at its own address, sr.tval the word, whatever the
mode. What holds an instruction in issue (R82, R88, R97, R107): a register of it that an earlier instruction owes; no free run-ahead entry; on an open
likely path an instruction that may not issue there, or the 65th; and the last word of the space, where all but a transfer, as the model reads R82
(log 27), traps with MISALIGNED and sr.tval 0. Nothing else happens. A fetch that fails (R82, R144) traps precisely with the fetched address in
sr.tval: no entry after a walk, no permission in a fresh one, a lost home. -/
def Obligations.FetchAndIssueTrapOrWait : Prop :=
  (
    ∀ (s v : State) (u w : Nat) (r : DecodeReason), s.power.removed = none → s.boot.off = false → s.turn = .thread u → (s.turnOf u).fetches w v → decodeA w = .error r →
      v.me.path = none → step s = .next (v.enterTrap u 0x01 false (BitVec.ofNat 64 w) v.me.pc)) ∧
  (
    ∀ (s v : State) (u w : Nat) (i : Instr), s.power.removed = none → s.boot.off = false → s.turn = .thread u → (s.turnOf u).fetches w v → decodeA w = .ok i →
      let held := v.me.hazard i
      let full : Prop := Instr.slow i = true ∧ 64 ≤ v.me.aheadCount
      (held = true → step s = .next (v.waitFor .register)) ∧ (held = false → full → step s = .next (v.waitFor .slot)) ∧
      (held = false → ¬ full → v.me.pc = 0xFFFFFFFFFFFFFFFC → Instr.isTransfer i = false → v.me.path = none → step s = .next (v.enterTrap u 0x03 false 0 v.me.pc)) ∧
      (∀ p, held = false → ¬ full → v.me.pc ≠ 0xFFFFFFFFFFFFFFFC → v.me.path = some p → Instr.onPath i = false ∨ 64 ≤ p.issued → step s = .next (v.waitFor .likely))) ∧
  (
    ∀ (s : State) (u : Nat), s.power.removed = none → s.boot.off = false → s.turn = .thread u → (s.turnOf u).me.path = none →
      let v := s.turnOf u
      let found := tlbFind (v.core (coreOf u)).tlb (v.partOf u) (v.me.cur == .firmware) v.me.pc
      let page := walkKey v.me.pc .fetch (v.me.cur == .firmware)
      let trap (code : Nat) : Prop := step s = .next (v.enterTrap u code false (v.me.pc.truncate 64) v.me.pc)
      (found = none → (v.die (dieOf u)).tlbFind (v.partOf u) (v.me.cur == .firmware) v.me.pc = none → (page, 1) ∈ v.me.walked → trap 0x04) ∧
      (∀ e, found = some e → permOk .fetch (v.me.cur == .worker) 4 e = false → (page, 0) ∈ v.me.walked → (page, 1) ∉ v.me.walked → trap 0x05) ∧
      (∀ e, found = some e → permOk .fetch (v.me.cur == .worker) 4 e = true → (page, 1) ∉ v.me.walked → v.homeLost (leafPa e v.me.pc) = true → trap 0x0A))

/-- SELECT_THREAD tries what exec runs: for every decodable word the two agree. SelectThread (R89, R105): of the ready threads of a core one is chosen,
and only one of them; a thread passed over 64 times goes before every other, else the greatest PRIO; among equals the first after the one selected
last, in cyclic order; a thread that has just yielded only if no other is ready. -/
def Obligations.SelectionFollowsItsRule : Prop :=
  (
  ∀ (s : State) (w : Nat) (i : Instr), decodeA w = .ok i → issueForm i s = exec i s) ∧
  (
    ∀ (c : Core) (s : State) (core : Nat) (ready : List Nat), (∀ t ∈ ready, t / 8 = core) →
      let others := ready.filter (fun t => c.yielded != some (t % 8))
      let cand := if others = [] then ready else others
      let aged (t : Nat) : Prop := 64 ≤ (s.thread t).passed
      let turn (t : Nat) : Nat := (t % 8 + 7 - c.last % 8) % 8
      (ready = [] → c.choose s ready = none) ∧ (ready ≠ [] → ∃ t, c.choose s ready = some t) ∧
      ∀ t, c.choose s ready = some t → t ∈ cand ∧ ((∃ u ∈ cand, aged u) → aged t) ∧
        ((∀ u ∈ cand, ¬ aged u) → ∀ u ∈ cand, (s.thread u).prio.toNat ≤ (s.thread t).prio.toNat) ∧
        ∀ u ∈ cand, u ≠ t → ((aged t ∧ aged u) ∨ ((∀ v ∈ cand, ¬ aged v) ∧ (s.thread u).prio = (s.thread t).prio)) → turn t < turn u)

/-- SELECT_THREAD (R88, R89): it always answers a state, changes no memory, and gives the turn, if to any thread, to one of its core, whose number the
core remembers. TAKE_TRAP (R85 to R87, R99, R104): the first of the pending causes of an ACTIVE thread with HOLD 0 is taken, one per entry, before its
next issue; sr.epc holds the next address, the one after a WFE that waits, or that of the BQB whose open path it abandons; with HOLD 1, in another
state or with nothing pending, nothing happens, nor while the thread's instruction can no longer be undone, whose cases the model reads so (log 27).
Pending causes stand lowest code first (R87), and a cause for a thread that is not OFF joins them, setting EV while HOLD is 1. -/
def Obligations.TurnsAndAsynchronousTraps : Prop :=
  (
    ∀ (s : State) (core : Nat), s.turn = .idle → ∃ t, exec (.selectThread core) s = .next t ∧ s.sameMemory t ∧
      (t.turn = .idle ∨ ∃ u, t.turn = .thread u ∧ u / 8 = core ∧ (t.core core).last = u % 8 ∧ (t.thread u).passed = 0) ∧ (∀ u, u / 8 ≠ core → t.thread u = s.thread u) ∧ (t.core core).yielded = none) ∧
  (
    ∀ (s : State) (u : Nat) (p : Pending) (rest : List Pending),
      let th := s.thread u
      let resume : Addr := match th.path, th.wait with
        | some q, _ => q.pc
        | none, some ⟨.wfe _, _, _⟩ => th.pc + 4
        | none, _ => th.pc
      (th.pend = p :: rest → th.st = .active → th.hold = false → s.committed u = false → ∃ t, exec (.takeTrap u) s = .next t ∧ s.sameMemory t ∧ (∀ v, v ≠ u → t.thread v = s.thread v) ∧
        let th' := t.thread u
        th'.pend = rest ∧ th'.epc = resume.truncate 64 ∧ th'.asy = true ∧ th'.code = BitVec.ofNat 8 p.code ∧ th'.tval = p.tval ∧ th'.phold = false ∧ th'.hold = true ∧ th'.prev = Mode.bits th.cur ∧
        th'.cur = (if th.cur = .worker then .supervisor else .firmware) ∧ th'.path = none ∧ th'.wait = none ∧
        th'.pc = BitVec.ofNat 80 ((s.part (s.partOf u)).reg (if th.cur = .worker then 0x120 else 0x130) % 2 ^ 64 / 4 * 4) ∧
        (∀ q, th.path = some q → th'.x = q.x ∧ th'.a = q.a ∧ th'.v = q.v ∧ th'.m = q.m ∧ th'.gen = th.gen + 1) ∧ (th.path = none → th'.x = th.x ∧ th'.a = th.a ∧ th'.v = th.v ∧ th'.m = th.m ∧ th'.gen = th.gen)) ∧
      (th.pend = [] ∨ th.st ≠ .active ∨ th.hold = true ∨ s.committed u = true → exec (.takeTrap u) s = .next s)) ∧
  (
    ∀ (l : List Pending) (p : Pending), l.Pairwise (fun a b => a.code ≤ b.code) → (insertPending p l).Pairwise (fun a b => a.code ≤ b.code) ∧ p ∈ insertPending p l ∧
      ∀ q ∈ l, (p.code ≠ 0x0B ∧ p.code ≠ 0x14) ∨ q.code ≠ p.code → q ∈ insertPending p l)

/-- Pushes (R166 to R169): QPUSH writes one lane at the fill position, QPUSHV eight at position 0 or 8, each cut to the queue's width, and a token closes
at lane 15 or with C; QPUSHS closes a partial token and pushes the stop; what closes carries sr.gen, the context, the token count and no flag, and
waits to be delivered until every earlier access has been performed; a token in an empty queue sets EV (R104); without room for every token it closes,
the push waits and changes nothing. Pops (R172, R173, R65): QPOP reads a lane of the head token, 0 from an invalid lane or a stop token, QPOP.SB its
sideband; without RM the token stays; with RM it goes and its receipt is an acquire; an empty queue, and one of a frozen region (R368), makes them
wait. QSTAT (R176): the state word of a queue and of bq, field by field, 0 when unbound; a counter, cleared with CLR, reason 1 when unbound. Misuse of
a queue (R163): QUEUE_PROTOCOL with the queue and the reason, precisely and before any wait. That RQBIND of a chained queue gives reason 3, and the
order of its reasons, is the model's choice (log 39). -/
def Obligations.QueueTokensAndCounters : Prop :=
  (
    ∀ (s : State) (r q : Fin 32) (v : Fin 16) (m : Fin 8) (c : Bool) (l : Level) (x : Queue), tget s.me.qs q.val = some x → x.out = false → x.remote = none →
      let zeros : Vector Word 16 := Vector.replicate 16 0
      let cut (w : Word) : Word := BitVec.ofNat 64 (w.toNat % 2 ^ etypeWidth x.etype)
      let closed (round : BitVec 15) (valid : BitVec 16) (lanes : Vector Word 16) : Token × Nat × Bool := (⟨0, round, x.ctx, s.me.gen, x.etype, 0, valid, lanes⟩, s.nextId, s.me.path.isSome)
      let stop (round : BitVec 15) : Token × Nat × Bool :=
        (⟨0, round, x.ctx, s.me.gen, x.etype, (match l with | .s1 => 1 | .s2 => 2 | .s3 => 3 | .s4 => 4 | .s5 => 5 | .s6 => 6 | .marker => 7), 0, zeros⟩, s.nextId, s.me.path.isSome)
      let part := closed x.count x.asmValid x.asmLanes
      let empty (y : Queue) : Queue := { y with asmLanes := zeros, asmValid := 0, fill := 0 }
      -- QPUSH
      (∀ (lanes : Vector Word 16) (valid : BitVec 16), x.fill < 16 →
        (∀ i : Fin 16, lanes.get i = if i.val = x.fill then cut (s.me.getX r) else x.asmLanes.get i) → (∀ i : Fin 16, valid.getLsbD i.val = (decide (i.val = x.fill) || x.asmValid.getLsbD i.val)) →
        (x.fill ≠ 15 ∧ c = false → s.setsQueue (.qpush r q c) q { x with asmLanes := lanes, asmValid := valid, fill := x.fill + 1 }) ∧
        (x.fill = 15 ∨ c = true → x.toks.length + 1 ≤ x.cap → s.setsQueue (.qpush r q c) q { empty x with toks := x.toks ++ [closed x.count valid lanes], count := x.count + 1 }) ∧
        (x.fill = 15 ∨ c = true → x.cap < x.toks.length + 1 → s.waits (.qpush r q c) (.qFull q))) ∧
      -- QPUSHV
      (∀ (lanes : Vector Word 16) (valid : BitVec 16),
        let half : Prop := x.fill = 0 ∨ x.fill = 8
        let base := if x.fill = 8 then 8 else 0
        let on (i : Fin 16) : Bool := (s.me.getM m).getLsbD (i.val - base)
        let n := (if x.fill = 0 ∨ x.fill = 8 then 0 else 1) + (if base = 8 ∨ c = true then 1 else 0)
        (∀ i : Fin 16, lanes.get i = if h : base ≤ i.val ∧ i.val < base + 8 then (if on i then cut ((s.me.getV v).get ⟨i.val - base, by omega⟩) else 0) else if half then x.asmLanes.get i else 0) →
        (∀ i : Fin 16, valid.getLsbD i.val = if base ≤ i.val ∧ i.val < base + 8 then on i else decide half && x.asmValid.getLsbD i.val) →
        (half → base = 0 → c = false → s.setsQueue (.qpushv v q c m) q { x with asmLanes := lanes, asmValid := valid, fill := 8 }) ∧
        (half → base = 8 ∨ c = true → x.toks.length + 1 ≤ x.cap → s.setsQueue (.qpushv v q c m) q { empty x with toks := x.toks ++ [closed x.count valid lanes], count := x.count + 1 }) ∧
        (¬ half → c = false → x.toks.length + 1 ≤ x.cap → s.setsQueue (.qpushv v q c m) q { x with asmLanes := lanes, asmValid := valid, fill := 8, toks := x.toks ++ [part], count := x.count + 1 }) ∧
        (¬ half → c = true → x.toks.length + 2 ≤ x.cap →
          s.setsQueue (.qpushv v q c m) q { empty x with toks := x.toks ++ [part] ++ [closed (x.count + 1) valid lanes], count := x.count + 1 + 1 }) ∧
        (n ≠ 0 → x.cap < x.toks.length + n → s.waits (.qpushv v q c m) (.qFull q))) ∧
      -- QPUSHS
      (x.fill = 0 → x.toks.length + 1 ≤ x.cap → s.setsQueue (.qpushs q l) q { x with toks := x.toks ++ [stop x.count], count := x.count + 1 }) ∧
      (x.fill ≠ 0 → x.toks.length + 2 ≤ x.cap → s.setsQueue (.qpushs q l) q { empty x with toks := x.toks ++ [part] ++ [stop (x.count + 1)], count := x.count + 1 + 1 }) ∧
      (x.cap < x.toks.length + (if x.fill = 0 then 1 else 2) → s.waits (.qpushs q l) (.qFull q))) ∧
  (
    ∀ (s : State) (d q : Fin 32) (n : Fin 16) (x : Queue), tget s.me.qs q.val = some x → x.out = true → x.remote = none →
      (∀ (t : Token) (a : Nat) (b : Bool) (rest : List (Token × Nat × Bool)), x.toks = (t, a, b) :: rest →
        let lane : Word := if t.stop = 0 ∧ t.valid.getLsbD n.val = true then t.lanes.get n else 0
        let side : Word := BitVec.ofNat 64 (t.valid.toNat + t.stop.val * 2 ^ 16 + t.etype.code * 2 ^ 19 + t.gen.toNat * 2 ^ 23 + t.ctx.val * 2 ^ 31 + t.round.toNat * 2 ^ 33 + t.flags.toNat * 2 ^ 48)
        (s.frozenAt s.cur x.region = true → ∀ rm, s.waits (.qpop d q rm n) .region ∧ s.waits (.qpopSb d q rm) .region) ∧
        ∀ iv ∈ [(Instr.qpop d q false n, Instr.qpop d q true n, lane), (.qpopSb d q false, .qpopSb d q true, side)], s.frozenAt s.cur x.region = false →
          s.givesX iv.1 d iv.2.2 ∧
          ∃ u, exec iv.2.1 s = .next u ∧ s.sameMemory u ∧ s.sameButMyCore u ∧ s.acquired u s.cur ∧ u.me.pc = s.me.pc + 4 ∧ u.me.wait = none ∧
            tget u.me.qs q.val = some { x with toks := rest } ∧ (∀ k, k ≠ q.val → tget u.me.qs k = tget s.me.qs k) ∧ (∀ r, u.me.getX r = if r = d ∧ r ≠ 0 then iv.2.2 else s.me.getX r) ∧
            s.me.sameButX { u.me with qs := s.me.qs, dclk := s.me.dclk }) ∧
      (x.toks = [] → ∀ rm, s.waits (.qpop d q rm n) (.qEmpty q) ∧ s.waits (.qpopSb d q rm) (.qEmpty q))) ∧
  (
    ∀ (s : State) (d q : Fin 32) (c : Bool) (sel : Fin 4), sel ≠ 0 →
      (∀ x : Queue, tget s.me.qs q.val = some x →
        s.givesX (.qstat d q false false 0) d (BitVec.ofNat 64 (2 ^ 63 + x.out.toNat * 2 ^ 62 + x.remote.isSome.toNat * 2 ^ 61 + x.lt.toNat * 2 ^ 60 + x.etype.code * 2 ^ 56 + x.ctx.val * 2 ^ 54 +
          x.port * 2 ^ 48 + x.region.toNat * 2 ^ 32 + (if x.out then 0 else x.fill) * 2 ^ 24 + x.cap * 2 ^ 16 + x.toks.length * 2 ^ 8 + (x.toks.filter (fun e => e.2.2)).length)) ∧
        let n : BitVec 32 := if sel = 1 then x.ew else if sel = 2 then x.fw else x.lod
        s.givesX (.qstat d q false false sel) d (n.zeroExtend 64) ∧
        ∃ t, exec (.qstat d q true false sel) s = .next t ∧ s.sameButMe t ∧ s.sameMemory t ∧ t.me.pc = s.me.pc + 4 ∧ (∀ r, t.me.getX r = if r = d ∧ r ≠ 0 then n.zeroExtend 64 else s.me.getX r) ∧
          tget t.me.qs q.val = some { x with ew := if sel = 1 then 0 else x.ew, fw := if sel = 2 then 0 else x.fw, lod := if sel = 3 then 0 else x.lod } ∧
          (∀ k, k ≠ q.val → tget t.me.qs k = tget s.me.qs k) ∧ s.me.sameButX { t.me with qs := s.me.qs }) ∧
      (∀ x : Bq, s.me.bq = some x →
        s.givesX (.qstat d 0 false true 0) d (BitVec.ofNat 64 (2 ^ 63 + 2 ^ 62 + x.lt.toNat * 2 ^ 60 + x.ctx.val * 2 ^ 54 + x.port * 2 ^ 48 + x.region.toNat * 2 ^ 32 + 32 * 2 ^ 16 + x.entries.length * 2 ^ 8)) ∧
        let n : BitVec 32 := if sel = 1 then x.ew else if sel = 2 then x.fw else x.lod
        s.givesX (.qstat d 0 false true sel) d (n.zeroExtend 64) ∧
        ∃ t, exec (.qstat d 0 true true sel) s = .next t ∧ s.sameButMe t ∧ s.sameMemory t ∧ t.me.pc = s.me.pc + 4 ∧ (∀ r, t.me.getX r = if r = d ∧ r ≠ 0 then n.zeroExtend 64 else s.me.getX r) ∧
          t.me.bq = some { x with ew := if sel = 1 then 0 else x.ew, fw := if sel = 2 then 0 else x.fw, lod := if sel = 3 then 0 else x.lod } ∧ s.me.sameButX { t.me with bq := s.me.bq }) ∧
      (tget s.me.qs q.val = none → s.givesX (.qstat d q false false 0) d 0 ∧ (s.me.path = none → s.traps (.qstat d q c false sel) 0x08 (BitVec.ofNat 64 (q.val * 256 + 1)))) ∧
      (s.me.bq = none → s.givesX (.qstat d 0 false true 0) d 0 ∧ (s.me.path = none → s.traps (.qstat d 0 c true sel) 0x08 (BitVec.ofNat 64 (0xFF * 256 + 1))))) ∧
  (
    ∀ (s : State) (d r q : Fin 32) (a v n : Fin 16) (m : Fin 8) (c l : Bool) (lev : Level) (p : Fin 4) (e : RqEnd), s.me.path = none →
      let trap (i : Instr) (reason : Nat) : Prop := s.traps i 0x08 (BitVec.ofNat 64 (q.val * 256 + reason))
      let pushes := [Instr.qpush r q c, .qpushv v q c m, .qpushs q lev]
      let pops := [Instr.qpop d q c n, .qpopSb d q c]
      (tget s.me.qs q.val = none → (∀ i ∈ pushes ++ pops ++ [Instr.qunbind q false, .qdisc d q false], trap i 1) ∧ (s.me.cur ≠ .worker → trap (.rqbind a q e) 1)) ∧
      (∀ x, tget s.me.qs q.val = some x → x.out = true → ∀ i ∈ pushes, trap i 2) ∧ (∀ x, tget s.me.qs q.val = some x → x.out = false → ∀ i ∈ pops, trap i 2) ∧
      (∀ x, tget s.me.qs q.val = some x → trap (.qbind r q l false p) 3) ∧
      (∀ x, tget s.me.qs q.val = some x → x.remote.isSome → (x.out = false → ∀ i ∈ pushes, trap i 9) ∧ (x.out = true → ∀ i ∈ pops, trap i 9) ∧ trap (.qdisc d q false) 9) ∧
      (∀ x, tget s.me.qs q.val = some x → s.me.cur ≠ .worker → (x.out ≠ (e == .send) → trap (.rqbind a q e) 2) ∧ (x.out = (e == .send) → x.remote.isSome → trap (.rqbind a q e) 3) ∧
        (x.out = (e == .send) → x.remote = none → (x.toks ≠ [] ∨ x.fill ≠ 0) → trap (.rqbind a q e) 8)) ∧
      (∀ x, tget s.me.qs q.val = some x → x.out = false → x.remote = none → x.fill ≠ 0 → trap (.qunbind q false) 8) ∧
      (s.me.bq = none → ∀ i ∈ [Instr.qunbind 0 true, .qdisc d 0 true], s.traps i 0x08 (BitVec.ofNat 64 (0xFF * 256 + 1))) ∧
      (s.me.bq.isSome → s.traps (.qbind r 0 l true 0) 0x08 (BitVec.ofNat 64 (0xFF * 256 + 3))))

/-- QBIND (R164): with a descriptor whose region, port and context can be bound, the queue is bound, empty, with the port's direction and type and 4 ×
(DEPTH + 1) slots; bq to an output port that a BQW feeds. Reasons 4, 5 and 6 in their order, 2 and 7 else. QUNBIND and QDISC (R165, R178): an input
queue whose tokens have all gone, and an output queue or bq that holds nothing and can be given nothing in this cycle, is unbound and its slots freed,
the thread remembering what an input queue has still on its way (R282); an input queue with tokens waits; QDISC empties a queue and answers how many
tokens, the partial one counted, and bq its entries. RQBIND (R183, R184): a privileged instruction that makes a bound, empty, unchained queue the send
or the receive end of a chained pair, as the 64-byte descriptor says; closed until both ends are paired. The order of the reasons, that a chained
queue gives reason 3, and that a receive end keeps its ring's pages are the model's choice (log 39). -/
def Obligations.QueuesAreBoundAndReleased : Prop :=
  (
    ∀ (s : State) (r q : Fin 32) (l : Bool) (p : Fin 4) (g : Region) (img : Image),
      let w := s.me.getX r
      let port := w.toNat % 2 ^ 6
      let ctx : Fin 4 := ⟨w.toNat / 2 ^ 16 % 4, Nat.mod_lt _ (by decide)⟩
      let pt : Port := (img.ports[port]?).getD ⟨false, .i8⟩
      let handle := BitVec.ofNat 16 g.handle
      let clean : Prop := w.toNat / 2 ^ 48 = 0 ∧ w.toNat / 2 ^ 18 % 2 ^ 14 = 0 ∧ w.toNat / 2 ^ 6 % 2 ^ 10 = 0
      let good : Prop := clean ∧ s.myRegion (w.toNat / 2 ^ 32 % 2 ^ 16) = some g ∧ g.image = some img ∧ port < img.ports.length ∧ img.runs ctx.val = true
      let free : Prop := good ∧ g.die = dieOf s.cur ∧ s.bindingAt g port ctx.val = none
      let trap (n reason : Nat) (i : Instr) : Prop := s.me.path = none → s.traps i 0x08 (BitVec.ofNat 64 (n * 256 + reason))
      (tget s.me.qs q.val = none →
        (free → (pt.out && img.bqwPort port) = false → 4 * (p.val + 1) ≤ s.freeSlots (coreOf s.cur) →
          s.setsQueue (.qbind r q l false p) q ⟨handle, port, ctx, pt.out, pt.etype, 4 * (p.val + 1), l, false, [], Vector.replicate 16 0, 0, 0, 0, 0, 0, 0, none⟩) ∧
        (¬ clean ∨ s.myRegion (w.toNat / 2 ^ 32 % 2 ^ 16) = none → trap q.val 4 (.qbind r q l false p)) ∧ (good → g.die ≠ dieOf s.cur → trap q.val 6 (.qbind r q l false p)) ∧
        (good → g.die = dieOf s.cur → (s.bindingAt g port ctx.val).isSome → trap q.val 5 (.qbind r q l false p)) ∧
        (free → (pt.out && img.bqwPort port) = true → trap q.val 2 (.qbind r q l false p)) ∧
        (free → (pt.out && img.bqwPort port) = false → s.freeSlots (coreOf s.cur) < 4 * (p.val + 1) → trap q.val 7 (.qbind r q l false p))) ∧
      (s.me.bq = none →
        (free → (pt.out && img.bqwPort port) = true → ∃ t, exec (.qbind r 0 l true 0) s = .next t ∧ s.sameButMe t ∧ s.sameMemory t ∧ t.me.pc = s.me.pc + 4 ∧ t.me.wait = none ∧
          t.me.bq = some ⟨handle, port, ctx, l, false, [], 0, 0, 0⟩ ∧ s.me.sameButPc { t.me with bq := s.me.bq }) ∧
        (free → (pt.out && img.bqwPort port) = false → trap 0xFF 2 (.qbind r 0 l true 0)))) ∧
  (
    ∀ (s : State) (d q : Fin 32) (x : Queue), tget s.me.qs q.val = some x → x.remote = none →
      let gone (i : Instr) : Prop := ∃ t, exec i s = .next t ∧ s.sameButMe t ∧ s.sameMemory t ∧ t.me.pc = s.me.pc + 4 ∧ t.me.wait = none ∧ (sortedKeys s.me.qs = true → tget t.me.qs q.val = none) ∧
        (∀ k, k ≠ q.val → tget t.me.qs k = tget s.me.qs k) ∧ s.me.sameButPc { t.me with qs := s.me.qs, left := s.me.left } ∧
        (∀ k, x.out = false → s.feeds s.cur x = some (k, true) → t.me.left = s.me.left ++ [k]) ∧ (x.out = true ∨ (∀ k, s.feeds s.cur x ≠ some (k, true)) → t.me.left = s.me.left)
      (x.out = false → x.fill = 0 → x.toks = [] → gone (.qunbind q false)) ∧ (x.out = false → x.fill = 0 → x.toks ≠ [] → s.waits (.qunbind q false) (.unbind q)) ∧
      (x.out = true → x.toks = [] → s.acceptQueue s.cur q.val x = none → gone (.qunbind q false)) ∧
      (x.out = true → x.toks ≠ [] → s.acceptQueue s.cur q.val x = none → s.me.path = none → s.traps (.qunbind q false) 0x08 (BitVec.ofNat 64 (q.val * 256 + 8))) ∧
      (∃ t, exec (.qdisc d q false) s = .next t ∧ s.sameButMe t ∧ s.sameMemory t ∧ t.me.pc = s.me.pc + 4 ∧ t.me.wait = none ∧
        (∀ r, t.me.getX r = if r = d ∧ r ≠ 0 then BitVec.ofNat 64 (x.toks.length + (if x.fill = 0 then 0 else 1)) else s.me.getX r) ∧
        tget t.me.qs q.val = some { x with toks := [], asmLanes := Vector.replicate 16 0, asmValid := 0, fill := 0 } ∧ (∀ k, k ≠ q.val → tget t.me.qs k = tget s.me.qs k) ∧
        s.me.sameButX { t.me with qs := s.me.qs }) ∧
      (∀ b : Bq, s.me.bq = some b →
        (b.entries = [] → s.acceptBq s.cur b = none → ∃ t, exec (.qunbind 0 true) s = .next t ∧ s.sameButMe t ∧ s.sameMemory t ∧ t.me.pc = s.me.pc + 4 ∧ t.me.bq = none ∧ s.me.sameButPc { t.me with bq := s.me.bq }) ∧
        ∃ t, exec (.qdisc d 0 true) s = .next t ∧ s.sameButMe t ∧ s.sameMemory t ∧ t.me.pc = s.me.pc + 4 ∧ t.me.bq = some { b with entries := [] } ∧
          (∀ r, t.me.getX r = if r = d ∧ r ≠ 0 then BitVec.ofNat 64 b.entries.length else s.me.getX r) ∧ s.me.sameButX { t.me with bq := s.me.bq })) ∧
  (
    ∀ (s : State) (a : Fin 16) (q : Fin 32) (k : RqEnd) (bs : List Byte),
      let i : Instr := .rqbind a q k
      let ring := bytesAt bs 0 16
      let n := bytesAt bs 16 4
      let port := bytesAt bs 22 1
      let good : Prop := bytesAt bs 23 1 = 0 ∧ bytesAt bs 28 36 = 0 ∧ port < 16 ∧ (s.part (s.partOf s.cur)).fld 0x1D0 15 0 / 2 ^ port % 2 = 1 ∧
        if k = .recv then ring % 2 ^ 14 = 0 ∧ (∃ j, 11 ≤ j ∧ j ≤ 16 ∧ n = 2 ^ j) else n = 0
      let rq : RemoteQ := ⟨k == .send, BitVec.ofNat 80 ring, n, BitVec.ofNat 16 (bytesAt bs 20 2), ⟨port % 16, Nat.mod_lt _ (by decide)⟩, BitVec.ofNat 32 (bytesAt bs 24 4), false, false, false, 0, 0, 0, 0, []⟩
      let bad (x : Queue) : Option Nat := if x.out ≠ (k == .send) then some 2 else if x.remote.isSome then some 3 else if x.toks ≠ [] ∨ x.fill ≠ 0 then some 8 else none
      let binds (i : Instr) (q : Fin 32) (y : Queue) : Prop := exec i s = .next (s.hasRead.onMe (fun th => { th with qs := tput th.qs q.val y }.advance))
      (∀ c, s.me.cur = .worker → encode i = some c → s.me.path = none → s.traps i 0x02 (BitVec.ofNat 64 c)) ∧
      (s.me.cur ≠ .worker → tget s.me.qs q.val = none → s.me.path = none → s.traps i 0x08 (BitVec.ofNat 64 (q.val * 256 + 1))) ∧
      ∀ x, s.me.cur ≠ .worker → tget s.me.qs q.val = some x →
        (∀ c, bad x = some c → s.me.path = none → s.traps i 0x08 (BitVec.ofNat 64 (q.val * 256 + c))) ∧
        (bad x = none → bs.length = 64 → s.readable (s.me.getA a) bs → ¬ good → s.me.path = none → s.traps i 0x08 (BitVec.ofNat 64 (q.val * 256 + 10)) s.hasRead) ∧
        (bad x = none → bs.length = 64 → s.readable (s.me.getA a) bs → good → k = .send → binds i q { x with remote := some rq }) ∧
        ∀ l : List Nat, bad x = none → bs.length = 64 → s.readable (s.me.getA a) bs → good → k = .recv → (∀ z, s.me.wait = some z → ∀ m, z.kind ≠ .pages m) → (∀ z ∈ s.rimWalks, z.1 ≠ .area s.cur) → l.length = n * 256 / 2 ^ 14 →
          (∀ j pa, l[j]? = some pa → s.engineAt ⟨.area s.cur, (dieOf s.cur).val * 96, s.cur, s.me.cur, none, [], none⟩ (BitVec.ofNat 80 ring + BitVec.ofNat 80 (2 ^ 14 * j)) .store pa 3) →
          binds i q { x with remote := some { rq with pages := l } })

/-- Queue ports (R161, R170, R171, R174, R213): the oldest token of a bound input queue, no path's and with every store before it performed, enters its
channel when its point is open, a slot is free and its bucket has credit or no limit, and takes one token's credit; else it stays. An output queue
with room takes the token at the end of its channel, and bq with fewer than 32 entries the token's value; each sets the event bit when it was empty,
and on an open likely path the entry in bq resolves it next (R98). Waits that stall (R175, R177): a wait of a queue instruction that has lasted QWATCH
cycles takes QUEUE_STALL at its instruction with queue and kind; a wait on an empty output queue or bq during which the thread's input queues of that
region and context hold nothing is counted once, and stalls with kind 2 where LT is set. Remote queues (R184 to R186): a token that arrives at a RECV
end with room and an empty ring joins its queue under the end's own context, else it goes to the next ring entry, whose bytes are written at once when
no copy, no lease and no earlier entry stands against them; it is acknowledged; ring entries re-enter oldest first; STOP leaves at half a ring, GO at
a quarter, ahead of every other beat; whether the far end holds the key is its own to say (log 21); a paired SEND end that is not stopped, fewer than
two of whose tokens wait for a flit (log 21), sends its oldest token; acknowledgements are counted. -/
def Obligations.QueuePortsAndRemoteQueues : Prop :=
  (
    ∀ (s : State) (t q c : Nat) (r : Region) (tok : Token),
      let th := s.thread t
      let core := s.core (coreOf t)
      (∀ (x : Queue) (stamp : Nat) (rest : List (Token × Nat × Bool)), tget th.qs q = some x → x.remote = none → x.out = false → x.closed = false → x.toks = (tok, stamp, false) :: rest →
        s.region (rkey (s.partOf t) x.region.toNat) = some r → (r.port x.port).out = false → r.restored x.port x.ctx.val = false →
        r.image.bind (fun i => i.portChan x.port) = some c → r.portClosed x.port x.ctx.val = false → core.gave < 4 →
        let credit := s.creditAt r.die (queuePoint t q)
        let go : Prop := s.earlierDone t stamp = true ∧ 0 < r.chanFree c x.ctx.val ∧ (1024 ≤ credit ∨ 1024 ≤ (s.bucketAt r.die (queuePoint t q).node).1)
        (go → ∃ r' k, 1 ≤ k ∧
          exec (.queuePortDelivery t q) s = .next { s with regions := tput s.regions r.key r', threads := tput s.threads t { th with qs := tput th.qs q { x with toks := rest } }, cores := tput s.cores (coreOf t) { core with gave := core.gave + 1 }, credit := tput s.credit (queuePoint t q).key (credit - 1024) } ∧
          r'.chans = tput r.chans (c * 4 + x.ctx.val) { r.chan c x.ctx.val with transit := (r.chan c x.ctx.val).transit ++ [(tok, k)] } ∧
          { r' with chans := r.chans, midway := r.midway, trigger := r.trigger, closedPorts := r.closedPorts } = r) ∧
        (¬ go → exec (.queuePortDelivery t q) s = .next s)) ∧
      (∀ (x : Queue) (more : List Token), q < 32 → tget th.qs q = some x → x.out = true → x.closed = false → s.region (rkey (s.partOf t) x.region.toNat) = some r →
        r.image.bind (fun i => i.portChan x.port) = some c → r.portClosed x.port x.ctx.val = false → (r.chan c x.ctx.val).buf = tok :: more →
        (core.took < 4 → x.toks.length < x.cap →
          exec (.queueAccept t q) s = .next { s with regions := tput s.regions r.key { r with chans := tput r.chans (c * 4 + x.ctx.val) { r.chan c x.ctx.val with buf := more } }, threads := tput s.threads t { th with qs := tput th.qs q { x with toks := x.toks ++ [(tok, 0, false)] }, ev := th.ev || x.toks.isEmpty }, cores := tput s.cores (coreOf t) { core with took := core.took + 1 } }) ∧
        (4 ≤ core.took ∨ x.cap ≤ x.toks.length → exec (.queueAccept t q) s = .next s)) ∧
      (∀ (b : Bq) (more : List Token), 32 ≤ q → th.bq = some b → b.closed = false → s.region (rkey (s.partOf t) b.region.toNat) = some r →
        r.image.bind (fun i => i.portChan b.port) = some c → r.portClosed b.port b.ctx.val = false → (r.chan c b.ctx.val).buf = tok :: more →
        (core.took < 4 → b.entries.length < 32 →
          exec (.queueAccept t q) s = .next { s with agenda := if th.path.isSome then .likelyPathResolution t :: s.agenda else s.agenda, regions := tput s.regions r.key { r with chans := tput r.chans (c * 4 + b.ctx.val) { r.chan c b.ctx.val with buf := more } }, threads := tput s.threads t { th with bq := some { b with entries := b.entries ++ [tok.lanes.get 0] }, ev := th.ev || b.entries.isEmpty }, cores := tput s.cores (coreOf t) { core with took := core.took + 1 } }) ∧
        (4 ≤ core.took ∨ 32 ≤ b.entries.length → exec (.queueAccept t q) s = .next s))) ∧
  (
    ∀ (s : State) (t n : Nat) (l : Bool),
      let th := s.thread t
      th.path = none →
      (∀ q : Fin 32, ∀ k ∈ [(WaitKind.qEmpty q, q.val * 256), (.bqEmpty, 0xFF * 256), (.qFull q, q.val * 256 + 1), (.unbind q, q.val * 256 + 3)], th.wait = some ⟨k.1, n, l⟩ →
        (th.qwatch ≠ 0 → th.qwatch.toNat ≤ n → exec (.queueStall t) s = .next (s.enterTrap t 0x07 false (BitVec.ofNat 64 k.2) th.pc)) ∧
        (th.qwatch = 0 ∨ n < th.qwatch.toNat → exec (.queueStall t) s = .next s)) ∧
      let idle (g : BitVec 16) (c : Fin 4) : Prop := ∀ e ∈ th.qs, e.2.out = true ∨ e.2.region ≠ g ∨ e.2.ctx ≠ c ∨ (e.2.toks = [] ∧ e.2.fill = 0)
      (∀ (q : Fin 32) (x : Queue), th.wait = some ⟨.qEmpty q, n, false⟩ → tget th.qs q.val = some x →
        let u := s.setThread t { th with wait := some ⟨.qEmpty q, n, true⟩, qs := tput th.qs q.val { x with lod := x.lod + 1 } }
        (idle x.region x.ctx → exec (.lossOfDecoupling t) s = .next (if x.lt then u.enterTrap t 0x07 false (BitVec.ofNat 64 (q.val * 256 + 2)) th.pc else u)) ∧
        (¬ idle x.region x.ctx → exec (.lossOfDecoupling t) s = .next s)) ∧
      (∀ b : Bq, th.wait = some ⟨.bqEmpty, n, false⟩ → th.bq = some b →
        let u := s.setThread t { th with wait := some ⟨.bqEmpty, n, true⟩, bq := some { b with lod := b.lod + 1 } }
        (idle b.region b.ctx → exec (.lossOfDecoupling t) s = .next (if b.lt then u.enterTrap t 0x07 false (BitVec.ofNat 64 (0xFF * 256 + 2)) th.pc else u)) ∧
        (¬ idle b.region b.ctx → exec (.lossOfDecoupling t) s = .next s)) ∧
      (∀ k, th.wait = some ⟨k, n, true⟩ → exec (.lossOfDecoupling t) s = .next s)) ∧
  (
    ∀ (s : State) (t q n : Nat) (x : Queue) (m : RemoteQ) (tok : Token), tget (s.thread t).qs q = some x → x.remote = some m →
      let put (u : State) (y : Queue) : State := u.setThread t { u.thread t with qs := tput (u.thread t).qs q y }
      let enter (u : State) (y : Queue) : State :=
        let th := u.thread t
        let new (staged : Bool) : Bool := x.toks.isEmpty && y.toks.any (fun e => e.2.2 == staged)
        u.setThread t { th with qs := tput th.qs q y, ev := th.ev || new false, path := th.path.map (fun p => { p with ev := p.ev || new true }) }
      let send (u : State) (b : Beat) : State := u.onLink m.link.val (fun l => { l with outbox := l.outbox ++ [b] })
      let key : BitVec 16 := m.key.truncate 16
      let signal (b : Beat) : Bool := match b with | .control (.stop _) | .control (.go _) => true | _ => false
      let first (u : State) (b : Beat) : State := u.onLink m.link.val (fun l => { l with outbox := l.outbox.takeWhile signal ++ b :: l.outbox.dropWhile signal })
      let staged := ((s.link m.link.val).outbox.filter (fun b => match b with | .queue k _ => k == key | _ => false)).length
      let mine : Token := { tok with ctx := x.ctx }
      let acked : Beat := .control (.tokensAcked key 1)
      let pa := m.entryPa (m.ringHead + m.ringLen)
      (m.send = false → m.dead = false → x.toks.length < x.cap → m.ringLen = 0 → exec (.remoteTokenArrival t q tok) s = .next (send (enter s { x with toks := x.toks ++ [(mine, 0, false)] }) acked)) ∧
      (m.send = false → m.dead = false → x.cap ≤ x.toks.length ∨ m.ringLen ≠ 0 →
        ∃ w, exec (.remoteTokenArrival t q tok) s = .next w ∧ w.thread t = { s.thread t with qs := tput (s.thread t).qs q { x with remote := some { m with ringLen := m.ringLen + 1 } } } ∧
          (∀ v, v ≠ t → w.thread v = s.thread v) ∧ (w.link m.link.val).outbox = (s.link m.link.val).outbox ++ [acked] ∧
          (s.mem.wf = true → pa % 256 = 0 → (∀ r ∈ s.flight, r.by' ≠ .ring t q) →
            (∀ l ∈ [pa / 128, pa / 128 + 1], prange (l * 128) = .hbm ∧ s.homeLost (l * 128) = false ∧ dirFind (s.die (homeDie (l * 128))).dir l = none) →
            memBytes w.mem pa 256 = mine.payload ++ leBytes mine.sideband.toNat 8 ++ List.replicate 120 0 ∧ s.sameMemoryBut w pa 256)) ∧
      (m.send = false → x.toks.length < x.cap → m.ringLen ≠ 0 → s.busy (.ring t q) = false →
        exec (.ringReentry t q) s = .next (enter s { x with toks := x.toks ++ [(readToken (memBytes s.mem (m.entryPa m.ringHead) 136), 0, false)], remote := some { m with ringLen := m.ringLen - 1, ringHead := (m.ringHead + 1) % m.entries } })) ∧
      (m.send = false → m.stopped = false → m.entries / 2 ≤ m.ringLen → exec (.stopGo t q) s = .next (first (put s { x with remote := some { m with stopped := true } }) (.control (.stop key)))) ∧
      (m.send = false → m.stopped = true → m.ringLen ≤ m.entries / 4 → exec (.stopGo t q) s = .next (first (put s { x with remote := some { m with stopped := false } }) (.control (.go key)))) ∧
      (m.send = false → (m.stopped = false → m.ringLen < m.entries / 2) → (m.stopped = true → m.entries / 4 < m.ringLen) → exec (.stopGo t q) s = .next s) ∧
      (m.send = true → exec (.remoteAck t q n) s = .next (put s { x with remote := some { m with acked := m.acked + n } })) ∧
      (m.dead = false → (s.link m.link.val).state = 2 → (s.link m.link.val).peer = m.peer →
        ∃ b, exec (.remotePairing t q) s = .next (put { s with freeCtr := s.freeCtr + 1 } { x with remote := some { m with paired := b } })) ∧
      (m.dead = true ∨ (s.link m.link.val).state ≠ 2 ∨ (s.link m.link.val).peer ≠ m.peer → exec (.remotePairing t q) s = .next s) ∧
      (∀ stamp staged rest, m.send = true → x.toks = (tok, stamp, staged) :: rest →
        let crosses : Prop := m.stopped = false ∧ m.paired = true ∧ m.dead = false ∧ (s.link m.link.val).state = 2 ∧ (s.part (s.partOf t)).crossingOpen m.peer = true ∧ staged < 2
        (crosses → exec (.queuePortDelivery t q) s = .next (send (put s { x with toks := rest, remote := some { m with sent := m.sent + 1 } }) (.queue key tok))) ∧
        (¬ crosses → exec (.queuePortDelivery t q) s = .next s)))

/-- Flits (R383, R384): a port that is up and has fewer than 256 unacknowledged flits sends the next with its SEQ, the SEQ of the latest flit received and
its two oldest beats that may cross (R363) and that no STOP holds (R185, R388), empty ones where it has none (log 31); a flit that is intact and in
order advances the sequence, drops what a new acknowledgement covers (that one that repeats covers nothing is the model's choice, log 21) and delivers
its beats, or keeps those whose crossing is closed; any other is discarded; a resend sends everything unacknowledged again, each at most sixteen
times. A port whose die is lost carries nothing (R381). Ports go down and train (R384, R385, R428): a port whose flit went out sixteen times, or that
has heard nothing for 10 µs, drops what it holds, and every thread with a chained queue on it finds LINK_DOWN pending with the lowest such queue and
its acknowledged count; RETRAIN takes a port down and into training, whose end, the far end's to say (log 21), brings it up with its peer and a fresh
sequence, or leaves it down, as it does on a lost die; both are recorded, with result 3 at the alternative rate and where an earlier failure has the
port on its alternative (log 26). -/
def Obligations.LinkPortsExchangeAndTrain : Prop :=
  (
    ∀ (s : State) (p : Fin 16) (f : Flit) (b0 b1 : Beat) (rest : List Beat),
      let l := s.link p.val
      let set (k : Link) : State := { s with links := tput s.links p.val k }
      let sends (k : Link) (o : List Beat) : Prop := exec (.flitSend p) s = .next (set k) ∧ k.outbox = o ∧ k.unacked = l.unacked ++ [(⟨l.seq, l.ackOut, b0, b1⟩, 0)] ∧ k.seq = l.seq + 1 ∧
        k.sent = (l.sent + (if b0 = .empty then 0 else 1) + (if b1 = .empty then 0 else 1)) % 2 ^ 64 ∧ { k with outbox := l.outbox, unacked := l.unacked, seq := l.seq, sent := l.sent, ackAt := l.ackAt } = l
      l.state = 2 →
      ((s.die ⟨p.val / 4, by omega⟩).lost = true → exec (.flitSend p) s = .next s ∧ (∀ intact, exec (.flitReceived p f intact) s = .next s) ∧ exec (.flitResend p) s = .next s) ∧
      ((s.die ⟨p.val / 4, by omega⟩).lost = false →
      (l.unacked.length < 256 → (∀ b ∈ l.outbox, s.beatShut p.val true b = false ∧ s.beatStopped p.val b = false) →
        (l.outbox = b0 :: b1 :: rest ∨ (l.outbox = [b0] ∧ b1 = .empty ∧ rest = []) ∨ (l.outbox = [] ∧ b0 = .empty ∧ b1 = .empty ∧ rest = [])) → ∃ k, sends k rest) ∧
      (l.unacked.length < 256 → (∀ b ∈ l.outbox, s.beatShut p.val true b = true ∨ s.beatStopped p.val b = true) → b0 = .empty → b1 = .empty → ∃ k, sends k l.outbox) ∧
      (256 ≤ l.unacked.length → exec (.flitSend p) s = .next s) ∧
      (exec (.flitReceived p f false) s = .next (set { l with crc := (l.crc + 1) % 2 ^ 64, heardAt := s.tick })) ∧
      (f.seq ≠ l.expect → exec (.flitReceived p f true) s = .next (set { l with heardAt := s.tick })) ∧
      (f.seq = l.expect → ∃ k, k.unacked = (if f.ack = l.ackIn then l.unacked else l.unacked.filter (fun g => decide (256 ≤ (f.ack - g.1.seq).toNat))) ∧ k.ackIn = f.ack ∧
        k.expect = l.expect + 1 ∧ k.ackOut = f.seq ∧ k.heardAt = s.tick ∧ k.received = (l.received + (if f.beat0 = .empty then 0 else 1) + (if f.beat1 = .empty then 0 else 1)) % 2 ^ 64 ∧
        { k with unacked := l.unacked, ackIn := l.ackIn, expect := l.expect, ackOut := l.ackOut, heardAt := l.heardAt, received := l.received, ackAt := l.ackAt } = l ∧
        (f.beat0 = .empty → f.beat1 = .empty → exec (.flitReceived p f true) s = .next (set k)) ∧
        (∀ key tok, f.beat0 = .queue key tok → f.beat1 = .empty →
          (s.beatShut p.val false f.beat0 = true → exec (.flitReceived p f true) s = .next (set { k with inbox := l.inbox ++ [f.beat0] })) ∧
          (s.beatShut p.val false f.beat0 = false → l.inbox = [] → ∃ es, exec (.flitReceived p f true) s = .next { set k with agenda := s.agenda ++ es } ∧
          ∀ t q tok', .remoteTokenArrival t q tok' ∈ es ↔ tok' = tok ∧ ∃ th ∈ s.threads, th.1 = t ∧ ∃ e ∈ th.2.qs, e.1 = q ∧ ∃ m, e.2.remote = some m ∧ m.link = p ∧ m.key.truncate 16 = key ∧ m.send = false)) ∧
        (∀ key n, f.beat0 = .control (.tokensAcked key n) → f.beat1 = .empty → ∃ es, exec (.flitReceived p f true) s = .next { set k with agenda := s.agenda ++ es } ∧
          ∀ t q n', .remoteAck t q n' ∈ es ↔ n' = n ∧ ∃ th ∈ s.threads, th.1 = t ∧ ∃ e ∈ th.2.qs, e.1 = q ∧ ∃ m, e.2.remote = some m ∧ m.link = p ∧ m.key.truncate 16 = key ∧ m.send = true) ∧
        (∀ g q, f.beat0 = .control (.join g q) → f.beat1 = .empty → ∃ es, exec (.flitReceived p f true) s = .next { set k with agenda := s.agenda ++ es } ∧
          ∀ e, e ∈ es ↔ ∃ h : Fin 8, (s.part h).state ≠ .stopped ∧ (s.part h).fld 0x1D0 p.val p.val = 1 ∧ e = .joinReceived h g q l.peer)) ∧
      let worn : Prop := ∃ g ∈ l.unacked, 16 ≤ g.2
      (l.unacked ≠ [] → ¬ worn → exec (.flitResend p) s = .next (set { l with unacked := l.unacked.map (fun g => (g.1, g.2 + 1)), resent := (l.resent + l.unacked.length) % 2 ^ 64, ackAt := s.tick })) ∧
      (worn → exec (.flitResend p) s = .next { s with agenda := s.agenda ++ [.portDown p] }))) ∧
  (
    ∀ (s : State) (p : Fin 16),
      let l := s.link p.val
      let worn : Prop := ∃ g ∈ l.unacked, 16 ≤ g.2
      (l.state = 2 → (worn ∨ l.heardAt + 47000 ≤ s.tick) → ∃ u, exec (.portDown p) s = .next u ∧ s.sameMemory u ∧ u.links = tput s.links p.val { l with state := 0, unacked := [], outbox := [] } ∧
        (∀ t, (s.thread t).qs.all (fun e => e.2.remote.all (fun m => m.link != p)) = true → (s.thread t).ss = [] → u.thread t = s.thread t) ∧
        ∀ t q x m rest, (s.thread t).qs = (q, x) :: rest → x.remote = some m → m.link = p → (s.thread t).ss = [] → (s.thread t).st = .active → tget s.threads t = some (s.thread t) → sortedKeys s.threads = true →
          Pending.mk 0x17 (BitVec.ofNat 64 (m.acked % 2 ^ 32 * 2 ^ 32 + q * 2 ^ 8 + p.val)) ∈ (u.thread t).pend ∧ tget (u.thread t).qs q = some { x with remote := some { m with dead := true } }) ∧
      (l.state ≠ 2 ∨ (¬ worn ∧ s.tick < l.heardAt + 47000) → exec (.portDown p) s = .next s) ∧
      (l.state ≠ 1 → ∃ u, exec (.retrain p) s = .next u ∧ s.sameMemory u ∧ (u.link p.val).state = 1 ∧ ∃ d ok peer, s.tick < d ∧ (d, Event.retrainComplete p ok peer) ∈ u.later ∧
        (l.state ≠ 2 → { u with links := s.links, later := s.later, freeCtr := s.freeCtr } = s)) ∧
      (l.state = 1 → exec (.retrain p) s = .next s) ∧
      ∀ peer, l.state = 1 → let log (b : Boot) (n : Nat) : Boot := (b.append 6 p.val (b.tries 6 p.val) n).noteLoss 6 p.val n
        let rate := min l.bootRate (if l.speed = 0 then 224 else 112)
        ((s.die ⟨p.val / 4, by omega⟩).lost = false → exec (.retrainComplete p true peer) s = .next { s with links := tput s.links p.val { l with state := 2, rate := rate, peer := peer, trains := l.trains + 1, seq := 0, expect := 0, ackOut := 0, ackIn := 0, unacked := [], outbox := [], inbox := [], ackAt := s.tick, heardAt := s.tick }, boot := log s.boot (if l.bootRate = 112 ∨ s.boot.path 6 p.val ≠ .normal then 3 else 0) }) ∧
        ∀ passed, passed = false ∨ (s.die ⟨p.val / 4, by omega⟩).lost = true → exec (.retrainComplete p passed peer) s = .next { s with links := tput s.links p.val { l with state := 0, fails := l.fails + 1 }, boot := log s.boot 1 })

/-- RED starts a chain (R386, R387): with a free slot and a descriptor whose fields, port triples, rules and links are in order, the slot holds the chain
that the descriptor's offsets name, in RUN; each check that fails refuses with its reason, in order. LNKSTAT (R396): every selector of a link port of
the partition and of a coupler side, and the two refusals. Hops of a chain (R382, R388, R389): a first position's token goes over the coupler when the
position beyond has room; at a last position the running sum and the local partial combine lane by lane into the token delivered, under the slot's own
sideband; stops of one level merge their flags; other pairs, and a token of another type than the chain's (R296), stop the slot with kind 8 and raise
STREAM_FAULT. The ingress selector (R391): a data token goes, its key lane made invalid, to the port its key maps to, or is dropped and counted in
SELDROP; a stop or marker goes to every mapped port once, in ascending key order; a token of another type stops the slot with kind 8 (R296); the
deliveries wait in the slot, and enter the region's channels in order, at the node of the slot's lane (log 40 for a slot of link hops alone). -/
def Obligations.ChainsCombineTokens : Prop :=
  (
    ∀ (s : State) (r : Fin 32) (a : Fin 16) (d : List Byte),
      let k := (s.me.getX r).toNat
      let at1 (o : Nat) : Nat := bytesAt d o 1
      (8 ≤ k → s.refuses (.red r a) 16) ∧
      (k < 8 → (tget s.me.ss k).isSome → s.refuses (.red r a) 17) ∧
      (k < 8 → tget s.me.ss k = none → (s.me.getA a).toNat % 16 ≠ 0 → s.refuses (.red r a) 21) ∧
      (k < 8 → tget s.me.ss k = none → (s.me.getA a).toNat % 16 = 0 → d.length = 64 → s.readable (s.me.getA a) d →
        let c : Chain := { state := .run, desc := d, fkind := 0, route := at1 0 == 1, op := at1 1, etype := EType.ofCode (at1 2 % 16), ctx := ⟨at1 3 % 4, Nat.mod_lt _ (by decide)⟩, region := BitVec.ofNat 16 (bytesAt d 4 2), sport := at1 6, rport := at1 7, pos := at1 8, npart := at1 9, up := at1 10, down := at1 11, lane := at1 12, keylane := ⟨at1 13 % 16, Nat.mod_lt _ (by decide)⟩, dpeer := BitVec.ofNat 16 (bytesAt d 14 2), upeer := BitVec.ofNat 16 (bytesAt d 20 2), key := BitVec.ofNat 32 (bytesAt d 16 4), map := (List.range 16).map (fun k => at1 (32 + k)), gen := s.me.gen, count := 0, inbox := [], outbox := [], transit := [], stopped := false, sentStop := false, drainAsked := false, ended := false, closed := false, flags := 0 }
        let u := s.hasRead
        (chainFields d = false → s.refuses (.red r a) 16 u) ∧
        (∀ e, chainFields d = true → s.chainTargets c = some e → s.refuses (.red r a) e u) ∧
        (chainFields d = true → s.chainTargets c = none → chainRules c (dieOf s.cur).val = false → s.refuses (.red r a) 21 u) ∧
        (chainFields d = true → s.chainTargets c = none → chainRules c (dieOf s.cur).val = true → s.chainLinksOk c = false → s.refuses (.red r a) 38 u) ∧
        (chainFields d = true → s.chainTargets c = none → chainRules c (dieOf s.cur).val = true → s.chainLinksOk c = true →
          exec (.red r a) s = .next (s.setThread s.cur { u.me with ss := tput s.me.ss k (.chain c), pc := s.me.pc + 4, wait := none, reply := none, walked := [] })))) ∧
  (
    ∀ (s : State) (d r : Fin 32) (p : Fin 16) (sel q : Nat) (c : Bool), sel < 16 → q < 32 → (s.me.getX r).toNat = p.val + sel * 2 ^ 4 + q * 2 ^ 8 + c.toNat * 2 ^ 15 →
      let give (n : Nat) : Prop := s.givesX (.lnkstat d r) d (BitVec.ofNat 64 n)
      let l := s.link p.val
      let die := dieOf s.cur
      let side := tgetD s.couplers (die.val * 4 + p.val) Coupler.reset
      let mine : Prop := (s.part (s.partOf s.cur)).fld 0x1D0 p.val p.val = 1
      (c = false → mine →
        (sel = 0 → give ((if l.state = 2 then 2 ^ 63 else 0) + l.peer.toNat * 2 ^ 32 + l.rate)) ∧ (sel = 1 → give l.sent) ∧ (sel = 2 → give l.received) ∧ (sel = 3 → give l.resent) ∧ (sel = 4 → give l.crc) ∧
        (∀ x m, sel = 5 → tget s.me.qs q = some x → x.remote = some m → m.link = p → give m.acked) ∧ (sel = 6 → give l.adds)) ∧
      (∀ o, c = true → neighbour die.val p.val = some o →
        (sel = 0 → give ((if (s.die die).lost = false ∧ (s.die die).absent = false ∧ (s.die ⟨o % 4, Nat.mod_lt _ (by decide)⟩).lost = false ∧ (s.die ⟨o % 4, Nat.mod_lt _ (by decide)⟩).absent = false then 2 ^ 63 else 0) + 5775)) ∧
        (sel = 1 → give side.sent) ∧ (sel = 2 → give side.received) ∧ (sel = 3 → give side.retried) ∧ (sel = 4 → give side.crc) ∧ (sel = 6 → give side.adds)) ∧
      ((7 ≤ sel ∨ (c = true ∧ (sel = 5 ∨ neighbour die.val p.val = none)) ∨ (c = false ∧ sel = 5 ∧ ∀ x m, tget s.me.qs q = some x → x.remote = some m → m.link ≠ p) → s.refuses (.lnkstat d r) 16) ∧
        (c = false → sel < 5 ∨ sel = 6 → ¬ mine → s.refuses (.lnkstat d r) 38))) ∧
  (
    ∀ (s : State) (t k ch : Nat) (c : Chain) (r : Region) (p : Token) (more : List Token),
      tget (s.thread t).ss k = some (.chain c) → c.state = .run → c.outbox = [] → c.ended = false → c.transit = [] → c.sport ≠ 0xFF → c.closed = false → c.sentStop = false →
      s.region (rkey (s.partOf t) c.region.toNat) = some r → r.image.bind (fun i => i.portChan c.sport) = some ch → r.portClosed c.sport c.ctx.val = false →
      (r.chan ch c.ctx.val).buf = p :: more →
      let popped : Region := { r with chans := tput r.chans (ch * 4 + c.ctx.val) { r.chan ch c.ctx.val with buf := more } }
      let put (u : State) (y : Chain) : State := u.setThread t { u.thread t with ss := tput (u.thread t).ss k (.chain y) }
      let faults : Prop := (s.thread t).st = .active → ∃ v, exec (.chainHop t k) s = .next v ∧ v = s.setThread t (v.thread t) ∧ (v.thread t).ev = true ∧ Pending.mk 0x06 (BitVec.ofNat 64 (8 * 16 + k)) ∈ (v.thread t).pend ∧
        tget (v.thread t).ss k = some (.chain { c with state := .fault, fkind := 8, inbox := [], outbox := [], transit := [] })
      (∀ u rest, c.pos ≠ 0 → c.pos + 1 = c.npart → c.route = false → c.inbox = u :: rest → (u.etype ≠ c.etype ∨ p.etype ≠ c.etype) → faults) ∧
      (p.etype = c.etype → ∀ u j d, c.pos = 0 → c.npart ≠ 1 → c.down < 128 → s.chainBelow t c = some (u, j, d) → d.sentStop = false → d.inbox.length < 64 →
        exec (.chainHop t k) s = .next ((put (s.setRegion r.key popped) { c with transit := [(p, 4)], count := c.count + 1, ended := c.drainAsked && p.stop == 7 }).onCoupler ((dieOf t).val * 4 + c.down % 16) (fun x => { x with sent := x.sent + 1 }))) ∧
      (∀ u rest, c.pos ≠ 0 → c.pos + 1 = c.npart → c.route = false → c.inbox = u :: rest → u.etype = c.etype → p.etype = c.etype →
        let both (l : Fin 16) : Bool := u.valid.getLsbD l.val && p.valid.getLsbD l.val
        let sum (l : Fin 16) : Res := redOp c.etype c.op .rne Rsh.zero ((u.lanes.get l).toNat % 2 ^ etypeWidth c.etype) ((p.lanes.get l).toNat % 2 ^ etypeWidth c.etype)
        (u.stop = 0 → p.stop = 0 → ∃ v tok fl, exec (.chainHop t k) s = .next v ∧ s.sameMemory v ∧ v.region r.key = some popped ∧ (∀ w, w ≠ t → v.thread w = s.thread w) ∧
          v.thread t = { s.thread t with ss := tput (s.thread t).ss k (.chain { c with inbox := rest, outbox := [(c.rport, tok)], count := c.count + 1, flags := c.flags ||| fl }) } ∧
          fl = ((List.finRange 16).filter both).foldl (fun f l => f ||| (sum l).flags) 0 ∧ tok.stop = 0 ∧ tok.flags = 0 ∧ tok.etype = c.etype ∧ tok.gen = c.gen ∧ tok.ctx = c.ctx ∧ tok.round = BitVec.ofNat 15 c.count ∧
          ∀ l : Fin 16, tok.valid.getLsbD l.val = (u.valid.getLsbD l.val || p.valid.getLsbD l.val) ∧
            tok.lanes.get l = if both l then BitVec.ofNat 64 (sum l).bits else if u.valid.getLsbD l.val then u.lanes.get l else if p.valid.getLsbD l.val then p.lanes.get l else 0) ∧
        (u.stop ≠ 0 → p.stop = u.stop → ∃ v tok, exec (.chainHop t k) s = .next v ∧ s.sameMemory v ∧ v.region r.key = some popped ∧
          v.thread t = { s.thread t with ss := tput (s.thread t).ss k (.chain { c with inbox := rest, outbox := [(c.rport, tok)], count := c.count + 1, ended := c.drainAsked && u.stop == 7, flags := if u.stop = 7 then 0 else c.flags }) } ∧
          tok = { u with flags := u.flags ||| p.flags ||| c.flags, etype := c.etype, gen := c.gen, ctx := c.ctx, round := BitVec.ofNat 15 c.count }) ∧
        (u.stop ≠ p.stop → faults))) ∧
  (
    ∀ (s : State) (t k : Nat) (c : Chain) (tok : Token) (rest : List Token),
      tget (s.thread t).ss k = some (.chain c) → c.state = .run →
      let put (u : State) (y : Chain) : State := u.setThread t { u.thread t with ss := tput (u.thread t).ss k (.chain y) }
      (c.route = true → c.pos + 1 = c.npart → c.ended = false → c.outbox = [] → c.sentStop = false → c.inbox = tok :: rest →
        let key := (tok.lanes.get c.keylane).toNat % 2 ^ 16
        (tok.etype ≠ c.etype → (s.thread t).st = .active → ∃ v, exec (.ingressSelector t k) s = .next v ∧ v = s.setThread t (v.thread t) ∧ Pending.mk 0x06 (BitVec.ofNat 64 (8 * 16 + k)) ∈ (v.thread t).pend ∧
          tget (v.thread t).ss k = some (.chain { c with state := .fault, fkind := 8, inbox := [], outbox := [], transit := [] })) ∧
        (tok.etype = c.etype →
        (∀ port, tok.stop = 0 → tok.valid.getLsbD c.keylane.val = true → c.map[key]? = some port → port ≠ 0xFF → ∃ out : Token,
          exec (.ingressSelector t k) s = .next (put s { c with inbox := rest, outbox := [(port, out)], count := c.count + 1 }) ∧ out.ctx = c.ctx ∧ out.stop = 0 ∧ out.flags = tok.flags ∧ out.etype = tok.etype ∧ out.gen = tok.gen ∧ out.round = tok.round ∧
          (∀ l : Fin 16, out.valid.getLsbD l.val = (tok.valid.getLsbD l.val && l != c.keylane) ∧ (out.valid.getLsbD l.val = true → out.lanes.get l = tok.lanes.get l))) ∧
        (tok.stop = 0 → tok.valid.getLsbD c.keylane.val = false ∨ c.map[key]? = none ∨ c.map[key]? = some 0xFF →
          exec (.ingressSelector t k) s = .next (put (s.bump (s.partOf t) 0x400 63 32 1) { c with inbox := rest })) ∧
        (tok.stop ≠ 0 → exec (.ingressSelector t k) s = .next (put s { c with inbox := rest, outbox := (c.map.filter (fun p => p != 0xFF)).eraseDups.map (fun p => (p, { tok with ctx := c.ctx })), count := c.count + (c.map.filter (fun p => p != 0xFF)).eraseDups.length, ended := c.drainAsked && tok.stop == 7 })))) ∧
      (∀ (r : Region) (u : State) (port : Nat) (more : List (Nat × Token)), c.transit = [] → c.outbox = (port, tok) :: more → s.region (rkey (s.partOf t) c.region.toNat) = some r → (r.port port).out = false → r.restored port c.ctx.val = false →
        s.tryEnter r port c.ctx.val (c.point (dieOf t).val) tok = .enters u → exec (.chainHop t k) s = .next (put u { c with outbox := more })))

/-- SSPEC starts a stream (R289, R290, R298): with a free slot, a descriptor and shape record read as loads, and every check passed, the slot holds the
stream they name in RUN, its counters zero, and its triple is bound; each check that fails refuses, in order. SSTOP and SRESUME (R299, R300, R388): an
abort drops what is undelivered and held, leaves the counters, and enters ABORTED; a store stream, and a load stream's delivery, at an outermost
boundary pause at once, what was read beyond it to be read again (the boundary of a load stream by its delivery: log 30); one inside an iteration is
marked to pause; a chain aborts, or waits for its next marker; a paused or resumably faulted stream returns to RUN; slots in other states, DONE and
ABORTED among them, are refused. A stream that leaves RUN sets the event bit (R104), and what walks have told it is forgotten (R142). SWAIT and SSTAT
(R301, R302) of a stream: the state word, after which a slot in DONE or ABORTED is free and DONE has acquired; RUN waits; a slot with nothing reads 0;
and every selector of SSTAT, counters beyond the dimension count 0. -/
def Obligations.StreamsAreStartedAndStopped : Prop :=
  (
    ∀ (s : State) (r : Fin 32) (a : Fin 16) (d sh : List Byte),
      let k := (s.me.getX r).toNat
      let shape : Addr := BitVec.ofNat 80 (bytesAt d 0 10)
      (8 ≤ k → s.refuses (.sspec r a) 16) ∧
      (k < 8 → (tget s.me.ss k).isSome → s.refuses (.sspec r a) 17) ∧
      (k < 8 → tget s.me.ss k = none → (s.me.getA a).toNat % 16 ≠ 0 → s.refuses (.sspec r a) 21) ∧
      (k < 8 → tget s.me.ss k = none → (s.me.getA a).toNat % 16 = 0 → d.length = 64 → s.readable (s.me.getA a) d →
        let u := s.hasRead
        (shape.toNat % 16 ≠ 0 → s.refuses (.sspec r a) 21 u) ∧
        (shape.toNat % 16 = 0 → sh.length = 208 → s.readable shape sh →
          let ctl := bytesAt d 35 1
          let rim := bytesAt d 36 1
          let ctx := ctl / 16 % 4
          let store := ctl % 2 == 1
          let nd := bytesAt sh 10 2 / 16 % 16 + 1
          let x := streamOf d sh s.me.gen s.me.cur (dieOf s.cur).val s.nextId s.me.dclk.toList
          let target := s.engineTarget (bytesAt d 32 2) (bytesAt d 34 1) ctx store (EType.ofCode (bytesAt sh 10 1 % 16))
          (streamFields d sh = false → s.refuses (.sspec r a) 16 u) ∧
          (∀ e, streamFields d sh = true → target = .error e → s.refuses (.sspec r a) e u) ∧
          (∀ g, streamFields d sh = true → target = .ok g → (g.die ≠ dieOf s.cur ∨ rim % 64 < 4 * g.bx ∨ 4 * (g.bx + g.w) ≤ rim % 64 → s.refuses (.sspec r a) 20 u) ∧
            (g.die = dieOf s.cur → 4 * g.bx ≤ rim % 64 → rim % 64 < 4 * (g.bx + g.w) →
              (streamRules d x = false → s.refuses (.sspec r a) 21 u) ∧
              (streamRules d x = true → ∃ t, exec (.sspec r a) s = .next t ∧ s.sameMemory t ∧ s.sameButMe { t with nextId := s.nextId } ∧ u.me.sameButPc { t.me with ss := s.me.ss } ∧ t.me.pc = s.me.pc + 4 ∧ t.me.wait = none ∧
                (∀ j, j ≠ k → tget t.me.ss j = tget s.me.ss j) ∧ tget t.me.ss k = some (.stream x) ∧ x.state = .run ∧ x.desc = d ∧ x.shapeBytes = sh ∧ x.region = BitVec.ofNat 16 (bytesAt d 32 2) ∧ x.port = bytesAt d 34 1 ∧ x.ctx.val = ctx ∧
                x.store = store ∧ x.held = (ctl / 2 % 2 == 1) ∧ x.beat = (ctl / 4 % 2 == 1) ∧ x.bound = (if ctl / 8 % 2 = 1 then some (bytesAt d 37 1) else none) ∧ x.rim = (dieOf s.cur).val * 96 + (if rim / 64 % 2 = 1 then 48 else 0) + rim % 64 ∧
                x.gen = s.me.gen ∧ x.mode = s.me.cur ∧ x.count = 0 ∧ x.idx = List.replicate nd 0 ∧ x.stops = (List.range nd).map (fun k => bytesAt d 40 8 / 8 ^ k % 8) ∧ x.scales = BitVec.ofNat 80 (bytesAt d 16 10) ∧ x.heldWrites = [] ∧
                x.shape.base = BitVec.ofNat 80 (bytesAt sh 0 10) ∧ x.shape.dims = (List.range nd).map (fun k => (bytesAt sh (16 + 16 * k) 8, (BitVec.ofNat 64 (bytesAt sh (24 + 16 * k) 8)).toInt)))))))) ∧
  (
    ∀ (s : State) (r m : Fin 32), let k := (s.me.getX r).toNat
      let mode := (s.me.getX m).toNat
      let live (x : SlotState) : Prop := x = .run ∨ x = .fault ∨ x = .paused
      let per (x : Stream) : Nat := x.exts.dropLast.foldl (· * ·) 1
      let ends (i : Instr) (ev ended : Bool) (y : SSlot) (p : Nat → Nat → Nat → Bool) : Prop := ∃ t, exec i s = .next t ∧ s.sameMemory t ∧ t.me.pc = s.me.pc + 4 ∧ t.me.wait = none ∧ t.me.ss = tput s.me.ss k y ∧ t.me.ev = ev ∧
        s.me.sameButPc { t.me with ss := s.me.ss, ev := s.me.ev } ∧ s.sameButMe { t with parts := s.parts, dies := s.dies, rimWalks := s.rimWalks } ∧
        t.rimWalks = (if ended then s.rimWalks.filter (fun e => e.1 != .stream s.cur k) else s.rimWalks) ∧ (ended = false → t.dies = s.dies) ∧ (∀ e, { t.die e with misses := (s.die e).misses } = s.die e) ∧
        ∀ q, t.part q = if q = s.partOf s.cur then { s.part q with holdUsed := (s.part q).holdUsed.filter (fun e => p e.1 e.2.1 e.2.2.1) } else s.part q
      let all (_ _ _ : Nat) : Bool := true
      let landing (pc : Nat) : Bool := s.flight.any (fun q => match q.by' with | .held u j (some n) => u == s.cur && j == k && n / 64 == pc | _ => false)
      (∀ x : Stream, k < 8 → tget s.me.ss k = some (.stream x) → live x.state →
        (mode = 1 → ∀ i ∈ [Instr.sstopAbort r m, .sstopPause r m], ends i (s.me.ev || x.state == .run) true (.stream { x with state := .aborted, out := [], lanes := [], ahead := [], fault := none, taken := none, heldWrites := [], reading := none, since := none, resumed := false, pauseAsked := false, stopping := false })
          (fun pc t j => decide (t ≠ s.cur ∨ j ≠ k) || landing pc)) ∧
        (mode = 0 → x.state = .run → x.store = true → x.finished = false → x.taken = none → (∀ i ∈ x.idx.dropLast, i = 0) → ∀ i ∈ [Instr.sstopPause r m, .sstopAbort r m], ends i true true (.stream { x with state := .paused, pauseAsked := false, stopping := false }) all) ∧
        (let b := (x.sent + per x - 1) / per x * per x
         let read := if x.finished then x.total else posOf x.idx x.exts
         mode = 0 → x.state = .run → x.store = false → x.sent = b → b < x.total → b ≤ read → (∀ a, x.out.head? = some a → a.stop = 0 ∧ 0 < x.elements a) → ends (.sstopPause r m) true true
          (.stream { x with state := .paused, out := [], lanes := [], ahead := [], fault := none, reading := none, since := none, idx := idxOf b x.exts, finished := false, pauseAsked := false, stopping := false }) all) ∧
        (let b := (x.sent + per x - 1) / per x * per x
         let read := if x.finished then x.total else posOf x.idx x.exts
         mode = 0 → x.state = .fault ∨ (x.state = .run ∧ x.store = true ∧ (x.finished = true ∨ x.taken.isSome ∨ ∃ i ∈ x.idx.dropLast, i ≠ 0)) ∨ (x.state = .run ∧ x.store = false ∧ (x.total ≤ b ∨ read < b)) →
          ends (.sstopPause r m) s.me.ev false (.stream { x with pauseAsked := true }) all) ∧
        (mode = 0 → x.state = .paused → ∃ t, exec (.sstopPause r m) s = .next t ∧ s.sameMemory t ∧ s.sameButMe t ∧ s.me.sameButPc t.me ∧ t.me.pc = s.me.pc + 4 ∧ t.me.wait = none)) ∧
      (∀ c : Chain, k < 8 → tget s.me.ss k = some (.chain c) → live c.state →
        (mode = 1 → ends (.sstopAbort r m) (s.me.ev || c.state == .run) false (.chain { c with state := .aborted, fkind := 0, inbox := [], outbox := [], transit := [] }) all) ∧ (mode = 0 → ends (.sstopPause r m) s.me.ev false (.chain { c with drainAsked := true }) all)) ∧
      (∀ x : Stream, k < 8 → tget s.me.ss k = some (.stream x) →
        (x.state = .paused ∨ (x.state = .fault ∧ 1 ≤ x.fkind ∧ x.fkind ≤ 6) → ends (.sresume r) s.me.ev false (.stream { x with state := .run, fkind := 0, resumed := x.state == .fault, since := none }) all) ∧
        (x.state ≠ .paused → (x.state = .fault → x.fkind = 0 ∨ 6 < x.fkind) → s.refuses (.sresume r) 17)) ∧
      ((8 ≤ k ∨ 1 < mode → ∀ i ∈ [Instr.sstopAbort r m, .sstopPause r m], s.refuses i 16) ∧ (8 ≤ k → s.refuses (.sresume r) 16) ∧ (k < 8 → mode < 2 → tget s.me.ss k = none → s.refuses (.sstopAbort r m) 17 ∧ s.refuses (.sstopPause r m) 17 ∧ s.refuses (.sresume r) 17) ∧
        (∀ x : SSlot, k < 8 → mode < 2 → tget s.me.ss k = some x → ¬ live x.state → s.refuses (.sstopAbort r m) 17 ∧ s.refuses (.sstopPause r m) 17) ∧
        (∀ c : Chain, k < 8 → tget s.me.ss k = some (.chain c) → s.refuses (.sresume r) 17))) ∧
  (
    ∀ (s : State) (d r : Fin 32), let w := s.me.getX r
      let word (x : Stream) : Nat := x.ctx.val * 2 ^ 38 + x.port * 2 ^ 32 + x.region.toNat * 2 ^ 16 + (x.exts.length - 1) * 2 ^ 12 + (if x.state = .fault then x.fkind * 2 ^ 8 else 0) + x.held.toNat * 2 ^ 4 + x.store.toNat * 2 ^ 3 +
        (match x.state with | .free => 0 | .run => 1 | .fault => 2 | .paused => 3 | .done => 4 | .aborted => 5 | .cancelled => 6)
      let gives (i : Instr) (n : Nat) : Prop := ∃ t, exec i s = .next t ∧ s.sameMemory t ∧ s.sameButMe { t with freeCtr := s.freeCtr } ∧ s.me.sameButX t.me ∧ t.me.pc = s.me.pc + 4 ∧ t.me.wait = none ∧
        ∀ q, t.me.getX q = if q = d ∧ q ≠ 0 then BitVec.ofNat 64 n else s.me.getX q
      (w.toNat < 8 → tget s.me.ss w.toNat = none → s.givesX (.swait d r) d 0) ∧
      (∀ x : Stream, w.toNat < 8 → tget s.me.ss w.toNat = some (.stream x) → (x.state = .run → s.waits (.swait d r) .slot) ∧ (x.state = .fault ∨ x.state = .paused → gives (.swait d r) (word x)) ∧
        (x.state = .done ∨ x.state = .aborted → ∃ t, exec (.swait d r) s = .next t ∧ s.sameMemory t ∧ (sortedKeys s.me.ss = true → tget t.me.ss w.toNat = none) ∧ (∀ j, j ≠ w.toNat → tget t.me.ss j = tget s.me.ss j) ∧
          (∀ q, t.me.getX q = if q = d ∧ q ≠ 0 then BitVec.ofNat 64 (word x) else s.me.getX q) ∧ t.me.pc = s.me.pc + 4 ∧ t.me.wait = none ∧ s.me.sameButX { t.me with ss := s.me.ss, dclk := s.me.dclk } ∧ s.sameButMyCore { t with freeCtr := s.freeCtr } ∧
          (x.state = .done → s.acquired t s.cur) ∧ (x.state = .aborted → s.sameButMe { t with freeCtr := s.freeCtr } ∧ t.me.dclk = s.me.dclk))) ∧
      (∀ slot sel, w.toNat = slot + sel * 16 → slot < 8 → sel < 16 → (tget s.me.ss slot = none → gives (.sstat d r) 0) ∧
        ∀ x : Stream, tget s.me.ss slot = some (.stream x) → gives (.sstat d r) (if sel = 0 then word x else if sel = 1 then x.faddr.toNat % 2 ^ 64 else if sel = 2 then x.faddr.toNat / 2 ^ 64 else if sel = 3 then x.count else x.idx.getD (sel - 4) 0)) ∧
      ((8 ≤ w.toNat → s.refuses (.swait d r) 16) ∧ (2 ^ 8 ≤ w.toNat ∨ w.toNat / 8 % 2 = 1 → s.refuses (.sstat d r) 16)))

/-- Streams at work (R291, R293, R294): a load stream reads its last element where the index vector names it, zero-extends it into the next lane, delivers
the partial token and then the stop of the highest level; a ready token enters the region, numbered; a store stream's write of a token's lane at its
position leaves for its home, where it changes these bytes alone (at once, where no copy or lease stands against it), and the position advances; the
stop of its outermost dimension ends it once its writes are performed, with the event bit set. Elements of load streams (R291, R292): one that has
been read, or has been read ahead and comes next, fills the next lane, or is a whole beat; the token closes when full, with the stop of the highest
level that the completed dimensions carry behind it, at an iteration's end with PARTIAL, and at the end of the stream; the index vector advances,
dimension 0 fastest. A beat is its row, the low 20 bits of its scale words, and its row index. A bounded stream reads its next element alone (log 20).
Held writes (R295): what a held store stream takes stays in its hold buffer, line by line with the bytes written, and no agent sees it; with the
buffer full it spills, data, mask and line address, into the partition's hold area, and with that full too the stream stops with kind 7 and
HOLD_OVERFLOW; the marker performs what was held, these bytes alone. -/
def Obligations.StreamsReadDeliverAndWrite : Prop :=
  (
    ∀ (s u : State) (t k : Nat) (x : Stream), tget (s.thread t).ss k = some (.stream x) → x.state = .run → x.beat = false → x.closed = false → x.held = false → x.resumed = false → x.pauseAsked = false → x.stopping = false →
      let n := etypeBytes x.shape.etype
      let va : Addr := BitVec.ofInt 80 (x.shape.base.toNat + ((x.idx.zip x.shape.dims).map (fun e => (e.1 : Int) * e.2.2)).sum)
      let tok (stop : Nat) (v : BitVec 16) (f : Fin 16 → Word) : Token := ⟨0, 0, x.ctx, x.gen, x.shape.etype, ⟨stop % 8, Nat.mod_lt _ (by decide)⟩, v, Vector.ofFn f⟩
      let slot (w : State) (y : Stream) : Prop := tget (w.thread t).ss k = some (.stream y) ∧ ∀ j, j ≠ t → w.thread j = s.thread j
      (∀ v, x.store = false → s.earlierDone t x.after = true → s.hasGenerator t k x = true → x.finished = false → x.fault = none → x.out = [] → x.ahead = [] → x.lanes.length < 15 → x.idx.length = x.shape.dims.length →
        x.idx ≠ [] → (∀ e ∈ x.idx.zip x.shape.dims, e.1 + 1 = e.2.1) → va.toNat % n = 0 →
        x.reading = none → { s with freeCtr := s.freeCtr + 1 }.engineReadIn ⟨.stream t k, x.rim, t, x.mode, x.bound, x.dclk, x.since⟩ va n = .ok v u → u.threads = s.threads →
        ∃ w y, exec (.streamLineRequest t k) s = .next w ∧ u.sameMemory w ∧ slot w y ∧ y.state = .run ∧ y.finished = true ∧ y.lanes = [] ∧ y.count = x.count ∧
          let lv := (x.stops.take x.idx.length).foldl max 0
          y.out = tok 0 (BitVec.ofNat 16 (2 ^ (x.lanes.length + 1) - 1)) (fun l => (x.lanes ++ [BitVec.ofNat 64 v]).getD l.val 0) :: (if lv = 0 then [] else [tok lv 0 (fun _ => 0)])) ∧
      (∀ (a : Token) (rest : List Token) (r : Region), x.store = false → x.fault = none → x.out = a :: rest → s.region (rkey (s.partOf t) x.region.toNat) = some r → r.restored x.port x.ctx.val = false →
        s.tryEnter r x.port x.ctx.val (rimPoint x.rim) { a with round := BitVec.ofNat 15 x.count } = .enters u →
        ∃ w y, exec (.streamTokenDelivery t k) s = .next w ∧ s.sameMemory w ∧ slot w y ∧ w.regions = u.regions ∧ w.credit = u.credit ∧ y.count = x.count + 1 ∧ (rest ≠ [] → y.out = rest ∧ y.state = .run) ∧
          (rest = [] → x.finished = true → y.out = [] ∧ y.state = .done ∧ (w.thread t).ev = true)) ∧
      (∀ (r : Region) (ch pa : Nat) (e : TlbEntry) (a : Token) (more : List Token) (l : Fin 16), x.store = true → s.earlierDone t x.after = true → s.hasGenerator t k x = true → x.taken = none →
        s.region (rkey (s.partOf t) x.region.toNat) = some r → r.image.bind (fun i => i.portChan x.port) = some ch → r.portClosed x.port x.ctx.val = false → (r.chan ch x.ctx.val).buf = a :: more → a.etype = x.shape.etype → a.ctx = x.ctx →
        let s' := s.setRegion r.key { r with chans := tput r.chans (ch * 4 + x.ctx.val) { r.chan ch x.ctx.val with buf := more } }
        (x.finished = false → a.stop = 0 → (∀ j : Fin 16, a.valid.getLsbD j.val = decide (j = l)) → (∀ e ∈ x.idx.zip x.shape.dims, e.1 < e.2.1) → va.toNat % n = 0 → s'.engineWrite ⟨.stream t k, x.rim, t, x.mode, x.bound, x.dclk, x.since⟩ va = .ok pa e u → u.threads = s.threads →
          ∃ w, exec (.storeStreamTake t k) s = .next w ∧ slot w { x with count := x.count + 1, idx := carryPos x.idx (x.shape.dims.map (fun e => e.1)) x.stops } ∧
            (pa % n = 0 → u.homeLost (pa / 128 * 128) = false → u.busy (.stream t k) = false → (∀ q, q.pa = pa / 128 * 128 → q.mt = e.mt → u.writable q) → u.mem.wf = true →
              memRead w.mem pa n = (a.lanes.get l).toNat % 256 ^ n ∧ u.sameMemoryBut w pa n ∧ w.flight = u.flight)) ∧
        (x.finished = false → x.heldWrites = [] → a.stop ≠ 0 → a.stop ≠ 7 → x.stops.findIdx? (fun j => j == a.stop.val) = some (x.shape.dims.length - 1) → x.shape.dims ≠ [] →
          ∃ w y, exec (.storeStreamTake t k) s = .next w ∧ s.sameMemory w ∧ slot w y ∧ y.count = x.count + 1 ∧ (s.busy (.stream t k) = false → y.state = .done ∧ (w.thread t).ev = true) ∧
            (s.busy (.stream t k) = true → y.state = .run ∧ y.finished = true)))) ∧
  (
    ∀ (s u : State) (t k v : Nat) (x : Stream), tget (s.thread t).ss k = some (.stream x) → x.state = .run → x.store = false → x.closed = false → x.resumed = false → x.pauseAsked = false → x.stopping = false →
      x.fault = none → x.finished = false → x.lanes.length < 16 → (x.beat = true → x.lanes = []) → x.idx.length = x.shape.dims.length → x.idx ≠ [] → (∀ e ∈ x.idx.zip x.shape.dims, e.1 < e.2.1) →
      let exts := x.shape.dims.map (fun e => e.1)
      let c := ((List.range exts.length).takeWhile (fun d => x.idx.getD d 0 + 1 == exts.getD d 0)).length
      let lv := (x.stops.take c).foldl max 0
      let vals := x.lanes ++ [BitVec.ofNat 64 v]
      let tok (stop : Nat) (m : BitVec 16) (f : Fin 16 → Word) : Token := ⟨0, 0, x.ctx, x.gen, x.shape.etype, ⟨stop % 8, Nat.mod_lt _ (by decide)⟩, m, Vector.ofFn f⟩
      let data := if x.beat then tok 0 0xFFFF (fun l => BitVec.ofNat 64 (v / 2 ^ (64 * l.val))) else tok 0 (BitVec.ofNat 16 (2 ^ vals.length - 1)) (fun l => vals.getD l.val 0)
      let closes : Bool := x.beat || vals.length == 16 || lv != 0 || c == exts.length || (x.shape.flags.getLsbD 0 && c != 0)
      let placed (w : State) (n : Nat) : Prop := ∃ y, tget (w.thread t).ss k = some (.stream y) ∧ (∀ j, j ≠ t → w.thread j = s.thread j) ∧ y.state = .run ∧ y.count = n ∧ y.finished = (c == exts.length) ∧
        y.out = (if closes then [data] else []) ++ (if lv = 0 then [] else [tok lv 0 (fun _ => 0)]) ∧ y.lanes = (if closes then [] else vals) ∧
        ∀ d < exts.length, y.idx.getD d 0 = if d < c then 0 else if d = c then x.idx.getD d 0 + 1 else x.idx.getD d 0
      let va : Addr := BitVec.ofInt 80 (x.shape.base.toNat + ((x.idx.zip x.shape.dims).map (fun e => (e.1 : Int) * e.2.2)).sum)
      let n := etypeBytes x.shape.etype
      let room := 128 - va.toNat % 128
      let row : List (Addr × Nat) := if 96 ≤ room then [(va, 96)] else [(va, room), (va + BitVec.ofNat 80 room, 96 - room)]
      let nb := if x.scales = 0 then 0 else match x.shape.etype with | .e4m3 | .e5m2 | .i8 => 3 | .e3m2 => 4 | .e2m1 | .i4 => 6 | _ => 0
      let words := x.scales + BitVec.ofNat 80 (4 * nb * posOf x.idx x.exts)
      let reads (ps : List (Addr × Nat)) (vs : List Nat) : Prop := ps.foldl (fun o e => o.bind (fun a : List Nat × State =>
        match a.2.engineReadIn ⟨.stream t k, x.rim, t, x.mode, x.bound, x.dclk, none⟩ e.1 e.2 with | .ok v w => some (a.1 ++ [v], w) | _ => none)) (some ([], { s with freeCtr := s.freeCtr + 1 })) = some (vs, u)
      (x.out = [] → x.ahead = [] → x.reading = none → x.since = none → x.bound.isSome ∨ c = exts.length → s.earlierDone t x.after = true → s.hasGenerator t k x = true → u.threads = s.threads →
        (x.beat = false → va.toNat % n = 0 → reads [(va, n)] [v] → ∃ w, exec (.streamLineRequest t k) s = .next w ∧ u.sameMemory w ∧ placed w x.count) ∧
        (∀ vs : List Nat, x.beat = true → va.toNat % 16 = 0 → words.toNat % 4 = 0 → reads (row ++ (List.range nb).map (fun j => (words + BitVec.ofNat 80 (4 * j), 4))) vs →
          v = vs.getD 0 0 + (if 96 ≤ room then 0 else 256 ^ room * vs.getD 1 0) + ((List.range nb).map (fun j => vs.getD (row.length + j) 0 % 2 ^ 20 * 2 ^ (768 + 20 * j))).sum + x.idx.headD 0 % 4 * 2 ^ 888 →
          ∃ w, exec (.streamLineRequest t k) s = .next w ∧ u.sameMemory w ∧ placed w x.count)) ∧
      ∀ (a : Token) (r : Region), x.out = [a] → x.ahead = [(posOf x.idx x.exts, v)] → s.region (rkey (s.partOf t) x.region.toNat) = some r → r.restored x.port x.ctx.val = false →
        s.tryEnter r x.port x.ctx.val (rimPoint x.rim) { a with round := BitVec.ofNat 15 x.count } = .enters u → ∃ w, exec (.streamTokenDelivery t k) s = .next w ∧ s.sameMemory w ∧ w.regions = u.regions ∧ placed w (x.count + 1)) ∧
  (
    ∀ (s u : State) (t k ch pa : Nat) (x : Stream) (r : Region) (e : TlbEntry) (a : Token) (more : List Token) (l : Fin 16),
      tget (s.thread t).ss k = some (.stream x) → x.state = .run → x.store = true → x.held = true → x.closed = false → x.resumed = false → x.pauseAsked = false → x.stopping = false → x.finished = false → x.taken = none →
      s.earlierDone t x.after = true → s.hasGenerator t k x = true → s.region (rkey (s.partOf t) x.region.toNat) = some r → r.image.bind (fun i => i.portChan x.port) = some ch → r.portClosed x.port x.ctx.val = false →
      (r.chan ch x.ctx.val).buf = a :: more → a.etype = x.shape.etype → a.ctx = x.ctx →
      let n := etypeBytes x.shape.etype
      let va : Addr := BitVec.ofInt 80 (x.shape.base.toNat + ((x.idx.zip x.shape.dims).map (fun e => (e.1 : Int) * e.2.2)).sum)
      let p := s.partOf t
      let s' := s.setRegion r.key { r with chans := tput r.chans (ch * 4 + x.ctx.val) { r.chan ch x.ctx.val with buf := more } }
      let slot (w : State) (y : Stream) : Prop := tget (w.thread t).ss k = some (.stream y) ∧ ∀ j, j ≠ t → w.thread j = s.thread j
      let moved : Stream := { x with count := x.count + 1, idx := carryPos x.idx (x.shape.dims.map (fun e => e.1)) x.stops }
      let byte (i : Nat) : Byte := BitVec.ofNat 8 ((a.lanes.get l).toNat / 256 ^ i)
      let put (d : List (Nat × Byte)) : List (Nat × Byte) := (List.range n).foldl (fun d i => tput d (pa % 128 + i) (byte i)) d
      let fresh : HeldWrite := ⟨pa / 128, put [], none, va, e.mt, [(e.level, e.vpn)]⟩
      (a.stop = 0 → (∀ j : Fin 16, a.valid.getLsbD j.val = decide (j = l)) → (∀ e ∈ x.idx.zip x.shape.dims, e.1 < e.2.1) → va.toNat % n = 0 → s'.engineWrite ⟨.stream t k, x.rim, t, x.mode, x.bound, x.dclk, x.since⟩ va = .ok pa e u → u.threads = s.threads →
        let found := x.heldWrites.find? (fun h => h.line == pa / 128)
        (found = none → u.heldAt x.rim < 2048 → ∃ w, exec (.storeStreamTake t k) s = .next w ∧ u.sameMemory w ∧ w.flight = u.flight ∧ slot w { moved with heldWrites := x.heldWrites ++ [fresh] }) ∧
        (∀ h, found = some h → h.spilled = none → ∃ w, exec (.storeStreamTake t k) s = .next w ∧ u.sameMemory w ∧ w.flight = u.flight ∧ slot w { moved with heldWrites := x.heldWrites.map (fun o =>
          if o.line = pa / 128 then { h with data := put h.data, tlbs := if h.tlbs.contains (e.level, e.vpn) then h.tlbs else (e.level, e.vpn) :: h.tlbs } else o) }) ∧
        (∀ m u', found = none → 2048 ≤ u.heldAt x.rim → u.spillPlace p t k = some (m, u') → ∃ w, exec (.storeStreamTake t k) s = .next w ∧ slot w { moved with heldWrites := x.heldWrites ++ [{ fresh with spilled := some m }] } ∧
          let sp := (u.part p).fld 0x180 56 14 * 2 ^ 14 + m * 256
          (pa % n = 0 → u.mem.wf = true → (∀ q ∈ u.flight, q.by' ≠ .spill p) → (∀ i ∈ [sp / 128, sp / 128 + 1], prange (i * 128) = .hbm ∧ u.homeLost (i * 128) = false ∧ dirFind (u.die (homeDie (i * 128))).dir i = none) →
            u.sameMemoryBut w sp 256 ∧ (∀ i < n, memByte w.mem (sp + pa % 128 + i) = byte i) ∧ memRead w.mem (sp + 128) 16 = (2 ^ n - 1) * 2 ^ (pa % 128) ∧ memRead w.mem (sp + 144) 8 = pa / 128 * 128 % 2 ^ 64 ∧ memRead w.mem (sp + 152) 104 = 0)) ∧
        (found = none → 2048 ≤ u.heldAt x.rim → u.spillPlace p t k = none → (s.thread t).st = .active → ∃ w y, exec (.storeStreamTake t k) s = .next w ∧ u.sameMemory w ∧ tget (w.thread t).ss k = some (.stream y) ∧ y.state = .fault ∧ y.fkind = 7 ∧ y.faddr = va ∧
          y.heldWrites = x.heldWrites ∧ y.taken = some (a, l.val) ∧ (w.thread t).ev = true ∧ Pending.mk 0x15 (BitVec.ofNat 64 (7 * 16 + k)) ∈ (w.thread t).pend)) ∧
      (∀ h, a.stop = 7 → x.heldWrites = [h] → h.spilled = none → sortedKeys h.data = true → (∀ e ∈ h.data, e.1 < 128) → s.homeLost (h.line * 128) = false → s.busy (.held t k none) = false → (∀ q : Req, q.pa = h.line * 128 → q.mt = h.mt → s.writable q) → s.mem.wf = true →
        ∃ w y, exec (.storeStreamTake t k) s = .next w ∧ tget (w.thread t).ss k = some (.stream y) ∧ y.heldWrites = [] ∧ y.count = x.count + 1 ∧ s.sameMemoryBut w (h.line * 128) 128 ∧ w.flight = s.flight ∧
          ∀ i < 128, memByte w.mem (h.line * 128 + i) = (tget h.data i).getD (memByte s.mem (h.line * 128 + i))))

/-- SYNC instructions (R265, R280 to R285): a bad name or word is refused with reasons 16, 22 and 23 (EXPECT: log 29) and no effect; a good one goes to
its tile and the thread waits (ARRIVE.R first for its earlier accesses and pushes); an answer completes the instruction, BWAIT with an acquire, and a
refusal comes back with its reason. MT_REQUEST_ARRIVAL (R270, R272, R273, R274, R372): a request whose way is over joins the sequence, those of one
cycle by the class of their origin; one with a lane outside the scratch, or on the wrong side of the owned window, is held unperformed while its
region begins to freeze with a record of kind 3 or 4 (checked as it joins: log 29); a full queue or a frozen region holds every request back, ahead of
later ones. -/
def Obligations.TileRequestsFromThreads : Prop :=
  (
    ∀ (s : State) (d n p : Fin 32),
      let name := (s.me.getX n).toNat
      let w := (s.me.getX p).toNat
      let h := name / 2 ^ 32 % 2 ^ 16
      let mu := name / 2 ^ 27 % 2 ^ 5
      let mv := name / 2 ^ 23 % 2 ^ 4
      let off := name % 2 ^ 19
      let window : Bool := 2 ^ 63 ≤ w
      let len := w % 2 ^ 20
      let expect := w % 2 ^ 32
      let binitWord : Prop := w / 2 ^ 32 % 2 ^ 31 = 0 ∧ (window = true → w / 2 ^ 20 % 2 ^ 12 = 0)
      let phaseWord : Prop := w / 2 ^ 32 = 0
      let sends (i : Instr) (r : Region) (k : MtWork) : Prop := ∃ q : MtReq, q.work = k ∧ q.off = off ∧ q.todo = [] ∧ q.bad = false ∧ q.chan = q.hops ∧ 1 ≤ q.hops ∧
        exec i s = .next ((s.setRegion r.key { r with mts := tput r.mts (mv * 32 + mu) { tgetD r.mts (mv * 32 + mu) Mt.new with arriving := (tgetD r.mts (mv * 32 + mu) Mt.new).arriving ++ [q] } }).waitFor .region)
      let started (i : Instr) (align : Nat) (wordOk : Prop) (rest : Region → Prop) : Prop := s.me.reply = none → (∀ c, s.me.wait = some c → c.kind ≠ .region) →
        (name / 2 ^ 48 ≠ 0 ∨ name / 2 ^ 19 % 2 ^ 4 ≠ 0 ∨ ¬ wordOk → s.refuses i 16) ∧
        (name / 2 ^ 48 = 0 → name / 2 ^ 19 % 2 ^ 4 = 0 → wordOk →
          (s.region (rkey (s.partOf s.cur) h) = none → s.refuses i 22) ∧
          ∀ r, s.region (rkey (s.partOf s.cur) h) = some r →
            (r.die ≠ dieOf s.cur ∨ 2 * r.w ≤ mu ∨ r.h ≤ mv ∨ off % align ≠ 0 → s.refuses i 22) ∧ (r.die = dieOf s.cur → mu < 2 * r.w → mv < r.h → off % align = 0 → rest r))
      (∀ i ∈ [Instr.binitWindow n p, .binitBarrier n p], started i (if window then 128 else 32) binitWord (fun r =>
        (window = true → (len % 128 ≠ 0 ∨ 524288 < off + len → s.refuses i 23) ∧ (len % 128 = 0 → off + len ≤ 524288 → sends i r (.window s.cur off len))) ∧
        (window = false → (expect = 0 ∨ 2 ^ 31 < expect → s.refuses i 23) ∧ (1 ≤ expect → expect ≤ 2 ^ 31 → sends i r (.barrier s.cur off expect))))) ∧
      started (.arrive d n p) 32 phaseWord (fun r => sends (.arrive d n p) r (.arrive s.cur false w)) ∧
      started (.arriveR d n p) 32 phaseWord (fun r => let ready := s.pushesEntered s.cur && s.earlierDone s.cur s.nextId
        (ready = true → sends (.arriveR d n p) r (.arrive s.cur true w)) ∧ (ready = false → s.waits (.arriveR d n p) .memory)) ∧
      started (.bwait d n p) 32 phaseWord (fun r => sends (.bwait d n p) r (.bwait s.cur w)) ∧
      (∀ i ∈ [Instr.binitWindow n p, .binitBarrier n p, .arrive d n p, .arriveR d n p, .bwait d n p],
        (∀ c, s.me.reply = none → s.me.wait = some c → c.kind = .region → exec i s = .next s) ∧ (∀ k, s.me.reply = some (2 ^ 64 + k) → s.refuses i k)) ∧
      ∀ v : Word, s.me.reply = some v.toNat →
        (∀ i ∈ [Instr.binitWindow n p, .binitBarrier n p], ∃ t, exec i s = .next t ∧ s.sameButMe t ∧ s.sameMemory t ∧ s.me.sameButPc t.me ∧ t.me.pc = s.me.pc + 4 ∧ t.me.wait = none) ∧
        s.givesX (.arrive d n p) d v ∧ s.givesX (.arriveR d n p) d v ∧
        ∃ t, exec (.bwait d n p) s = .next t ∧ s.sameButMyCore t ∧ s.sameMemory t ∧ s.acquired t s.cur ∧ s.me.sameButX { t.me with dclk := s.me.dclk } ∧ t.me.pc = s.me.pc + 4 ∧ t.me.wait = none ∧
          ∀ r, t.me.getX r = if r = d ∧ r ≠ 0 then v else s.me.getX r) ∧
  (
    ∀ (s : State) (rgn mt : Nat) (r : Region) (m : Mt), s.region rgn = some r → tget r.mts mt = some m →
      let here := m.arriving.filter (fun q => q.hops == 0)
      let away := m.arriving.filter (fun q => q.hops != 0)
      let into (l : List MtReq) : State := s.setRegion rgn { r with mts := tput r.mts mt { m with arriving := away, queue := m.queue ++ l } }
      let joins (q : MtReq) : State := into [{ q with age := 0 }]
      let faults (q : MtReq) (kind : Fin 10) : Prop := ∃ (t : State) (r' : Region) (f : RegionFault), exec (.mtRequestArrival rgn mt) s = .next t ∧ s.sameMemory t ∧ t.threads = s.threads ∧ t.region rgn = some r' ∧ r'.freezing = true ∧ r'.frozen = false ∧
        r'.mts = tput r.mts mt { m with arriving := away, queue := m.queue ++ [{ q with age := 0, bad := true }] } ∧ r'.ces = r.ces ∧ r'.chans = r.chans ∧ r'.faults.Perm (f :: r.faults) ∧
        f.gone = false ∧ f.discarded = false ∧ f.record.kind = kind ∧ f.record.unit = 1 ∧ f.record.x.toNat = mt % 32 ∧ f.record.y = BitVec.ofNat 8 (mt / 32) ∧ f.record.slot = 255 ∧ f.record.ctx = q.ctx ∧ f.record.round = q.round ∧ f.record.part = r.part
      let quiet (q : MtReq) (goes : Prop) : Prop := r.frozen = false → here = [q] → m.queue.length < 64 → goes
      (r.frozen = true → exec (.mtRequestArrival rgn mt) s = .next s) ∧
      (r.frozen = false → m.queue.length = 64 → ∃ l, l.Perm (here.map (fun q => { q with age := 1 })) ∧ exec (.mtRequestArrival rgn mt) s = .next (s.setRegion rgn { r with mts := tput r.mts mt { m with arriving := l ++ away } })) ∧
      (∀ q z op k lv t ph, r.frozen = false → m.queue.length < 63 → q.work = .stop op k lv → z.work = .bwait t ph → q.age = 0 → (z.age = 0 → here = [q, z] → exec (.mtRequestArrival rgn mt) s = .next (into [z, q])) ∧
        (z.age = 1 → here = [z, q] → exec (.mtRequestArrival rgn mt) s = .next (into [{ z with age := 0 }, q]))) ∧
      (∀ q, (∀ op k w l t v, q.work ≠ .lanes op k w l t v) → quiet q (exec (.mtRequestArrival rgn mt) s = .next (joins q))) ∧
      ∀ q op k w l t v, q.work = .lanes op k w l t v → quiet q (
        let size := if op < 4 then etypeBytes (EType.ofCode (k.toNat / 2 ^ 20 % 16)) else if op = 4 then 1 else if op = 5 then 32 else 16
        let base := k.toNat / 2 ^ 24 % 2 ^ 19
        let idx (i : Fin 16) : Nat := (l.lanes.get i).toNat % 2 ^ w
        let first (i : Fin 16) : Nat := if op < 4 then base + idx i * size else if op = 4 then base + idx i / 8 else base
        let out : Prop := ∃ i ∈ q.todo, 524288 < first i + size
        let touches (i : Fin 16) : Prop := ∃ b n, m.windowAhead = some (b, n) ∧ first i < b + n ∧ b < first i + size
        let inside (i : Fin 16) : Prop := ∃ b n, m.windowAhead = some (b, n) ∧ b ≤ first i ∧ first i + size ≤ b + n
        let good : Prop := if op = 0 then True else if op ≤ 2 then ∀ i ∈ q.todo, ¬ touches i else ∀ i ∈ q.todo, inside i
        (out → faults q 3) ∧ (¬ out → good → exec (.mtRequestArrival rgn mt) s = .next (joins q)) ∧ (¬ out → ¬ good → faults q 4)))

/-- MT_BANK_ACCESS for lanes (R267, R272, R273, R276, R277): in a cycle, the lanes of a request that no earlier lane keeps from their bank read or change
the scratch as their instruction says and leave their response lanes; inside the owned window one lane goes. The flags a lane raises stay with its
request until it is answered (R39). A table or rule book is judged when its request's first lane is about to go: it must lie wholly in the window and
its cells in the scratch (R270, R275). -/
def Obligations.TileLanesActOnTheirScratch : Prop :=
  ∀ (s : State) (rgn mt : Nat) (r : Region) (m : Mt) (q : MtReq) (op : Nat) (k : Word) (w : Nat) (l t : Token) (v : BitVec 16),
    s.region rgn = some r → tget r.mts mt = some m → m.queue = [q] → m.waiting = [] → q.bad = false → q.work = .lanes op k w l t v → q.todo.Nodup →
    let ty := EType.ofCode (k.toNat / 2 ^ 20 % 16)
    let size := etypeBytes ty
    let base := k.toNat / 2 ^ 24 % 2 ^ 19
    let idx (i : Fin 16) : Nat := (l.lanes.get i).toNat % 2 ^ w
    let e (i : Fin 16) : Nat := base + idx i * size
    let arg (i : Fin 16) : Nat := (t.lanes.get i).toNat
    let inWin (i : Fin 16) : Bool := match m.win with | some (b, n) => decide (e i < b + n ∧ b < e i + size) | none => false
    let unit (i : Fin 16) : Nat := if inWin i then 16 else e i / 8 % 16
    let done (todo : List (Fin 16)) (resp : Token) (m' : Mt) : Prop := exec (.mtBankAccess rgn mt) s = .next (s.setRegion rgn { r with mts := tput r.mts mt { m' with queue := [{ q with todo := todo, resp := resp }] } })
    let raises (i : Fin 16) (rest : List (Fin 16)) (m' : Mt) (a : Nat) (fl : FlagSet) : Prop := q.todo = i :: rest → done rest { q.resp with lanes := q.resp.lanes.set i.val (BitVec.ofNat 64 a) i.isLt, flags := q.resp.flags ||| fl } m'
    let one (i : Fin 16) (rest : List (Fin 16)) (m' : Mt) (a : Nat) : Prop := raises i rest m' a 0
    let put (m : Mt) (a n b : Nat) : Mt := { m with scratch := memWrite m.scratch a (leBytes b n) }
    let get (a n : Nat) : Nat := memRead m.scratch a n
    let full := 2 ^ 64 - 1
    let first : Prop := q.todo = (List.finRange 16).filter (fun i => v.getLsbD i.val) ∧ q.todo ≠ []
    let h := if op = 5 then base else get base 4
    let inside (a n : Nat) : Prop := ∃ b z, m.win = some (b, z) ∧ b ≤ a ∧ a + n ≤ b + z
    let cells : Prop := h + 32 ≤ 524288 ∧ ∀ i ∈ q.todo, idx i < get h 4 → h + 32 + 2 * idx i + 2 ≤ 524288
    let table : Prop := inside h 32 ∧ inside h (pillarSize m h) ∧ (op = 6 → inside base (bookSize m base))
    let faults (kind : Fin 10) : Prop := ∃ (t : State) (r' : Region) (f : RegionFault), exec (.mtBankAccess rgn mt) s = .next t ∧ s.sameMemory t ∧ t.threads = s.threads ∧ t.region rgn = some r' ∧ (r.frozen = false → r'.freezing = true) ∧
      r'.mts = tput r.mts mt { m with queue := [{ q with bad := true }] } ∧ r'.faults.Perm (f :: r.faults) ∧ f.record.kind = kind ∧ f.record.unit = 1 ∧ f.record.ctx = q.ctx ∧ f.record.round = q.round
    (op = 5 ∨ op = 6 → first → (¬ cells → faults 3) ∧ (cells → ¬ table → faults 4)) ∧
    (op = 0 → ∃ todo resp, done todo resp m ∧ (∀ i, i ∈ todo ↔ ∃ p c, q.todo = p ++ i :: c ∧ ∃ j ∈ p, unit j = unit i) ∧
      { resp with lanes := q.resp.lanes } = q.resp ∧ ∀ i, resp.lanes.get i = if i ∈ q.todo ∧ i ∉ todo then BitVec.ofNat 64 (get (e i) size) else q.resp.lanes.get i) ∧
    (op = 1 → ∀ i, one i [] (put m (e i) size (arg i)) 0) ∧
    (op = 2 → ∀ i, let add : Res := match etypeFmt ty with | .ok f => f.add .rne Rsh.zero (get (e i) size) (arg i % 256 ^ size) | .error _ => ⟨(get (e i) size + arg i % 256 ^ size) % 2 ^ (etypeWidth ty), 0⟩
      raises i [] (put m (e i) size add.bits) 0 add.flags) ∧
    ∀ i rest,
    (op = 3 → one i rest (put m (e i) size (amoValue (Afn.ofCode (k.toNat / 2 ^ 48 % 16)) size (get (e i) size) (arg i % 256 ^ size))) (get (e i) size)) ∧
    (op = 4 → let b := base + idx i / 8
      one i rest (put m b 1 (get b 1 ||| 2 ^ (idx i % 8))) ((get b 1).testBit (idx i % 8)).toNat) ∧
    (let place (m : Mt) (pil : Nat) : Prop :=
       let at' := base + 32 + 8 * ((2 * get base 4 + 7) / 8) + pil * (8 + 8 * get (base + 6) 2)
       let n := memRead m.scratch at' 2
       if n = get (base + 6) 2 then one i rest (put m (base + 12) 4 (memRead m.scratch (base + 12) 4 + 1)) full
       else one i rest (put (put m (at' + 8 + 8 * n) 8 (arg i)) at' 2 (n + 1)) (pil * 2 ^ 16 + n)
     let cell := base + 32 + 2 * idx i
     let used := get (base + 8) 4
     op = 5 → (first → cells ∧ table) →
      (get base 4 ≤ idx i ∨ get cell 2 = 0xFFFF → one i rest (put m (base + 12) 4 (get (base + 12) 4 + 1)) full) ∧
      (idx i < get base 4 → get cell 2 = 0 → used = get (base + 4) 2 →
        (let m1 := put m cell 2 0xFFFF
         let m2 := put m1 (base + 16) 4 (memRead m1.scratch (base + 16) 4 + 1)
         one i rest (put m2 (base + 12) 4 (memRead m2.scratch (base + 12) 4 + 1)) full)) ∧
      (idx i < get base 4 → get cell 2 = 0 → used ≠ get (base + 4) 2 →
        (let m1 := put (put m (base + 8) 4 (used + 1)) cell 2 (used + 1)
         let pil := base + 32 + 8 * ((2 * get base 4 + 7) / 8) + used * (8 + 8 * get (base + 6) 2)
         place (put (put m1 (pil + 4) 4 (idx i)) pil 2 0) used)) ∧
      (idx i < get base 4 → 1 ≤ get cell 2 → get cell 2 < 0xFFFF → place m (get cell 2 - 1))) ∧
    (let c := get (h + 32 + 2 * idx i) 2
     let used := get (base + 8) 4
     op = 6 → (first → cells ∧ table) → (get h 4 ≤ idx i ∨ c = 0 ∨ c = 0xFFFF → one i rest m full) ∧
      (idx i < get h 4 → c ≠ 0 → c ≠ 0xFFFF → (used = get (base + 4) 4 → one i rest (put m (base + 12) 4 (get (base + 12) 4 + 1)) (full - 1)) ∧
        (used ≠ get (base + 4) 4 → one i rest (put (put m (base + 16 + 8 * used) 8 (arg i % 2 ^ 16 + (c - 1) * 2 ^ 16 + arg i / 2 ^ 16 % 2 ^ 8 * 2 ^ 32)) (base + 8) 4 (used + 1)) used)))

/-- MT_BANK_ACCESS for SYNC requests (R281 to R284, R359): what BINIT, ARRIVE, BWAIT and a claim do at the tile, and what each answers; an arrival that
completes a phase answers the waiters it serves, an overrun sets its bit and leaves a record at the region's root; a marker of MTBIN or MTRULE reads
its table's counts in its place (R278). A waiter whose phase something else has written is answered in the next cycle. The scratch is canonical,
barriers stand at multiples of 32, and waiters at barriers whose phase has not come. MT_RESPONSE (R267, R271, R278; one element response in a cycle:
log 29): the oldest request, once all its lanes are performed, is answered by one token on its way to its channel's consumer, its lanes' flags joining
its context's (R39); a stop by the same stop, a marker with the flags of its context, after the status token of MTBIN and MTRULE; a thread's answer
that is back becomes its instruction's reply. -/
def Obligations.TileBarriersAndResponses : Prop :=
  (
    (∀ (s : State) (rgn mt : Nat) (r : Region) (m : Mt), s.region rgn = some r → tget r.mts mt = some m → m.queue = [] → m.barriers.Nodup →
      let served (z : MtReq) : Prop := ∃ t p, z.work = .bwait t p ∧ z.off ∈ m.barriers ∧ let d := (memRead m.scratch (z.off + 4) 4 + 2 ^ 32 - p % 2 ^ 32) % 2 ^ 32; 1 ≤ d ∧ d ≤ 2 ^ 31
      ∃ (woken kept : List MtReq), (woken ++ kept).Perm m.waiting ∧ (∀ z ∈ woken, served z) ∧ (∀ z ∈ kept, ¬ served z) ∧
        exec (.mtBankAccess rgn mt) s = .next (s.setRegion rgn { r with mts := tput r.mts mt { m with waiting := kept, respond := m.respond ++ woken.map (fun z => { z with off := memRead m.scratch (z.off + 4) 4, hops := z.chan }) } })) ∧
    ∀ (s : State) (rgn mt : Nat) (r : Region) (m : Mt) (q : MtReq),
      s.region rgn = some r → tget r.mts mt = some m → m.queue = [q] → q.bad = false → m.scratch.wf = true → (∀ b ∈ m.barriers, b % 32 = 0) → (∀ z ∈ m.waiting, z.off ∈ m.barriers) →
      (∀ z ∈ m.waiting, ∀ t p, z.work = .bwait t p → let d := (memRead m.scratch (z.off + 4) 4 + 2 ^ 32 - p % 2 ^ 32) % 2 ^ 32; d = 0 ∨ 2 ^ 31 < d) →
      let barrier : Prop := q.off ∈ m.barriers
      let phase := memRead m.scratch (q.off + 4) 4
      let expect := memRead m.scratch q.off 4
      let count := memRead m.scratch (q.off + 8) 4
      let bits := memRead m.scratch (q.off + 12) 4
      let inside (a n : Nat) : Prop := ∃ b z, m.win = some (b, z) ∧ b ≤ a ∧ a + n ≤ b + z
      let refused := 2 ^ 64 + 23
      let back (q : MtReq) (v : Nat) : MtReq := { q with off := v, hops := q.chan }
      let leaves (m' : Mt) : Prop := exec (.mtBankAccess rgn mt) s = .next (s.setRegion rgn { r with mts := tput r.mts mt { m' with queue := [] } })
      let answers (m' : Mt) (v : Nat) : Prop := leaves { m' with respond := m'.respond ++ [back q v] }
      let put (m : Mt) (a n b : Nat) : Mt := { m with scratch := memWrite m.scratch a (leBytes b n) }
      let served (p : Nat) (n : Nat) : Prop := 1 ≤ (n + 2 ^ 32 - p % 2 ^ 32) % 2 ^ 32 ∧ (n + 2 ^ 32 - p % 2 ^ 32) % 2 ^ 32 ≤ 2 ^ 31
      let credit (m' : Mt) (c : Nat) : Prop :=
        ((count + 1) % 2 ^ 32 ≠ expect → answers (put m' (q.off + 8) 4 (count + 1)) c) ∧
        ((count + 1) % 2 ^ 32 = expect → ∃ (woken kept : List MtReq), (woken ++ kept).Perm m.waiting ∧
          (∀ z ∈ woken, z.off = q.off ∧ ∃ t p, z.work = .bwait t p ∧ served p ((phase + 1) % 2 ^ 32)) ∧ (∀ z ∈ kept, z.off ≠ q.off ∨ ∀ t p, z.work = .bwait t p → ¬ served p ((phase + 1) % 2 ^ 32)) ∧
          answers { put (put m' (q.off + 4) 4 (phase + 1)) (q.off + 8) 4 0 with waiting := kept, respond := m.respond ++ woken.map (fun z => back z ((phase + 1) % 2 ^ 32)) } c)
      (∀ t rel ph, q.work = .arrive t rel ph → (¬ barrier → answers m refused) ∧ (barrier → ph = phase → credit m ph) ∧
        (barrier → ph = (phase + 2 ^ 32 - 1) % 2 ^ 32 → credit (put m (q.off + 12) 4 (bits ||| 2 ^ 30)) phase) ∧
        (barrier → ph ≠ phase → ph ≠ (phase + 2 ^ 32 - 1) % 2 ^ 32 → r.key = rgn → ∃ u r' f, exec (.mtBankAccess rgn mt) s = .next u ∧ s.sameMemory u ∧ u.threads = s.threads ∧ u.region rgn = some r' ∧
          { r' with faults := r.faults } = { r with mts := tput r.mts mt { put m (q.off + 12) 4 (bits ||| 2 ^ 31) with queue := [], respond := m.respond ++ [back q (2 ^ 64 - 1)] } } ∧ r'.faults.Perm (f :: r.faults) ∧
          f.record.kind = 7 ∧ f.record.unit = 1 ∧ f.record.x.toNat = mt % 32 ∧ f.record.part = s.partOf t ∧ f.record.lidx = BitVec.ofNat 16 ((s.part (s.partOf t)).lidx t) ∧ f.record.info = BitVec.ofNat 64 (ph + phase * 2 ^ 32) ∧
          f.record.addr = BitVec.ofNat 128 (r.handle * 2 ^ 32 + mt % 32 * 2 ^ 27 + mt / 32 * 2 ^ 23 + q.off))) ∧
      (∀ t ph, q.work = .bwait t ph → (¬ barrier → answers m refused) ∧ (barrier → served ph phase → answers m phase) ∧ (barrier → ¬ served ph phase → leaves { m with waiting := m.waiting ++ [q] })) ∧
      (∀ t off len, q.work = .window t off len → ∃ kept gone : List MtReq, (gone ++ kept).Perm m.waiting ∧ (∀ z ∈ gone, z.off ∈ m.barriers ∧ ¬ (0 < len ∧ off ≤ z.off ∧ z.off + 32 ≤ off + len)) ∧
        (∀ z ∈ kept, z.off ∈ m.barriers → 0 < len ∧ off ≤ z.off ∧ z.off + 32 ≤ off + len) ∧
        answers { m with win := (if len = 0 then none else some (off, len)), barriers := m.barriers.filter (fun b => decide (0 < len ∧ off ≤ b ∧ b + 32 ≤ off + len)), waiting := kept, respond := m.respond ++ gone.map (fun z => back z refused) } 0) ∧
      (∀ t off ex, q.work = .barrier t off ex → off % 32 = 0 →
        let fresh (m' : Mt) : Mt := put (put (put (put m' off 8 ex) (off + 8) 8 0) (off + 16) 8 0) (off + 24) 8 0
        (¬ inside off 32 ∨ (off ∉ m.barriers ∧ 64 ≤ m.barriers.length) → answers m refused) ∧
        (inside off 32 → off ∉ m.barriers → m.barriers.length < 64 → ∃ bs, (∀ b, b ∈ bs ↔ b = off ∨ b ∈ m.barriers) ∧ answers { fresh m with barriers := bs } 0) ∧
        (inside off 32 → off ∈ m.barriers → ∃ (bs : List Nat) (kept gone : List MtReq), (∀ b, b ∈ bs ↔ b ∈ m.barriers) ∧ (gone ++ kept).Perm m.waiting ∧ (∀ z ∈ gone, z.off = off) ∧ (∀ z ∈ kept, z.off ≠ off) ∧
          answers { fresh m with barriers := bs, waiting := kept, respond := m.respond ++ gone.map (fun z => back z refused) } 0)) ∧
      (∀ op k lv, q.work = .stop op k lv → q.todo ≠ [] → let off := k.toNat / 2 ^ 24 % 2 ^ 19
        ∃ v : Token, { v with lanes := q.resp.lanes } = q.resp ∧ exec (.mtBankAccess rgn mt) s = .next (s.setRegion rgn { r with mts := tput r.mts mt { m with queue := [{ q with todo := [], resp := v }] } }) ∧
          (v.lanes.get 0).toNat = memRead m.scratch (off + 8) 4 ∧ (v.lanes.get 1).toNat = memRead m.scratch (off + 12) 4 ∧ (v.lanes.get 2).toNat = if op = 5 then memRead m.scratch (off + 16) 4 else 0) ∧
      ∀ t off tail want, q.work = .claim t off tail want → let c := memRead m.scratch off 8
        (¬ inside off 8 → answers m refused) ∧ (inside off 8 → c < tail → (c ≠ want → answers m (2 ^ 65)) ∧ (c = want → m.waiting = [] → answers (put m off 8 (c + 1)) c)) ∧ (inside off 8 → tail ≤ c → answers m (2 ^ 64 - 1))) ∧
  (
    ∀ (s : State) (rgn mt : Nat) (r : Region) (m : Mt), s.region rgn = some r → tget r.mts mt = some m →
      let away := m.respond.filter (fun q => q.hops != 0)
      let goes (q : MtReq) (m' : Mt) (ts : List Token) : Prop := let st := r.chan q.chan q.ctx.val
        ∃ n, 1 ≤ n ∧ exec (.mtResponse rgn mt) s = .next (s.setRegion rgn ({ r with mts := tput r.mts mt { m' with respond := away, queue := m.queue.erase q } }.setChan q.chan q.ctx.val { st with reserved := st.reserved - ts.length, transit := st.transit ++ ts.map (fun t => (t, n)) }))
      (∀ q rest, m.queue = q :: rest → q.bad = false → q.todo = [] → (∀ z ∈ m.respond, z.hops ≠ 0) →
        (∀ op k w l t v, q.work = .lanes op k w l t v → goes q { m with flags := m.flags.set q.ctx.val (m.flags.get q.ctx ||| q.resp.flags) q.ctx.isLt } [{ q.resp with flags := 0, round := q.round, ctx := q.ctx, gen := q.gen }]) ∧
        ∀ op k lv, q.work = .stop op k lv →
          let ty : EType := if op < 4 then EType.ofCode (k.toNat / 2 ^ 20 % 16) else if op = 4 then .i8 else .i64
          let stop (f : FlagSet) : Token := ⟨f, q.round, q.ctx, q.gen, ty, lv, 0, Vector.replicate 16 0⟩
          (lv ≠ 7 → goes q m [stop 0]) ∧
          (lv = 7 → let clear := { m with flags := m.flags.set q.ctx.val 0 q.ctx.isLt }
            (op < 5 → goes q clear [stop (m.flags.get q.ctx ||| q.resp.flags)]) ∧
            (5 ≤ op → ∃ st : Token, goes q clear [st, stop (m.flags.get q.ctx ||| q.resp.flags)] ∧ st.flags = 0 ∧ st.round = q.round ∧ st.ctx = q.ctx ∧ st.gen = q.gen ∧ st.etype = .i64 ∧ st.stop = 0 ∧ st.valid = 7 ∧ st.lanes = q.resp.lanes))) ∧
      ∀ (q : MtReq) (t : Nat), m.queue = [] → m.respond.filter (fun z => z.hops == 0) = [q] → q.work.thread? = some t →
        exec (.mtResponse rgn mt) s = .next ((s.setRegion rgn { r with mts := tput r.mts mt { m with respond := away } }).onThread t (fun th => { th with reply := some q.off })))

/-- Element integer instructions, compares, predicates and bit fields (R215 to R217, R222, R226, R228, R245): each lane that is valid in its operands and
kept by predication holds the stated result of its operands' low bits, other lanes are invalid; SA is raised where a sum is clamped, no other flag;
latency and unit cycles as in the table. -/
def Obligations.IntegerElementResults : Prop :=
  ∀ (s : State) (x : ECtx) (e : EWord), s.elemAt = some x →
    let t := wType e.w.val
    let w := etypeWidth t
    let v (sl : Slot) (l : Fin 16) : BitVec w := BitVec.ofNat w ((x.operand e sl).lanes.get l).toNat
    let top : Int := 2 ^ (w - 1) - 1
    let clamp (z : Int) : Res := if top < z then ⟨top.toNat, SA⟩ else if z < -top - 1 then ⟨2 ^ (w - 1), SA⟩ else ⟨(BitVec.ofInt w z).toNat, 0⟩
    let plain (r : BitVec w) : Res := ⟨r.toNat, 0⟩
    let say (b : Bool) : Res := ⟨b.toNat, 0⟩
    let ones (a : BitVec w) : Nat := ((List.range w).filter (fun i => a.getLsbD i)).length
    let bit (sl : Slot) (l : Fin 16) : Bool := ((x.operand e sl).lanes.get l).getLsbD 0
    let two (f : BitVec w → BitVec w → Res) (l : Fin 16) : Option Res := if x.on e [.l, .r] l then some (f (v .l l) (v .r l)) else none
    let one (f : BitVec w → Res) (l : Fin 16) : Option Res := if x.on e [.l] l then some (f (v .l l)) else none
    let desc (l : Fin 16) : Nat := ((x.operand e .r).lanes.get l).toNat
    let pos (l : Fin 16) : Nat := desc l % 2 ^ 6
    let len (l : Fin 16) : Nat := min 64 (desc l / 2 ^ 6 % 2 ^ 7)
    let k := if t = .i64 then 4 else 3
    let u := if t = .i64 then 2 else 1
    (∀ c ∈ [(Instr.iadd e, 1, 1, two fun a b => plain (a + b)), (.isub e, 1, 1, two fun a b => plain (a - b)), (.iadds e, 1, 1, two fun a b => clamp (a.toInt + b.toInt)),
        (.isubs e, 1, 1, two fun a b => clamp (a.toInt - b.toInt)), (.imul e, k, u, two fun a b => plain (a * b)), (.imulh e, k, u, two fun a b => plain (BitVec.ofInt w (a.toInt * b.toInt / 2 ^ w))),
        (.imad e, k, u, fun l => if x.on e [.l, .r, .t] l then some (plain (v .l l * v .r l + v .t l)) else none),
        (.imin e, 1, 1, two fun a b => plain (if a.toInt < b.toInt then a else b)), (.imax e, 1, 1, two fun a b => plain (if a.toInt < b.toInt then b else a)),
        (.iabs e, 1, 1, one fun a => plain (if a.toInt < 0 then -a else a)), (.ineg e, 1, 1, one fun a => plain (-a)), (.ishl e, 1, 1, two fun a b => plain (a <<< (b.toNat % w))),
        (.ishr e, 1, 1, two fun a b => plain (a >>> (b.toNat % w))), (.isar e, 1, 1, two fun a b => plain (a.sshiftRight (b.toNat % w))), (.iand e, 1, 1, two fun a b => plain (a &&& b)),
        (.ior e, 1, 1, two fun a b => plain (a ||| b)), (.ixor e, 1, 1, two fun a b => plain (a ^^^ b)), (.inot e, 1, 1, one fun a => plain (~~~a)),
        (.iclz e, 1, 1, one fun a => ⟨if a = 0 then w else w - 1 - Nat.log2 a.toNat, 0⟩), (.ipopc e, 1, 1, one fun a => ⟨ones a, 0⟩),
        (.iminu e, 1, 1, two fun a b => plain (if a.toNat < b.toNat then a else b)), (.imaxu e, 1, 1, two fun a b => plain (if a.toNat < b.toNat then b else a)),
        (.bfx e, 1, 1, fun l => if x.on e [.l, .r] l then
          (let f := (v .l l).toNat / 2 ^ pos l % 2 ^ len l
           let neg : Bool := (desc l / 2 ^ 13 % 2 == 1) && decide (0 < len l) && f.testBit (len l - 1)
           some (plain (BitVec.ofInt w ((f : Int) - if neg then 2 ^ len l else 0)))) else none),
        (.bfi e, 1, 1, fun l => if x.on e [.l, .r, .t] l then
          some (plain (BitVec.ofFnLE (fun (i : Fin w) => if pos l ≤ i.val ∧ i.val < pos l + len l then ((x.operand e .t).lanes.get l).getLsbD (i.val - pos l) else (v .l l).getLsbD i.val))) else none)],
      x.data c.1 e → x.gives s c.1 e c.2.1 c.2.2.1 t c.2.2.2) ∧
    (∀ c ∈ [(Instr.icmpEq e, two fun a b => say (a == b)), (.icmpNe e, two fun a b => say (a != b)), (.icmpLt e, two fun a b => say (decide (a.toInt < b.toInt))),
        (.icmpLe e, two fun a b => say (decide (a.toInt ≤ b.toInt))), (.icmpLtu e, two fun a b => say (decide (a.toNat < b.toNat))), (.icmpLeu e, two fun a b => say (decide (a.toNat ≤ b.toNat))),
        (.pand e, fun l => if x.on e [.l, .r] l then some (say (bit .l l && bit .r l)) else none), (.por e, fun l => if x.on e [.l, .r] l then some (say (bit .l l || bit .r l)) else none),
        (.pnot e, fun l => if x.on e [.l] l then some (say (!bit .l l)) else none)],
      x.data c.1 e → x.gives s c.1 e 1 1 .i8 c.2)

/-- Element floating point (R215 to R217, R223 to R226, R229 to R232): each active lane holds the one rounding, in the task mode, of its operation on the
lanes read in the W format; compares give predicates; CVT converts from L's ETYPE in the mode it names; MXQ and MXDQ apply the block scale of their
lane (an E5M2 signalling NaN under a NaN scale: log 43); flags are those of the active lanes; latency and unit cycles as in the table. -/
def Obligations.FloatElementResults : Prop :=
  ∀ (s : State) (x : ECtx) (e : EWord) (f : Fmt) (dest : EType), s.elemAt = some x →
    let t := wType e.w.val
    let m := x.block.tmode
    let rs (l : Fin 16) : Rsh := ⟨l.val, x.round.num % 2 ^ 15, x.block.seed⟩
    let v (sl : Slot) (l : Fin 16) : Nat := ((x.operand e sl).lanes.get l).toNat % 2 ^ etypeWidth t
    let one (g : Rm → Rsh → Nat → Res) (l : Fin 16) : Option Res := if x.on e [.l] l then some (g m (rs l) (v .l l)) else none
    let two (g : Rm → Rsh → Nat → Nat → Res) (l : Fin 16) : Option Res := if x.on e [.l, .r] l then some (g m (rs l) (v .l l) (v .r l)) else none
    let fma (a b : Bool) (l : Fin 16) : Option Res := if x.on e [.l, .r, .t] l then some (f.fma m (rs l) a b (v .l l) (v .r l) (v .t l)) else none
    let wide := if t = .fp64 then 2 else 1
    let lat (a b c : Nat) : Nat := if t = .fp64 then c else if t = .fp32 then b else a
    let src := (x.operand e .l).etype
    let elem (l : Fin 16) : Nat := ((x.operand e .l).lanes.get l).toNat % 2 ^ etypeWidth src
    let mode : Rm := match e.w.val with | 0 => .rne | 1 => .rtz | 2 => .rup | 3 => .rdn | 4 => .rna | 5 => .rsh | _ => m
    let cvt (sat : Bool) (l : Fin 16) : Option Res := if x.on e [.l] l then some (convert dest sat mode (rs l) (decodeElem src (elem l))) else none
    let word := ((x.operand e .r).lanes.get 0).toNat
    let scale (l : Fin 16) : Scale := scaleOf (((x.operand e .r).lanes.get l).toNat % 2 ^ 20)
    let narrow : Prop := src = .i8 ∨ src = .i4 ∨ src = .e4m3 ∨ src = .e5m2 ∨ src = .e2m1 ∨ src = .e3m2
    (etypeFmt t = .ok f →
    (∀ c ∈ [(Instr.eFadd e, 4, wide, two f.add), (.eFsub e, 4, wide, two f.sub), (.eFmul e, 4, wide, two f.mul), (.eFma e, 4, wide, fma false false), (.fms e, 4, wide, fma false true),
        (.fnma e, 4, wide, fma true false), (.eFdiv e, lat 8 10 16, lat 4 5 8, two f.div), (.eFsqrt e, lat 8 12 20, lat 4 6 10, one f.sqrt), (.eFmin e, 4, wide, two fun _ _ => f.minmax false),
        (.eFmax e, 4, wide, two fun _ _ => f.minmax true), (.frnd e, 4, wide, one f.integral), (.fabs e, 1, 1, one fun _ _ a => ⟨a % 2 ^ (f.width - 1), 0⟩),
        (.fneg e, 1, 1, one fun _ _ a => ⟨(a + 2 ^ (f.width - 1)) % 2 ^ f.width, 0⟩), (.exp2 e, 8, 1, one f.exp2), (.log2 e, 8, 1, one f.log2), (.rcp e, lat 8 8 16, lat 1 1 8, one f.rcp),
        (.rsq e, lat 8 8 20, lat 1 1 10, one f.rsq), (.tanh e, 8, 1, one f.tanh), (.sin e, 8, 1, one f.sin), (.cos e, 8, 1, one f.cos)],
      x.data c.1 e → x.gives s c.1 e c.2.1 c.2.2.1 t c.2.2.2) ∧
    (∀ c ∈ [(Instr.eFcmpEq e, Cmp.eq), (.eFcmpNe e, .ne), (.eFcmpLt e, .lt), (.eFcmpLe e, .le), (.eFcmpUn e, .un), (.eFcmpOrd e, .ord)],
      x.data c.1 e → x.gives s c.1 e 2 1 .i8 (two fun _ _ => f.compare c.2)) ∧
    (x.data (.mxq e) e → (x.operand e .r).valid.getLsbD 0 = true → word / 2 ^ 32 = 0 → word / 2 ^ 28 % 8 = 0 → word / 2 ^ 20 % 16 = 0 → dest.code = word / 2 ^ 24 % 16 →
      dest = .i8 ∨ dest = .i4 ∨ dest = .e4m3 ∨ dest = .e5m2 ∨ dest = .e2m1 ∨ dest = .e3m2 →
      x.gives s (.mxq e) e 3 wide dest (fun l => if x.on e [.l, .r] l then some (mxQuantise dest (word / 2 ^ 31 % 2 == 1) m (rs l) (f.decode (v .l l)) (scale l)) else none)) ∧
    (x.data (.mxdq e) e → narrow → x.gives s (.mxdq e) e 3 wide t (fun l => if x.on e [.l, .r] l then some (f.deliver m (rs l) false (scaled1 (decodeElem src (elem l)).toVal (scale l))) else none)) ∧
    (x.data (.mxdq e) e → ¬ narrow → ∃ tok, x.makes (.mxdq e) e t (fun _ => none) tok ∧ x.delivers s (.mxdq e) e 3 wide tok tok NV id)) ∧
    (x.data (.cvt dest e) e → x.gives s (.cvt dest e) e 3 (if src = .fp64 ∨ dest = .fp64 then 2 else 1) dest (cvt false)) ∧
    (x.data (.cvtSat dest e) e → x.gives s (.cvtSat dest e) e 3 (if src = .fp64 ∨ dest = .fp64 then 2 else 1) dest (cvt true))

/-- Special results of the element functions (R229, R224, R225), FP64 included for RCP, RSQ and FRND: the operands whose results need no rounding; EXP2 of
every whole number whose power the format holds, the reciprocals, roots and logarithms of every power of two, subnormal ones included; NaN with NV for
LOG2 and RSQ of a number below zero. -/
def Obligations.SpecialFunctionsKeepTheirTable : Prop :=
  (∀ f ∈ [Fmt.fp64, .fp32, ⟨5, 10, 15, .ieee⟩, ⟨8, 7, 127, .ieee⟩], ∀ (m : Rm) (rs : Rsh),
    let zero (n : Bool) : Nat := f.signBit n
    let inf (n : Bool) : Nat := f.infBits n
    let nan : Nat := f.canonNan
    let low : Int := f.emin - f.fb
    let pow (n : Bool) (k : Int) : Nat := f.signBit n + if f.emin ≤ k then (f.bias + k).toNat * 2 ^ f.fb else 2 ^ (k - low).toNat
    (∀ n, f.rcp m rs (zero n) = ⟨inf n, DZ⟩ ∧ f.rcp m rs (inf n) = ⟨zero n, 0⟩ ∧ f.rsq m rs (zero n) = ⟨inf n, DZ⟩ ∧ f.integral m rs (zero n) = ⟨zero n, 0⟩ ∧ f.integral m rs (inf n) = ⟨inf n, 0⟩) ∧
    f.rsq m rs (inf true) = ⟨nan, NV⟩ ∧ f.rsq m rs (inf false) = ⟨0, 0⟩ ∧
    (∀ a, a < 2 ^ f.width → (f.decode a).isNan = true → ∀ g ∈ [f.rcp, f.rsq, f.integral], g m rs a = ⟨nan, if (f.decode a).isSig then NV else 0⟩) ∧
    (∀ a mm e, a < 2 ^ f.width → f.decode a = .fin true mm e → mm ≠ 0 → f.rsq m rs a = ⟨nan, NV⟩) ∧
    (∀ a n mm e, a < 2 ^ f.width → f.decode a = .fin n mm e → 0 ≤ e → f.integral m rs a = ⟨a, 0⟩) ∧
    ∀ k : Int, low ≤ k → k ≤ f.bias → (∀ n, low ≤ -k → -k ≤ f.bias → f.rcp m rs (pow n k) = ⟨pow n (-k), 0⟩) ∧ (k % 2 = 0 → f.rsq m rs (pow false k) = ⟨pow false (-(k / 2)), 0⟩)) ∧
  ∀ f ∈ [Fmt.fp32, ⟨5, 10, 15, .ieee⟩, ⟨8, 7, 127, .ieee⟩], ∀ (m : Rm) (rs : Rsh),
    let zero (n : Bool) : Nat := f.signBit n
    let inf (n : Bool) : Nat := f.infBits n
    let one (n : Bool) : Nat := f.signBit n + f.bias * 2 ^ f.fb
    let low : Int := f.emin - f.fb
    let pow (k : Int) : Nat := if f.emin ≤ k then (f.bias + k).toNat * 2 ^ f.fb else 2 ^ (k - low).toNat
    let nan : Nat := f.canonNan
    (∀ n, f.exp2 m rs (zero n) = ⟨one false, 0⟩ ∧ f.log2 m rs (zero n) = ⟨inf true, DZ⟩ ∧ f.tanh m rs (zero n) = ⟨zero n, 0⟩ ∧ f.tanh m rs (inf n) = ⟨one n, 0⟩ ∧ f.sin m rs (zero n) = ⟨zero n, 0⟩ ∧
      f.sin m rs (inf n) = ⟨nan, NV⟩ ∧ f.cos m rs (zero n) = ⟨one false, 0⟩ ∧ f.cos m rs (inf n) = ⟨nan, NV⟩) ∧
    f.exp2 m rs (inf true) = ⟨0, 0⟩ ∧ f.exp2 m rs (inf false) = ⟨inf false, 0⟩ ∧ f.log2 m rs (inf true) = ⟨nan, NV⟩ ∧ f.log2 m rs (inf false) = ⟨inf false, 0⟩ ∧
    (∀ a, a < 2 ^ f.width → (f.decode a).isNan = true → ∀ g ∈ [f.exp2, f.log2, f.tanh, f.sin, f.cos], g m rs a = ⟨nan, if (f.decode a).isSig then NV else 0⟩) ∧
    (∀ a mm e, a < 2 ^ f.width → f.decode a = .fin true mm e → mm ≠ 0 → f.log2 m rs a = ⟨nan, NV⟩) ∧
    (∀ a n mm e, ∀ z : Int, a < 2 ^ f.width → f.decode a = .fin n mm e → (f.decode a).rat = z → low ≤ z → z ≤ f.bias → f.exp2 m rs a = ⟨pow z, 0⟩) ∧
    ∀ k : Int, low ≤ k → k ≤ f.bias → (f.decode (f.log2 m rs (pow k)).bits).rat = k ∧ (f.log2 m rs (pow k)).flags = 0

/-- Lane movement (R217, R218, R227, R233, R234, R237 to R239, R261 to R263): which lane of which operand each result lane copies, and when it is valid,
for both results; each carries L's ETYPE, but for the counts; SORTE leaves equal keys in their lanes' order. The stop rule (R218, R366): where every
used token is a stop of one level, an element instruction passes a stop of that level on, of the result's ETYPE, and raises nothing (TOPK of its two
results' ETYPEs, BNET in both its forms); where the levels differ, its round never commits, its region begins to freeze and the fault's record, of
kind 1, waits. -/
def Obligations.LanesMoveAndStopsPass : Prop :=
  (
    ∀ (s : State) (x : ECtx) (e : EWord), s.elemAt = some x →
      let a := x.operand e .l
      let b := x.operand e .r
      let get (t : Token) (j : Int) : Option Word := if h : 0 ≤ j ∧ j < 16 then (if t.valid.getLsbD j.toNat then some (t.lanes.get ⟨j.toNat, by omega⟩) else none) else none
      let keep (f : Fin 16 → Option Word) (l : Fin 16) : Option Word := if x.kept e l then f l else none
      let all (t : Token) : List Word := (List.finRange 16).filterMap (fun l => if t.valid.getLsbD l.val then some (t.lanes.get l) else none)
      let pack (vs : List Word) (l : Fin 16) : Option Word := vs[l.val]?
      let count (n : Nat) : Word := BitVec.ofNat 64 n
      let joined := all a ++ all b
      let yields (i : Instr) (lat unit : Nat) (ty : EType) (f1 f2 : Fin 16 → Option Word) : Prop :=
        x.data i e → ∃ t1 t2, x.makes i e ty (keep f1) t1 ∧ x.makes i e ty (keep f2) t2 ∧ x.delivers s i e lat unit t1 t2 0 id
      let same (i : Instr) (lat unit : Nat) (f : Fin 16 → Option Word) : Prop := yields i lat unit a.etype f f
      let unit := if wType e.w.val = .fp64 ∨ wType e.w.val = .i64 then 2 else 1
      same (.sel e) 1 1 (fun l => (get (x.operand e .t) l.val).bind (fun p => get (if p.getLsbD 0 then a else b) l.val)) ∧
      same (.lperm e) 2 1 (fun l => (get b l.val).bind (fun c => get a (c.toNat % 16 : Nat))) ∧
      same (.lshf e) 2 1 (fun l => (get b 0).bind (fun c => let j : Int := l.val - (BitVec.ofNat 5 c.toNat).toInt
        get a (if c.getLsbD 5 then j % 16 else j))) ∧
      same (.lbcast e) 2 1 (fun _ => (get b 0).bind (fun c => get a (c.toNat % 16 : Nat))) ∧
      yields (.lidx e) 2 1 (wType e.w.val) (fun l => (get a l.val).map (fun _ => count ((List.finRange 16).filter (fun j => decide (j < l) && a.valid.getLsbD j.val)).length))
        (fun l => (get a l.val).map (fun _ => count ((List.finRange 16).filter (fun j => decide (j < l) && a.valid.getLsbD j.val)).length)) ∧
      yields (.lcnt e) 2 1 (wType e.w.val) (fun l => if l = 0 then some (count (all a).length) else none) (fun l => if l = 0 then some (count (all a).length) else none) ∧
      same (.cmpct e) 2 1 (pack (all a)) ∧
      yields (.split e) 1 1 a.etype (fun l => (get b l.val).bind (fun p => if p.getLsbD 0 then get a l.val else none)) (fun l => (get b l.val).bind (fun p => if p.getLsbD 0 then none else get a l.val)) ∧
      yields (.join e) 2 1 a.etype (pack (if 16 ≤ joined.length then joined.take 16 else [])) (pack (if 16 ≤ joined.length then joined.drop 16 else joined)) ∧
      same (.fan e) 1 1 (fun l => get a l.val) ∧
      (let second (l : Fin 16) : Bool := match get a l.val, get b l.val with
        | some p, some q => keyLt e q p
        | none, some _ => true
        | _, none => false
       yields (.cmpx e) 2 unit a.etype (fun l => get (if second l then b else a) l.val) (fun l => get (if second l then a else b) l.val)) ∧
      (∃ vs : List Word, vs.Perm (all a) ∧ vs.Pairwise (fun p q => keyLt e q p = false) ∧
        (∀ v, vs.filter (fun p => !keyLt e p v && !keyLt e v p) = (all a).filter (fun p => !keyLt e p v && !keyLt e v p)) ∧ same (.sorte e) 10 5 (pack vs))) ∧
  (
    ∀ (s : State) (x : ECtx) (e : EWord) (dest : EType) (lv : Fin 8), s.elemAt = some x →
      let t := wType e.w.val
      let a := (x.operand e .l).etype
      let word := ((x.operand e .r).lanes.get 0).toNat
      let mx : EType := if (x.operand e .r).valid.getLsbD 0 ∧ word / 2 ^ 24 % 16 ∈ [7, 12, 13, 14, 15] then EType.ofCode (word / 2 ^ 24 % 16) else .i8
      let stop (i : Instr) (ty : EType) : Token := ⟨0, BitVec.ofNat 15 x.round.num, x.round.ctx, x.gen i e, ty, lv, 0, Vector.replicate 16 0⟩
      let bn : EType := if x.k.getLsbD 3 then a else t
      let allStop (i : Instr) : Prop := lv ≠ 0 ∧ Instr.tokenSlots i ≠ [] ∧ ∀ sl ∈ Instr.tokenSlots i, (x.operand e sl).stop = lv
      let differ (i : Instr) : Prop := (∃ sl ∈ Instr.tokenSlots i, ∃ sl' ∈ Instr.tokenSlots i, (x.operand e sl).stop ≠ (x.operand e sl').stop) → ∃ u r, exec i s = .next u ∧ s.sameMemory u ∧ u.threads = s.threads ∧
          u.region x.ref.rgn = some r ∧ (x.rgn.frozen = false → r.freezing = true) ∧ r.chans = x.rgn.chans ∧
          (∃ f, f.record.kind = 1 ∧ f.record.ctx = x.round.ctx ∧ f.gone = false ∧ r.faults.Perm (f :: x.rgn.faults)) ∧
          r.ces = tput x.rgn.ces x.ref.ce { x.ce with rounds := x.ce.rounds.set x.ref.round { x.round with bad := true } }
      (allStop (.topk e) → x.delivers s (.topk e) e 4 2 (stop (.topk e) t) (stop (.topk e) .i8) 0 id) ∧ differ (.topk e) ∧
      (∀ i ∈ [Instr.bnet e, .bnetLoad e], allStop i → x.delivers s i e 2 1 (stop i bn) (stop i bn) 0 id) ∧
      ∀ c ∈ [(Instr.iadd e, t), (.isub e, t), (.iadds e, t), (.isubs e, t), (.imul e, t), (.imulh e, t), (.imad e, t), (.imin e, t), (.imax e, t), (.iabs e, t), (.ineg e, t), (.ishl e, t), (.ishr e, t), (.isar e, t), (.iand e, t),
          (.ior e, t), (.ixor e, t), (.inot e, t), (.iclz e, t), (.ipopc e, t), (.iminu e, t), (.imaxu e, t), (.eFadd e, t), (.eFsub e, t), (.eFmul e, t), (.eFma e, t), (.fms e, t), (.fnma e, t), (.eFdiv e, t), (.eFsqrt e, t),
          (.eFmin e, t), (.eFmax e, t), (.fabs e, t), (.fneg e, t), (.frnd e, t), (.icmpEq e, .i8), (.icmpNe e, .i8), (.icmpLt e, .i8), (.icmpLe e, .i8), (.icmpLtu e, .i8), (.icmpLeu e, .i8), (.eFcmpEq e, .i8), (.eFcmpNe e, .i8),
          (.eFcmpLt e, .i8), (.eFcmpLe e, .i8), (.eFcmpUn e, .i8), (.eFcmpOrd e, .i8), (.pand e, .i8), (.por e, .i8), (.pnot e, .i8), (.exp2 e, t), (.log2 e, t), (.rcp e, t), (.rsq e, t), (.tanh e, t), (.sin e, t), (.cos e, t),
          (.mxq e, mx), (.mxdq e, t), (.lred e, t), (.lscan e, t), (.lidx e, t), (.lcnt e, t), (.bfx e, t), (.bfi e, t), (.gmax e, t), (.renorm e, t), (.cvt dest e, dest), (.cvtSat dest e, dest), (.sel e, a), (.lperm e, a), (.lshf e, a),
          (.lbcast e, a), (.split e, a), (.join e, a), (.cmpct e, a), (.fan e, a), (.cmpx e, a), (.sorte e, a)],
        (allStop c.1 → x.delivers s c.1 e (Instr.latency c.1) (Instr.unitCycles c.1 a x.k) (stop c.1 c.2) (stop c.1 c.2) 0 id) ∧ differ c.1)

/-- STOPQ, STOPG, MARK and BNET (R240 to R244): stop levels become data and data stop levels as R lane 0 says (predication of what is made of a stop, and
an absent R lane 0: log 28); BNET's apply form selects each result bit from the lane pair by a byte of its pattern, and its load form notes two
patterns for the round's commit and passes L on. Gate instructions (R392 to R395): GMAX gives each lane its group's greatest valid value; TOPK the
greatest k candidates in L's lanes and their lane numbers in rank order, equal values the lower lane first, NaNs no candidates; RENORM divides each
lane by the exact sum, falls back to 1 / n for a small sum and drops a token with a NaN or an infinity, counting both (an absent R lane 0 reads as 0:
log 28). Reductions and scans (R47, R48, R235, R236): LRED leaves in lane 0 the value of the tree of R47 over L's lanes, invalid ones standing for the
identity, and LSCAN in each valid lane the combination of the lanes up to it; on an integer type that is the sum, product, bitwise result or extreme
of the valid lanes; a constant that the type does not accept gives no lane and NV (log 28). -/
def Obligations.StopLevelsGatesAndReductions : Prop :=
  (
    ∀ (s : State) (x : ECtx) (e : EWord), s.elemAt = some x →
      let a := x.operand e .l
      let b := x.operand e .r
      let w := etypeWidth (wType e.w.val)
      let r0 : Nat := if b.valid.getLsbD 0 then (b.lanes.get 0).toNat else 0
      let k := r0 % 2 ^ 3
      let lane (l : Fin 16) : Option Word := if a.valid.getLsbD l.val && x.kept e l then some (a.lanes.get l) else none
      let data (i : Instr) (ty : EType) (f : Fin 16 → Option Word) : Prop := ∃ t, x.makes i e ty f t ∧ x.delivers s i e 1 1 t t 0 id
      let stop (i : Instr) (lv : Nat) : Prop := ∃ t : Token, t.flags = 0 ∧ t.round = BitVec.ofNat 15 x.round.num ∧ t.ctx = x.round.ctx ∧ t.gen = x.gen i e ∧ t.etype = a.etype ∧ t.stop.val = lv ∧ x.delivers s i e 1 1 t t 0 id
      let d := (BitVec.ofNat 4 r0).toInt
      (a.stop = 0 → data (.stopq e) .i8 (fun l => (lane l).map (fun _ => 0))) ∧
      (1 ≤ a.stop.val → a.stop.val ≤ 6 → data (.stopq e) .i8 (fun l => if x.kept e l then some (if k ≤ a.stop.val then 1 else 0) else none)) ∧ (a.stop = 7 → stop (.stopq e) 7) ∧
      (a.stop = 0 → (1 ≤ k ∧ k ≤ 6 → stop (.stopg e) k) ∧ (k = 0 ∨ k = 7 → data (.stopg e) a.etype lane)) ∧ (a.stop ≠ 0 → stop (.stopg e) a.stop.val) ∧
      (a.stop = 0 → data (.mark e) a.etype lane) ∧ (a.stop = 7 → stop (.mark e) 7) ∧
      (1 ≤ a.stop.val → a.stop.val ≤ 6 → ((a.stop.val : Int) + d ≤ 0 → data (.mark e) a.etype (fun _ => none)) ∧ (0 < (a.stop.val : Int) + d → stop (.mark e) (min 6 (a.stop.val + d).toNat))) ∧
      ∀ i ∈ [Instr.bnet e, .bnetLoad e], x.data (.bnet e) e →
        (x.k.getLsbD 3 = false →
          let byte (n : Nat) : Byte := (x.ce.bn.get ⟨x.k.toNat % 8, Nat.mod_lt _ (by decide)⟩).getD n 0
          let pair (l : Fin 16) (n : Nat) : Bool := if n < 64 then (a.lanes.get l).getLsbD n else a.valid.getLsbD ((l.val + 1) % 16) && (a.lanes.get (l + 1)).getLsbD (n - 64)
          ∃ t, x.makes i e (wType e.w.val) (fun l => (lane l).map (fun _ => BitVec.ofFnLE (fun (n : Fin 64) => decide (n.val < w) && !(byte n.val).getLsbD 7 && pair l ((byte n.val).toNat % 128)))) t ∧ x.delivers s i e 2 1 t t 0 id) ∧
        (x.k.getLsbD 3 = true → a.stop = 0 →
          let j := 2 * (x.k.toNat % 4)
          ∃ t, x.makes i e a.etype lane t ∧ x.delivers s i e 2 1 t t 0 (fun rd => { rd with loads := rd.loads ++ [(j, a.payload.take 64), (j + 1, a.payload.drop 64)] }))) ∧
  (
    ∀ (s : State) (x : ECtx) (e : EWord), s.elemAt = some x →
      let t := wType e.w.val
      let w := etypeWidth t
      let a := x.operand e .l
      let word := ((x.operand e .r).lanes.get 0).toNat
      let val (l : Fin 16) : Nat := (a.lanes.get l).toNat % 2 ^ w
      let int (l : Fin 16) : Int := (BitVec.ofNat w (val l)).toInt
      let on (l : Fin 16) : Bool := a.valid.getLsbD l.val
      let wide := if t = .fp64 ∨ t = .i64 then 2 else 1
      let group := 2 ^ min 4 (word % 8)
      (x.data (.gmax e) e → ∃ f : Fin 16 → Option Res, x.gives s (.gmax e) e 2 wide t f ∧
        (∀ l, (f l).isSome = (x.kept e l && (List.finRange 16).any (fun j => on j && j.val / group == l.val / group))) ∧
        ∀ l r, f l = some r →
          ((∀ fm, etypeFmt t ≠ .ok fm) → r.flags = 0 ∧ (∃ j, on j = true ∧ j.val / group = l.val / group ∧ val j = r.bits) ∧ ∀ j, on j = true → j.val / group = l.val / group → int j ≤ (BitVec.ofNat w r.bits).toInt) ∧
          (∀ fm, etypeFmt t = .ok fm → (∀ j, on j = true → j.val / group = l.val / group → (fm.decode (val j)).isNan = false) →
            r.flags = 0 ∧ (∃ j, on j = true ∧ j.val / group = l.val / group ∧ val j = r.bits) ∧ ∀ j, on j = true → j.val / group = l.val / group → ¬ (fm.decode r.bits).less (fm.decode (val j)))) ∧
      (let nan (l : Fin 16) : Bool := match etypeFmt t with | .ok fm => (fm.decode (val l)).isNan | .error _ => false
       let sig (l : Fin 16) : Bool := match etypeFmt t with | .ok fm => (fm.decode (val l)).isSig | .error _ => false
       let cand (l : Fin 16) : Bool := on l && !nan l
       let before (i j : Fin 16) : Prop := keyLt e (a.lanes.get j) (a.lanes.get i) = true ∨ (keyLt e (a.lanes.get i) (a.lanes.get j) = false ∧ i < j)
       x.data (.topk e) e → ∃ (order : List (Fin 16)) (t1 t2 : Token),
        order.Nodup ∧ (∀ l ∈ order, cand l = true) ∧ order.length = min (min 16 (word % 32)) ((List.finRange 16).filter cand).length ∧
        order.Pairwise before ∧ (∀ l ∈ order, ∀ j, cand j = true → j ∉ order → before l j) ∧
        x.makes (.topk e) e t (fun l => if l ∈ order ∧ x.kept e l then some (BitVec.ofNat 64 (val l)) else none) t1 ∧
        x.makes (.topk e) e .i8 (fun l => if x.kept e l then (order[l.val]?).map (fun j => BitVec.ofNat 64 j.val) else none) t2 ∧
        x.delivers s (.topk e) e 4 2 t1 t2 (if (List.finRange 16).any (fun l => on l && x.kept e l && sig l) then NV else 0) id) ∧
      ∀ fm, x.data (.renorm e) e → etypeFmt t = .ok fm →
        let lat := if t = .fp64 then 24 else 16
        let unit := if t = .fp64 then 4 else 2
        let vs := ((List.finRange 16).filter on).map (fun l => fm.decode (val l))
        let finite : Prop := ∀ v ∈ vs, ∃ n m k, v = .fin n m k
        let sum : Rat := (vs.map FVal.rat).sum
        let fix (u : State) (f : Fin 16 → Option Res) (extra : FlagSet) : Prop := ∃ tok, x.makes (.renorm e) e t (fun l => (f l).map (fun r => BitVec.ofNat 64 r.bits)) tok ∧
          exec (.renorm e) s = .next (x.after u e lat unit tok tok ((List.finRange 16).foldl (fun fl l => fl ||| ((f l).map (fun r => r.flags)).getD 0) extra) id)
        (vs = [] → fix s (fun _ => none) 0) ∧
        (vs ≠ [] → ¬ finite → fix (s.bump x.rgn.part 0x400 95 64 1) (fun _ => none) NV) ∧
        (vs ≠ [] → finite → sum < (1 : Rat) / 2 ^ 126 → fix (s.bump x.rgn.part 0x400 127 96 1) (fun l => if x.on e [.l] l then some (fm.round .rne Rsh.zero false ⟨false, 1, vs.length, false⟩) else none) 0) ∧
        (finite → (1 : Rat) / 2 ^ 126 ≤ sum → ∃ (q : Nat) (k : Int), (q : Rat) * (2 : Rat) ^ k = sum ∧
          fix s (fun l => if x.on e [.l] l then some (fm.divVals x.block.tmode ⟨l.val, x.round.num % 2 ^ 15, x.block.seed⟩ (fm.decode (val l)) (.fin false q k)) else none) 0)) ∧
  (
    ∀ (s : State) (x : ECtx) (e : EWord), s.elemAt = some x →
      let t := wType e.w.val
      let w := etypeWidth t
      let a := x.operand e .l
      let float : Bool := t == .fp32 || t == .fp64 || t == .fp16 || t == .bf16
      let lat := if t = .fp64 then 24 else if float then 16 else 4
      let unit := if t = .fp64 then 2 else 1
      let op := x.k.toNat
      let leaf (n : Nat) : Nat := match (List.finRange 16)[n]? with
        | some l => if a.valid.getLsbD l.val then (a.lanes.get l).toNat % 2 ^ w else redIdentity t op
        | none => 0
      let f (l p q : Nat) : Res := redOp t op x.block.tmode ⟨l, x.round.num % 2 ^ 15, x.block.seed⟩ p q
      let node (a b : Res) (l : Nat) : Res := let r := f l a.bits b.bits
        ⟨r.bits, a.flags ||| b.flags ||| r.flags⟩
      let t1 (l : Nat) : Res := node ⟨leaf l, 0⟩ ⟨leaf (l + 1), 0⟩ l
      let t2 (l : Nat) : Res := node (t1 l) (t1 (l + 2)) l
      let t3 (l : Nat) : Res := node (t2 l) (t2 (l + 4)) l
      let valid (n : Nat) : List (BitVec w) := (List.finRange 16).filterMap (fun l => if l.val < n ∧ a.valid.getLsbD l.val then some (BitVec.ofNat w (a.lanes.get l).toNat) else none)
      let whole (n : Nat) (r : BitVec w) : Prop := match op with
        | 0 => r = (valid n).foldl (· + ·) 0
        | 1 => r = (valid n).foldl (· * ·) 1
        | 2 => valid n ≠ [] → r ∈ valid n ∧ ∀ v ∈ valid n, r.toInt ≤ v.toInt
        | 3 => valid n ≠ [] → r ∈ valid n ∧ ∀ v ∈ valid n, v.toInt ≤ r.toInt
        | 4 => r = (valid n).foldl (· &&& ·) (BitVec.allOnes w)
        | 5 => r = (valid n).foldl (· ||| ·) 0
        | 6 => r = (valid n).foldl (· ^^^ ·) 0
        | 7 => valid n ≠ [] → r ∈ valid n ∧ ∀ v ∈ valid n, r.toNat ≤ v.toNat
        | _ => valid n ≠ [] → r ∈ valid n ∧ ∀ v ∈ valid n, v.toNat ≤ r.toNat
      let none' (i : Instr) : Prop := ∃ tok, x.makes i e t (fun _ => none) tok ∧ x.delivers s i e lat unit tok tok NV id
      x.data (.lred e) e → x.data (.lscan e) e →
        (op < (if float then 4 else 9) → x.gives s (.lred e) e lat unit t (fun l => if l = 0 ∧ x.kept e 0 then some (node (t3 0) (t3 8) 0) else none)) ∧
        (float = false → op < 9 → whole 16 (BitVec.ofNat w (node (t3 0) (t3 8) 0).bits) ∧
          ∃ r : Fin 16 → BitVec w, x.gives s (.lscan e) e lat unit t (fun l => if a.valid.getLsbD l.val && x.kept e l then some ⟨(r l).toNat, 0⟩ else none) ∧ ∀ l, whole (l.val + 1) (r l)) ∧
        (float = true → op < 4 → ∃ r : Fin 16 → Res, x.gives s (.lscan e) e lat unit t (fun l => if a.valid.getLsbD l.val && x.kept e l then some (r l) else none) ∧
          r 1 = settleNan t (t1 0) ∧ r 2 = settleNan t (node (t1 0) ⟨leaf 2, 0⟩ 2) ∧ r 6 = settleNan t (node (node (t2 0) (t1 4) 6) ⟨leaf 6, 0⟩ 6) ∧ r 15 = settleNan t (node (t3 0) (t3 8) 0)) ∧
        ((if float then 4 else 9) ≤ op → none' (.lred e) ∧ none' (.lscan e)))

/-- Channel and memory-tile instructions of elements (R180 to R182, R221, R267 to R269): POP delivers the claimed token, cut by predication (log 28), PUSH
notes its operand for its channel, BQW the lowest valid lane or nothing, and the memory-tile instructions a request to the tile their constant names,
with the lanes valid in every operand and kept; a stop is noted as a stop. -/
def Obligations.ChannelAndTileInstructionsNoteTheirWork : Prop :=
  ∀ (s : State) (x : ECtx) (e : EWord), s.elemAt = some x →
    let a := x.operand e .l
    let out (b : Nat) : Nat := ((x.rgn.image.bind (fun i => i.chans.findIdx? (fun k => k.from' == .block x.round.block b)))).getD 0
    let port := out (x.block.endpoint x.ref.instr)
    let cut (t u : Token) : Prop := u.flags = t.flags ∧ u.round = t.round ∧ u.ctx = t.ctx ∧ u.gen = t.gen ∧ u.etype = t.etype ∧ u.stop = t.stop ∧ (e.p = .none → u = t) ∧
      ∀ l : Fin 16, u.valid.getLsbD l.val = (t.valid.getLsbD l.val && x.kept e l) ∧ (u.valid.getLsbD l.val = true → u.lanes.get l = t.lanes.get l)
    (∀ t, x.round.vals.find? (fun v => v.1 == x.ref.instr && v.2.1 == .l) = some (x.ref.instr, .l, t) → ∃ u, cut t u ∧ x.delivers s (.pop e) e 0 0 u u 0 id) ∧
    (let agree (i : Instr) : Prop := ∀ p ∈ Instr.tokenSlots i, ∀ q ∈ Instr.tokenSlots i, (x.operand e p).stop = (x.operand e q).stop
     (agree (.push e) → ∃ u, cut a u ∧ x.delivers s (.push e) e 0 0 Token.empty Token.empty 0 (fun rd => { rd with pushes := rd.pushes ++ [(port, u)] })) ∧
     (agree (.bqw e) → ∃ v : Option Word, x.delivers s (.bqw e) e 0 0 Token.empty Token.empty 0 (fun rd => { rd with bqws := rd.bqws ++ [(port, v)] }) ∧ (a.stop ≠ 0 → v = none) ∧
       (a.stop = 0 → v = some ((((List.finRange 16).find? (fun l => a.valid.getLsbD l.val && x.kept e l)).map (fun l => a.lanes.get l)).getD 0))) ∧
     ∀ io ∈ [(Instr.mtgat e, 0), (.mtsct e, 1), (.mtsca e, 2), (.mtamo e, 3), (.mttas e, 4), (.mtbin e, 5), (.mtrule e, 6)], agree io.1 →
       let used := (Instr.tokenSlots io.1).filter (fun z => z != .p)
       let tile := x.k.toNat / 2 ^ 13 % 16 * 32 + x.k.toNat / 2 ^ 8 % 32
       let ty : EType := if io.2 < 4 then EType.ofCode (x.k.toNat / 2 ^ 20 % 16) else if io.2 = 4 then .i8 else .i64
       ∃ q : MtReq, x.delivers s io.1 e 0 0 Token.empty Token.empty 0 (fun rd => { rd with reqs := rd.reqs ++ [(q, tile)] }) ∧ q.ctx = x.round.ctx ∧ q.gen = x.gen io.1 e ∧ q.round = BitVec.ofNat 15 x.round.num ∧ q.ce = x.ref.ce ∧ q.instr = x.ref.instr ∧
         q.chan = port ∧ q.resp.etype = ty ∧ q.bad = false ∧
         (a.stop = 0 → ∃ v : BitVec 16, q.work = .lanes io.2 x.k (etypeWidth (wType e.w.val)) a (x.operand e .t) v ∧ q.resp.valid = v ∧ (∀ l : Fin 16, v.getLsbD l.val = x.on e used l) ∧ q.todo = (List.finRange 16).filter (fun l => x.on e used l)) ∧
         (a.stop ≠ 0 → q.work = .stop io.2 x.k a.stop ∧ q.todo = if a.stop = 7 ∧ 5 ≤ io.2 then [0] else []))

/-- Matrix instructions (R249, R250, R252 to R256): in a K-step round MMA notes the update of its bank with the round's beats; in a stop round it delivers
the level in lane 0 and the stop, or the marker twice; the ACC instructions pass L and note zeroing, writing, checkpoint or restore of their bank;
ACCRD reads the bank's sixteen elements and its count, and passes a stop with its results' types. The K-step (R45, R46): element 4i + j of a bank
gains the exact sum of the products of row i of A and row j of B, scales applied, rounded once in the task mode; on unscaled integers it wraps, or
clamps with SA; the special results and the sign of an exact zero are those of R44, of the values that elements read as under their scales (R31; an
E5M2 signalling NaN under a NaN scale: log 43); COUNT advances and the flags of all elements join. -/
def Obligations.MatrixInstructions : Prop :=
  (
    ∀ (s : State) (x : ECtx) (e : EWord), s.elemAt = some x →
      let a := x.operand e .l
      let bank : Fin 4 := ⟨x.k.toNat % 4, Nat.mod_lt _ (by decide)⟩
      let ty := x.k.toNat / 16 % 4
      let good (typed : Bool) : Prop := x.k.toNat / 2 ^ 6 = 0 ∧ x.k.toNat / 4 % 4 = 0 ∧ ty ≠ 3 ∧ (typed = false → ty = 0)
      let cut (v : Word) : Word := if ty = 1 then v else BitVec.ofNat 64 (v.toNat % 2 ^ 32)
      let beats (sl : Slot) : List Token := (x.round.vals.filter (fun v => v.1 == 0 && v.2.1 == sl)).map (fun v => v.2.2)
      (x.round.kind = .kstep → exec (.mma e) s = .next (s.setRegion x.ref.rgn { x.rgn with ces := tput x.rgn.ces x.ref.ce { x.ce with rounds := x.ce.rounds.set x.ref.round { x.round with fired := x.round.fired ++ [x.ref.instr], bank := x.round.bank ++ [.kstep bank (beats .l) (beats .t)] } } })) ∧
      (∀ b rest, x.round.kind ≠ .kstep → beats .l = b :: rest → ∃ t1 t2 : Token, x.delivers s (.mma e) e 0 0 t1 t2 0 id ∧ t2.stop = b.stop ∧ t2.etype = b.etype ∧ t2.flags = 0 ∧ t2.ctx = x.round.ctx ∧ t2.valid = 0 ∧
        (b.stop = 7 → t1 = t2) ∧ (b.stop ≠ 7 → x.makes (.mma e) e .i8 (fun l => if l = 0 then some (BitVec.ofNat 64 b.stop.val) else none) t1)) ∧
      (∀ io ∈ [(Instr.accz e, false, BankOp.zero bank), (.accck e, false, .check bank), (.accrs e, false, .restore bank), (.accwr e, true, .write bank ty a)],
        (good io.2.1 → a.stop = 0 ∨ (io.1 = .accck e ∧ a.stop = 7) → x.delivers s io.1 e 2 1 a a 0 (fun rd => { rd with bank := rd.bank ++ [io.2.2] })) ∧
        (good io.2.1 → a.stop ≠ 0 → (io.1 = .accck e → a.stop ≠ 7) → x.delivers s io.1 e 2 1 a a 0 id) ∧ (¬ good io.2.1 → x.delivers s io.1 e 2 1 a a NV id)) ∧
      (let unit := if ty = 1 then 2 else 1
       let k := x.ce.banks.get bank
       (good true → a.stop = 0 → ∃ t1 t2 : Token, x.delivers s (.accrd e) e 2 unit t1 t2 0 id ∧ t1.round = BitVec.ofNat 15 k.count.toNat ∧
         x.makes (.accrd e) e (if ty = 0 then .fp32 else if ty = 1 then .fp64 else .i32) (fun l => some (cut (k.live.get l))) { t1 with round := BitVec.ofNat 15 x.round.num } ∧
         x.makes (.accrd e) e .i64 (fun l => if l = 0 then some (k.count.zeroExtend 64) else none) t2) ∧
       (good true → a.stop ≠ 0 → x.delivers s (.accrd e) e 2 unit { a with etype := if ty = 0 then .fp32 else if ty = 1 then .fp64 else .i32 } { a with etype := .i64 } 0 id) ∧ (¬ good true → x.delivers s (.accrd e) e 2 unit a a NV id)) ∧
      ∀ (bl : Block) (ctx : Fin 4) (k : Bank) (b : Fin 4) (n : Nat) (t : Token),
        (BankOp.zero b).apply bl ctx k = ({ k with live := Vector.replicate 16 0, count := 0 }, 0) ∧ (BankOp.check b).apply bl ctx k = ({ k with check := k.live, checkCount := k.count, owner := some ctx }, 0) ∧
        (BankOp.restore b).apply bl ctx k = ({ k with live := k.check, count := k.checkCount }, 0) ∧
        ∃ v, (BankOp.write b n t).apply bl ctx k = ({ k with live := v, count := 0 }, 0) ∧ ∀ l : Fin 16, v.get l = if t.valid.getLsbD l.val then (if n = 1 then t.lanes.get l else BitVec.ofNat 64 ((t.lanes.get l).toNat % 2 ^ 32)) else 0) ∧
  (
    ∀ (bl : Block) (ctx : Fin 4) (k : Bank) (b : Fin 4) (as bs : List Token),
      let sint := bl.mbits.testBit 0
      let bits (t : Token) (at' n : Nat) : Nat := leNat t.payload / 2 ^ at' % 2 ^ n
      let elem (t : Token) (e : Nat) : Nat := bits t (e * etypeWidth t.etype) (etypeWidth t.etype)
      let v (t : Token) (e : Nat) : FVal := (decodeElem t.etype (elem t e)).toVal
      let scaled (t : Token) : Bool := [EType.e4m3, .e5m2, .e3m2, .e2m1].contains t.etype || ([EType.i8, .i4].contains t.etype && sint)
      let sc (t : Token) (e : Nat) : Scale := scaleOf (bits t (768 + 20 * (e / 32)) 20)
      let reads (t : Token) (e : Nat) : FVal := if scaled t then (match sc t e with
        | .zero => .fin false 0 0
        | .nan => .nan false
        | .pos p y => match v t e with | .fin n m x => .fin n (m * p) (x + y) | w => w) else v t e
      let neg (w : FVal) : Bool := match w with | .fin n _ _ | .inf n => n | .nan _ => false
      let inf (w : FVal) : Prop := ∃ n, w = .inf n
      let zero (w : FVal) : Prop := ∃ n x, w = .fin n 0 x
      ∃ r : Fin 16 → Res, (BankOp.kstep b as bs).apply bl ctx k = ({ k with live := Vector.ofFn (fun l => BitVec.ofNat 64 (r l).bits), count := k.count + 1 }, (List.finRange 16).foldl (fun fl l => fl ||| (r l).flags) 0) ∧
        ∀ l : Fin 16,
          let x := as.getD (l.val / 4) Token.empty
          let y := bs.getD (l.val % 4) Token.empty
          let n := 768 / etypeWidth x.etype
          let int (t : Token) (e : Nat) : Int := (BitVec.ofNat (etypeWidth t.etype) (elem t e)).toInt
          let whole : Prop := (x.etype = .i8 ∨ x.etype = .i4) ∧ sint = false
          let f : Fmt := if x.etype = .fp64 ∨ bl.mbits.testBit 2 = true then .fp64 else .fp32
          let acc := f.decode ((k.live.get l).toNat % 2 ^ f.width)
          (whole → let z := (BitVec.ofNat 32 (k.live.get l).toNat).toInt + ((List.range n).map (fun e => int x e * int y e)).sum
            if bl.mbits.testBit 1 then r l = (if 2 ^ 31 ≤ z then ⟨2 ^ 31 - 1, SA⟩ else if z < -2 ^ 31 then ⟨2 ^ 31, SA⟩ else ⟨(BitVec.ofInt 32 z).toNat, 0⟩) else r l = ⟨(BitVec.ofInt 32 z).toNat, 0⟩) ∧
          (¬ whole → (acc.isNan = true ∨ ∃ e < n, (reads x e).isNan = true ∨ (reads y e).isNan = true) →
            ((∃ e < n, (reads x e).isSig = true ∨ (reads y e).isSig = true) ∨ acc.isSig = true → r l = ⟨f.canonNan, NV⟩) ∧ (acc.isSig = false → (∀ e < n, (reads x e).isSig = false ∧ (reads y e).isSig = false) → r l = ⟨f.canonNan, 0⟩)) ∧
          (¬ whole → acc.isNan = false → (∀ e < n, (reads x e).isNan = false ∧ (reads y e).isNan = false) →
            let sign (e : Nat) : Bool := neg (reads x e) != neg (reads y e)
            let zeroInf : Prop := ∃ e < n, (inf (reads x e) ∧ zero (reads y e)) ∨ (zero (reads x e) ∧ inf (reads y e))
            let infTerm (g : Bool) : Prop := acc = .inf g ∨ ∃ e < n, (inf (reads x e) ∨ inf (reads y e)) ∧ sign e = g
            let zeros (g : Bool) : Prop := zero acc ∧ neg acc = g ∧ ∀ e < n, (zero (reads x e) ∨ zero (reads y e)) ∧ sign e = g
            let sum : Rat := acc.rat + ((List.range n).map (fun e => (reads x e).rat * (reads y e).rat)).sum
            (zeroInf → r l = ⟨f.canonNan, NV⟩) ∧ (¬ zeroInf → infTerm true → infTerm false → r l = ⟨f.canonNan, NV⟩) ∧ (∀ g, ¬ zeroInf → infTerm g → ¬ infTerm (!g) → r l = ⟨f.infBits g, 0⟩) ∧
            (¬ inf acc → (∀ e < n, ¬ inf (reads x e) ∧ ¬ inf (reads y e)) →
              (sum ≠ 0 → ∃ z : Exact, 0 < z.num ∧ 0 < z.den ∧ z.sticky = false ∧ (if z.neg then -1 else 1) * (z.num : Rat) / z.den = sum ∧
                r l = f.round bl.tmode ⟨l.val, k.count.toNat % 2 ^ 15, bl.seed⟩ false z) ∧
              (∀ g, zeros g → r l = ⟨f.signBit g, 0⟩) ∧ (sum = 0 → ¬ zeros true → ¬ zeros false → r l = ⟨f.signBit (bl.tmode == .rdn), 0⟩))))

/-- RGNALLOC and RGNFREE (R188, R192, R193, R284, R375): the first candidate origin whose bogies are the partition's, in no region and service bogies or
not as asked, becomes a fresh region under the lowest free number; a shortage gives 0; a region to be freed must be unbound and unfrozen, and its
handle is dead at once, its tiles' waiters refused; a fault record of it that has not left yet is sent on. FABRIC instructions (R190, R191): a bad
word or a PORT out of range, a dead handle and another die's region are refused with 1, 2 and 3, in that order; while another thread's instruction of
the region is at work, or one that arrived earlier waits, all but DRAIN's QUIET and STAT join the line and wait. -/
def Obligations.RegionsAreAllottedAndFreed : Prop :=
  (
    ∀ (s : State) (d r : Fin 32),
      let word := (s.me.getX r).toNat
      let first : Bool := word.testBit 31
      let svc : Bool := word.testBit 30
      let die : Fin 4 := ⟨word / 2 ^ 28 % 4, Nat.mod_lt _ (by decide)⟩
      let h := word / 2 ^ 20 % 16
      let w := word / 2 ^ 16 % 16
      let y0 := word / 2 ^ 12 % 16
      let x0 := word / 2 ^ 8 % 16
      let bad : Prop := word / 2 ^ 32 ≠ 0 ∨ word / 2 ^ 24 % 16 ≠ 0 ∨ word % 2 ^ 8 ≠ 0 ∨ (first = true ∧ (x0 ≠ 0 ∨ y0 ≠ 0)) ∨ h = 0 ∨ 12 < h ∨ w = 0 ∨ 12 < w ∨ 12 < x0 + w ∨ 12 < y0 + h
      let p := s.partOf s.cur
      let free (o : Nat × Nat) : Prop := ∀ i j, i < w → j < h → (s.part p).hasBogie die.val (12 * (o.2 + j) + o.1 + i) = true ∧ (s.part p).service die.val (o.1 + i) (o.2 + j) = svc ∧
        ∀ k g, (k, g) ∈ s.regions → ¬ (g.die = die ∧ g.bx ≤ o.1 + i ∧ o.1 + i < g.bx + g.w ∧ g.by' ≤ o.2 + j ∧ o.2 + j < g.by' + g.h)
      let tried (o : Nat × Nat) : Prop := if first then o.1 + w ≤ 12 ∧ o.2 + h ≤ 12 else o = (x0, y0)
      let number (n : Nat) : Prop := 1 ≤ n ∧ n < 4096 ∧ s.region (rkey p (die.val * 4096 + n)) = none
      let privileged : Prop := svc = true ∧ s.me.cur = .worker
      (∀ c, privileged → encode (.rgnalloc d r) = some c → s.me.path = none → s.traps (.rgnalloc d r) 0x02 (BitVec.ofNat 64 c)) ∧
      (¬ privileged → bad → s.refuses (.rgnalloc d r) 1) ∧
      (¬ privileged → ¬ bad → (∀ o, tried o → ¬ free o) ∨ (∀ n, ¬ number n) → s.givesX (.rgnalloc d r) d 0) ∧
      (∀ (o : Nat × Nat) (n : Nat), ¬ privileged → ¬ bad → tried o → free o → (∀ q, tried q → free q → o.2 < q.2 ∨ (o.2 = q.2 ∧ o.1 ≤ q.1)) → number n → (∀ m, number m → n ≤ m) →
        ∃ g : Region, exec (.rgnalloc d r) s = .next (({ s with nextId := s.nextId + 1 }.setRegion (rkey p (die.val * 4096 + n)) g).onMe (fun th => (th.setX d (BitVec.ofNat 64 (die.val * 4096 + n))).advance)) ∧
          g.part = p ∧ g.num = n ∧ g.die = die ∧ g.bx = o.1 ∧ g.by' = o.2 ∧ g.w = w ∧ g.h = h ∧ g.slots = Vector.replicate 4 none ∧ g.active = none ∧ g.chans = [] ∧ g.ces = [] ∧ g.mts = [] ∧ g.ingress = [] ∧ g.frozen = false ∧ g.cnt = Vector.replicate 6 0 ∧ g.uid = s.nextId) ∧
      ∀ g : Region, word < 2 ^ 16 → s.region (rkey p word) = some g → g.die = dieOf s.cur → g.busyWith = none → g.line.headD s.cur = s.cur → sortedKeys s.regions = true →
        (s.boundTo g = true → s.refusesAt g (.rgnfree r) 5) ∧ (s.boundTo g = false → g.frozen = true → s.refusesAt g (.rgnfree r) 7) ∧
        (s.boundTo g = false → g.frozen = false → (∀ f ∈ g.faults, f.gone = true) → ∃ t, exec (.rgnfree r) s = .next t ∧ t.regions = tdel s.regions g.key ∧ s.sameMemory t ∧ t.me.pc = s.me.pc + 4 ∧ s.me.sameButPc t.me ∧ { t with threads := s.threads, regions := s.regions } = s ∧
          ∀ u, u ≠ s.cur →
            let left (q : MtReq) : Prop := ∃ k m, (k, m) ∈ g.mts ∧ q ∈ m.arriving ++ m.queue ++ m.waiting
            let back (q : MtReq) : Prop := ∃ k m, (k, m) ∈ g.mts ∧ q ∈ m.respond
            ((∀ q, left q ∨ back q → q.work.thread? ≠ some u) → t.thread u = s.thread u) ∧
            (∀ q, left q → q.work.thread? = some u → (∀ z, back z → z.work.thread? ≠ some u) → t.thread u = { s.thread u with reply := some (2 ^ 64 + 22) })) ∧
        (s.boundTo g = false → g.frozen = false → g.mts = [] → ∀ f, g.faults.filter (fun x => !x.gone) = [f] →
          let fault (hi lo : Nat) : Nat := (s.part g.part).reg 0x3C0 / 2 ^ lo % 2 ^ (hi + 1 - lo)
          let gone : State := { s with regions := tdel s.regions g.key }
          (fault 64 64 = 0 → exec (.rgnfree r) s = .next ((gone.bump g.part 0x3F0 127 96 1).onMe Thread.advance)) ∧
          ∀ u : Fin 8, fault 64 64 = 1 → fault 127 112 = s.module.toNat → fault 98 96 = u.val → (fin8s.map (fun k => (s.part k).records.length)).sum < 64 →
            exec (.rgnfree r) s = .next ((gone.onPart u (fun x => { x with records := x.records ++ [(BitVec.ofNat 16 (fault 95 80), f.record)] })).onMe Thread.advance))) ∧
  (
    ∀ (s : State) (d h r c : Fin 32) (a : Fin 16),
      let hx := (s.me.getX h).toNat
      let w := (s.me.getX r).toNat
      let n := (s.me.getX c).toNat
      let drain : Prop := w / 2 ^ 13 = 0 ∧ w / 2 ^ 3 % 2 = 0 ∧ w % 8 ≤ 3 ∧ (w % 8 = 3 → w / 2 ^ 4 % 16 ≤ 6 ∧ ¬ (w / 2 ^ 12 % 2 = 1 ∧ w / 2 ^ 4 % 16 = 6)) ∧ (w % 8 ≠ 3 → w / 2 ^ 4 % 16 = 0 ∧ w / 2 ^ 12 % 2 = 0)
      let trig : Prop := if w.testBit 10 then w = 2 ^ 10 else w < 2 ^ 10 ∧ w / 2 ^ 8 % 2 = 0 ∧ 1 ≤ n ∧ n < 2 ^ 32
      let swap (a : Fin 16) : Prop := w / 2 ^ 9 = 0 ∧ w / 2 ^ 2 % 2 ^ 6 = 0 ∧ (w.testBit 8 = true ∨ a = 0)
      ∀ i ∈ [(Instr.rgnfree h, True), (.cfgld h r a, w < 4), (.argw h r c, w / 2 ^ 26 = 0 ∧ w / 2 ^ 21 % 2 = 0), (.cfgtrig h r c, trig), (.cfgtrigDisarm h r c, trig), (.cfgswap h r, swap 0), (.cfgswapForce h r a, swap a),
          (.drainQuiet d h r, drain), (.drainWait d h r, drain), (.drainDiscard d h r, drain), (.drainStat d h r, drain)],
        (¬ i.2 → s.refuses i.1 1) ∧ (i.2 → 2 ^ 16 ≤ hx ∨ s.region (rkey (s.partOf s.cur) hx) = none → s.refuses i.1 2) ∧
        ∀ g : Region, i.2 → hx < 2 ^ 16 → s.region (rkey (s.partOf s.cur) hx) = some g →
          let inPort : Prop := ∃ m p, g.image = some m ∧ m.ports[w / 4 % 64]? = some p ∧ p.out = false
          let ranged : Prop := i.1 ∉ [.cfgtrig h r c, .cfgtrigDisarm h r c] ∨ w.testBit 10 = true ∨ inPort
          let kind : WaitKind := if i.1 = .cfgld h r a then .load else .region
          (g.die ≠ dieOf s.cur → (ranged → s.refuses i.1 3) ∧ (¬ ranged → s.refuses i.1 1)) ∧
          (g.die = dieOf s.cur → ¬ g.atTurn s.cur → i.1 ∉ [.drainQuiet d h r, .drainWait d h r, .drainDiscard d h r, .drainStat d h r] ∨ w % 8 = 1 ∨ w % 8 = 2 →
            exec i.1 s = .next ((s.setRegion g.key { g with line := if s.cur ∈ g.line then g.line else g.line ++ [s.cur] }).waitFor kind)))

/-- CFGLD and ARGW (R71, R190, R194, R195, R212): an image that fails a check traps with its offending offset and changes nothing, nor does one too large
for a CE beside the other slots, but for the placement it has been given; one that passes fills its slot, drops the slot's pending writes, and becomes
active where no slot was; an argument write is applied at once, waits for its task's next invocation, or waits for room. What the tables of an image
must hold for CFGLD to accept it (R64, R67, R69): its header, tables and areas apart from one another inside LENGTH, each port named by exactly one
channel in its own direction, each channel between two endpoints that exist, not both ports, and that no other channel shares. What the blocks of an
image must hold for CFGLD to accept it (R59 to R64, R68, R179, R197): a table entry in range, a header and words inside the code area, each word an
instruction of the block's kind, each used slot with one source that stands before it, NCONST constants, endpoints that exist, carry the type and are
named once; and the frame that such a block takes. The key and the place of an accepted image (R70, R71), and what its tasks are charged (R195, R196):
PKEY is of its canonical form; placed it keeps its places, else a hit of the cache or the placer gives them, the newest entry first among 64; the
first task on a CE that exceeds a limit, the slots loaded beside it counted, is the one that refuses it. -/
def Obligations.ImagesAndArguments : Prop :=
  (
    ∀ (s : State) (h r c : Fin 32) (a : Fin 16) (g : Region),
      let hx := (s.me.getX h).toNat
      let w := (s.me.getX r).toNat
      let left' : Region := { g.taken s.cur with busyWith := none }
      let fresh : Prop := g.busyWith = none
      let done (v t : State) (g' : Region) : Prop := t.regions = tput s.regions g.key g' ∧ s.sameMemory t ∧ t.me.pc = s.me.pc + 4 ∧ t.me.wait = none ∧ v.me.sameButPc t.me ∧ s.sameButMe { t with regions := s.regions, parts := s.parts }
      hx < 2 ^ 16 → s.region (rkey (s.partOf s.cur) hx) = some g → g.die = dieOf s.cur → g.atTurn s.cur →
      (∀ bs : List Byte, w < 4 →
        let k : Fin 4 := ⟨w % 4, Nat.mod_lt _ (by decide)⟩
        let len := bytesAt bs 40 4
        let fits : Prop := fresh → g.active ≠ some k
        (fresh → g.active = some k → s.refusesAt g (.cfgld h r a) 4) ∧
        (fits → (s.me.getA a).toNat % 128 ≠ 0 → s.trapsWith left' (.cfgld h r a) 0x0D 0) ∧
        (fits → (s.me.getA a).toNat % 128 = 0 → bs.length = 64 + 8 * ((len - 64 + 7) / 8) → s.readable (s.me.getA a) bs →
          (∀ o, s.imageFor g (bs.take (max 64 len)) = .error o → s.trapsWith left' (.cfgld h r a) 0x0D (BitVec.ofNat 64 o) s.hasRead) ∧
          (∀ i cache o, s.imageFor g (bs.take (max 64 len)) = .ok (i, cache) → i.overload (g.others k) = some o →
            s.trapsWith left' (.cfgld h r a) 0x0D (BitVec.ofNat 64 o) (s.hasRead.onPart g.part (fun p => { p with cache := cache }))) ∧
          ∀ i cache, s.imageFor g (bs.take (max 64 len)) = .ok (i, cache) → i.overload (g.others k) = none → ∃ (t : State) (ces : Tbl Ce), exec (.cfgld h r a) s = .next t ∧
            done s.hasRead t { left' with slots := g.slots.set k.val (some i) k.isLt, active := some (g.active.getD k), args := g.args.filter (fun x => x.slot != k.val), ces := ces } ∧
            (∀ b ∈ i.blocks, ∃ ce, tget ces (b.cy * 64 + b.cx) = some ce ∧ ce = { tgetD g.ces (b.cy * 64 + b.cx) Ce.new with last := 0 }) ∧
            (∀ n, (∀ b ∈ i.blocks, n ≠ b.cy * 64 + b.cx) → tget ces n = tget g.ces n) ∧ ∀ q, t.part q = if q = g.part then { s.part q with cache := cache } else s.part q)) ∧
      (let slot : Fin 4 := ⟨w / 2 ^ 24 % 4, Nat.mod_lt _ (by decide)⟩
       let x : ArgWrite := ⟨slot.val, w / 2 ^ 22 % 4, w / 2 ^ 16 % 32, w % 2 ^ 16, s.me.getX c, false⟩
       w / 2 ^ 26 = 0 → w / 2 ^ 21 % 2 = 0 →
        (fresh → g.slots.get slot = none → s.refusesAt g (.argw h r c) 4) ∧
        ∀ i, g.slots.get slot = some i →
          (fresh → (∀ b, i.blocks[x.block]? = some b → b.loaded.length ≤ x.kidx ∨ x.ctx ∉ b.ctxm) → s.refusesAt g (.argw h r c) 6) ∧
          ∀ b, i.blocks[x.block]? = some b → x.kidx < b.loaded.length → x.ctx ∈ b.ctxm →
            (fresh → g.frozen = true → s.refusesAt g (.argw h r c) 7) ∧
            ((fresh → g.frozen = false) → 16 ≤ g.args.length → exec (.argw h r c) s = .next ((s.setRegion g.key { g.taken s.cur with busyWith := some s.cur }).waitFor .region)) ∧
            ((fresh → g.frozen = false) → g.args.length < 16 →
              let begun : Bool := g.active == some slot && (g.ce (b.cy * 64 + b.cx)).started.contains (b.slot * 4 + x.ctx)
              (begun = true → ∃ t, exec (.argw h r c) s = .next t ∧ done s t { left' with args := g.args ++ [x] }) ∧
              (begun = false → ∃ t, exec (.argw h r c) s = .next t ∧ done s t { left' with slots := g.slots.set slot.val (some { i with blocks := i.blocks.set x.block { b with consts := tput b.consts x.ctx ((tgetD b.consts x.ctx b.loaded).set x.kidx x.v) } }) slot.isLt })))) ∧
  (
    ∀ (s : State) (g : Region) (bs : List Byte) (i : Image) (cache : List Placed), s.imageFor g bs = .ok (i, cache) →
      let v (o n : Nat) : Nat := bytesAt bs o n
      let starts := [v 16 4, v 20 4, v 24 4, v 32 4, v 36 4]
      let stop (o e : Nat) : Prop := (e ∈ starts ∧ o < e ∧ ∀ x ∈ starts, o < x → e ≤ x) ∨ ((∀ x ∈ starts, x ≤ o) ∧ e = v 40 4)
      let endpoint (n : Nat) : Endpoint := if n < 2 ^ 31 then .block (n / 16) (n % 16) else .port (n - 2 ^ 31)
      let stands (x : Endpoint) (out : Bool) : Prop := match x with
        | .block b c => b < v 12 4 ∧ c < 16
        | .port p => ∃ q, i.ports[p]? = some q ∧ q.out = out
      (v 0 4 = 0x31494751 ∧ v 4 2 = 1 ∧ v 6 2 < 2 ∧ v 8 1 = g.w ∧ v 9 1 = g.h ∧ 1 ≤ g.w ∧ g.w ≤ 12 ∧ 1 ≤ g.h ∧ g.h ≤ 12 ∧ 1 ≤ v 12 4 ∧ v 12 4 ≤ 256 * g.w * g.h ∧ v 28 2 ≤ 64 ∧ v 30 2 = 0 ∧ v 44 4 = 0 ∧ v 56 8 = 0) ∧
      (∀ codeEnd conEnd, stop (v 32 4) codeEnd → stop (v 36 4) conEnd →
        let areas := [(v 16 4, 32 * v 12 4), (v 20 4, 16 * v 10 2), (v 24 4, 16 * v 28 2), (v 32 4, codeEnd - v 32 4), (v 36 4, conEnd - v 36 4)]
        (∀ x ∈ areas, x.1 % 8 = 0 ∧ x.1 + x.2 ≤ v 40 4 ∧ (x.2 ≠ 0 → 64 ≤ x.1)) ∧ areas.Pairwise (fun x y => x.2 = 0 ∨ y.2 = 0 ∨ x.1 + x.2 ≤ y.1 ∨ y.1 + y.2 ≤ x.1)) ∧
      i.ports.length = v 28 2 ∧ (∀ (p : Nat) (q : Port), i.ports[p]? = some q → let o := v 24 4 + 16 * p
        v o 1 = (if q.out then 1 else 0) ∧ v (o + 1) 1 < 16 ∧ q.etype = EType.ofCode (v (o + 1) 1) ∧ v (o + 2) 2 = 0 ∧
        ∃ (c : Nat) (k : Chan), i.chans[c]? = some k ∧ (k.from' = .port p ∨ k.to' = .port p) ∧ ∀ (d : Nat) (z : Chan), i.chans[d]? = some z → z.from' = .port p ∨ z.to' = .port p → d = c) ∧
      i.chans.length = v 10 2 ∧ ∀ (c : Nat) (k : Chan), i.chans[c]? = some k → let o := v 20 4 + 16 * c
        k.from' = endpoint (v o 4) ∧ k.to' = endpoint (v (o + 4) 4) ∧ stands k.from' false ∧ stands k.to' true ∧ (∀ p q, k.from' = .port p → k.to' ≠ .port q) ∧
        k.prio = v (o + 8) 1 ∧ k.prio < 16 ∧ v (o + 9) 1 < 16 ∧ k.etype = EType.ofCode (v (o + 9) 1) ∧ k.slots = v (o + 10) 1 ∧ 1 ≤ k.slots ∧ k.slots ≤ 60 ∧ v (o + 11) 5 = 0 ∧
        ∀ (d : Nat) (z : Chan), i.chans[d]? = some z → d ≠ c → z.from' ≠ k.from' ∧ z.to' ≠ k.to') ∧
  (
    ∀ (s : State) (g : Region) (bs : List Byte) (i : Image) (cache : List Placed) (codeEnd conEnd : Nat), s.imageFor g bs = .ok (i, cache) →
      let v (o n : Nat) : Nat := bytesAt bs o n
      let starts := [v 16 4, v 20 4, v 24 4, v 32 4, v 36 4]
      let stop (o e : Nat) : Prop := (e ∈ starts ∧ o < e ∧ ∀ x ∈ starts, o < x → e ≤ x) ∨ ((∀ x ∈ starts, x ≤ o) ∧ e = v 40 4)
      stop (v 32 4) codeEnd → stop (v 36 4) conEnd → i.blocks.length = v 12 4 ∧ ∀ b bl, i.blocks[b]? = some bl →
        let e := v 16 4 + 32 * b
        let head := v 32 4 + v e 4
        let k0 := v 36 4 + v (e + 4) 4
        let hw := v head 4
        let count := hw / 2 ^ 21 % 2 ^ 7
        let word (n : Nat) : Nat := v (head + 4 + 4 * n) 4
        let names (n : Nat) (low : Bool) (j : Nat) (sl : Slot) : Bool := let t := (if low then word n else word n / 2 ^ 9) % 2 ^ 9; t != 511 && t / 4 == j && Slot.ofCode (t % 4) == sl
        let sources (j : Nat) (sl : Slot) : List (Nat × Nat) := (List.range (count + 1)).flatMap (fun n =>
          (if names n false j sl then [(n, 1)] else []) ++ (if names n true j sl then [(n, 2)] else []) ++ (if n = j ∧ sl = .r ∧ (word n).testBit 23 then [(n, 0)] else []))
        let nth (n : Nat) : Nat := ((List.range n).filter (fun m => (word m).testBit 23)).length
        let k (n : Nat) : Word := BitVec.ofNat 64 (v (k0 + 8 * nth n) 8)
        let code (t : EType) : Nat := match t with
          | .i32 | .u32 => 0
          | .i64 => 1
          | .fp32 => 2
          | .fp64 => 3
          | .i16 | .u16 => 4
          | .fp16 => 5
          | .bf16 => 6
          | .i8 | .u8 | .i4 | .e4m3 | .e5m2 | .e2m1 | .e3m2 => 7
        let placed : Prop := v 6 2 = 1
        let live (j n : Nat) : Prop := ∃ low sl t, names j low t sl = true ∧ j ≤ n ∧ n < t
        bl.entryAt = e ∧ (placed → bl.cx = v (e + 8) 1 ∧ bl.cx < 4 * g.w ∧ bl.cy = v (e + 9) 1 ∧ bl.cy < 4 * g.h ∧ bl.slot = v (e + 10) 1 ∧ bl.slot < 16 ∧
          ∀ d z, i.blocks[d]? = some z → d ≠ b → (z.cx, z.cy, z.slot) ≠ (bl.cx, bl.cy, bl.slot)) ∧ (¬ placed → v (e + 8) 1 = 0xFF ∧ v (e + 9) 1 = 0xFF ∧ v (e + 10) 1 = 0xFF) ∧
        v (e + 11) 1 ≠ 0 ∧ v (e + 11) 1 < 16 ∧ bl.ctxm = [0, 1, 2, 3].filter (fun c => (v (e + 11) 1).testBit c) ∧ v (e + 12) 1 ∈ [0, 1, 2, 3, 5] ∧ bl.tmode = Rm.ofCode (v (e + 12) 1) ∧
        bl.mbits = v (e + 13) 1 ∧ bl.mbits < 8 ∧ v (e + 14) 2 = 0 ∧ bl.seed = BitVec.ofNat 32 (v (e + 16) 4) ∧ v (e + 20) 12 = 0 ∧
        v e 4 % 4 = 0 ∧ head + 4 * (count + 2) ≤ codeEnd ∧ hw / 2 ^ 28 = 0xB ∧ hw / 2 ^ 14 % 2 ^ 7 ≤ 32 ∧ hw / 2 ^ 8 % 4 ≠ 3 ∧ hw % 2 ^ 8 = 0 ∧ bl.prio = hw / 2 ^ 10 % 16 ∧ bl.kind = hw / 2 ^ 8 % 4 ∧
        v (e + 4) 4 % 8 = 0 ∧ k0 + 8 * (hw / 2 ^ 14 % 2 ^ 7) ≤ conEnd ∧ nth (count + 1) = hw / 2 ^ 14 % 2 ^ 7 ∧
        bl.loaded = (List.range (nth (count + 1))).map (fun m => BitVec.ofNat 64 (v (k0 + 8 * m) 8)) ∧ bl.consts = bl.ctxm.map (fun c => (c, bl.loaded)) ∧ bl.code.length = count + 1 ∧
        (∀ n, n ≤ count → ∃ x, decodeE (word n) = .ok x ∧ bl.kind ∈ x.kinds ∧ bl.code[n]? = some x ∧
          (∀ low j sl, names n low j sl = true → n < j ∧ j ≤ count ∧ sl ∈ usedSlots (word j)) ∧ (∀ sl ∈ usedSlots (word n), (sources n sl).length = 1) ∧
          (∀ y, x = .pop y → (k n).toNat < 16 ∧ ∃ c ∈ i.chans, c.to' = .block b (k n).toNat ∧ y.w.val = code c.etype) ∧
          (∀ y, x = .push y → (k n).toNat < 16 ∧ ∃ c ∈ i.chans, c.from' = .block b (k n).toNat ∧ y.w.val = code c.etype) ∧
          (∀ y, x = .bqw y → (k n).toNat < 16 ∧ ∃ c ∈ i.chans, ∃ p, c.from' = .block b (k n).toNat ∧ c.to' = .port p) ∧
          ∀ m y ep, m < n → decodeE (word m) = .ok y → endpointOf x (k n) = some ep → endpointOf y (k m) ≠ some ep) ∧
        1 ≤ bl.frame ∧ (∀ (n : Nat) (l : List Nat), n ≤ count → l.Nodup → (∀ j ∈ l, live j n) → l.length ≤ bl.frame) ∧ (bl.frame = 1 ∨ ∃ (n : Nat) (l : List Nat), n ≤ count ∧ l.Nodup ∧ (∀ j ∈ l, live j n) ∧ l.length = bl.frame)) ∧
  (
    (∀ (s : State) (g : Region) (bs : List Byte) (i : Image) (cache : List Placed) (conEnd : Nat), s.imageFor g bs = .ok (i, cache) →
      let v (o n : Nat) : Nat := bytesAt bs o n
      let starts := [v 16 4, v 20 4, v 24 4, v 32 4, v 36 4]
      let before := (s.part g.part).cache
      let inside (n start count size off len : Nat) : Prop := start ≤ n ∧ n < start + size * count ∧ off ≤ (n - start) % size ∧ (n - start) % size < off + len
      let cls (b : Byte) : Byte := if b.toNat ∈ [0, 1, 7, 12, 13, 14, 15] then 0 else if b.toNat ∈ [2, 3, 10, 11] then 1 else if b.toNat ∈ [4, 5, 9] then 2 else 3
      (conEnd ∈ starts ∧ v 36 4 < conEnd ∧ ∀ x ∈ starts, v 36 4 < x → conEnd ≤ x) ∨ ((∀ x ∈ starts, x ≤ v 36 4) ∧ conEnd = v 40 4) →
      ∃ canon : List Byte, canon.length = bs.length ∧
        (∀ n b, bs[n]? = some b → canon[n]? = some (
          if (48 ≤ n ∧ n < 56) ∨ (v 36 4 ≤ n ∧ n < conEnd) ∨ inside n (v 16 4) (v 12 4) 32 16 4 then 0
          else if inside n (v 16 4) (v 12 4) 32 8 3 then 0xFF else if inside n (v 20 4) (v 10 2) 16 9 1 ∨ inside n (v 24 4) (v 28 2) 16 1 1 then cls b else b)) ∧
        (let d := shake256 (canon ++ [BitVec.ofNat 8 g.w, BitVec.ofNat 8 g.h]) 16
         let hit (x : Placed) : Prop := x.key.toNat = v 48 8 ∧ x.check.toNat = bytesAt d 8 8 ∧ x.len = v 40 4
         let stands (ps : List (Nat × Nat × Nat)) : Prop := ∀ (n : Nat) b p, i.blocks[n]? = some b → ps[n]? = some p → (b.cx, b.cy, b.slot) = p
         v 48 8 = bytesAt d 0 8 ∧ i.pkey.toNat = v 48 8 ∧ (v 6 2 = 1 → cache = before) ∧
         (∀ l x r, v 6 2 = 0 → before = l ++ x :: r → hit x → (∀ y ∈ l, ¬ hit y) → cache = x :: (l ++ r) ∧ stands x.place) ∧
         (v 6 2 = 0 → (∀ x ∈ before, ¬ hit x) → ∃ ps, Config.placement canon g.w g.h = some ps ∧ stands ps ∧ ps.length = v 12 4 ∧ ps.Nodup ∧ (∀ p ∈ ps, p.1 < 4 * g.w ∧ p.2.1 < 4 * g.h ∧ p.2.2 < 16) ∧
           i.overload [] = none ∧ cache = (⟨BitVec.ofNat 64 (v 48 8), BitVec.ofNat 64 (bytesAt d 8 8), v 40 4, ps⟩ :: before).take 64))) ∧
    ∀ (i : Image) (others : List (Option Image)),
      let on (m : Image) (b : Block) : List (Block × Nat) := m.blocks.zipIdx.filter (fun e => e.1.cy * 64 + e.1.cx == b.cy * 64 + b.cx)
      let every (b : Block) : List (Block × Nat) := (some i :: others).flatMap (fun o => match o with | some m => on m b | none => [])
      let owner (c : Chan) : Option Nat := match c.to', c.from' with
        | .block k _, _ => some k
        | .port _, .block k _ => some k
        | .port _, .port _ => none
      let slots (e : Block × Nat) : Nat := ((i.chans.filter (fun c => owner c == some e.2)).map (fun c => c.slots * e.1.ctxm.length)).sum
      let exceeds (b : Block) : Prop := 2048 < ((every b).map (fun e => e.1.code.length + 1)).sum ∨ 256 < ((every b).map (fun e => e.1.loaded.length * e.1.ctxm.length)).sum ∨
        96 < ((on i b).map (fun e => e.1.frame)).sum ∨ 60 < ((on i b).map slots).sum ∨ 16 < (on i b).length
      (i.overload others = none ↔ ∀ b ∈ i.blocks, ¬ exceeds b) ∧ ∀ l b r, i.blocks = l ++ b :: r → exceeds b → (∀ x ∈ l, ¬ exceeds x) → i.overload others = some b.entryAt)

/-- Swaps and triggers (R208 to R211): CFGSWAP closes every ingress point and waits, or with FORCE closes each at its next marker; the quiet region's
named slot becomes active with its counts at zero, its points open and its bindings rebound; a forced swap first writes the tokens that wait behind
the closed points, and the region, to the save area; the answered instruction completes once what it saved is performed; CFGTRIG arms, replaces or
cancels a trigger, and one that has fired swaps. DRAIN and the drain tree (R206, R207): QUIET writes the status word at once, WAIT once each of its
contexts has been quiet since it issued, DISCARD the number of tokens it removed (tile requests and register groups among them: log 29) with what the
contexts had in flight, a freeze released only where it names every faulted context; STAT a counter, cleared if asked, or the usage word. -/
def Obligations.SwapsTriggersAndDrains : Prop :=
  (
    ∀ (s : State) (h r c : Fin 32) (a : Fin 16) (g : Region),
      let hx := (s.me.getX h).toNat
      let w := (s.me.getX r).toNat
      let n := (s.me.getX c).toNat
      let slot : Fin 4 := ⟨w % 4, Nat.mod_lt _ (by decide)⟩
      let inPort (p : Nat) : Prop := ∃ i q, g.image = some i ∧ i.ports[p]? = some q ∧ q.out = false
      let at' := g.taken s.cur
      let fresh : Prop := g.busyWith = none
      let holds (i : Instr) (g' : Region) : Prop := exec i s = .next ((s.setRegion g.key { g' with busyWith := some s.cur }).waitFor .region)
      let done (i : Instr) (g' : Region) : Prop := exec i s = .next ((s.setRegion g.key { g' with busyWith := none }).onMe Thread.advance)
      let all (l : List (Nat × Nat)) : Prop := ∀ p k, (p, k) ∈ l ↔ inPort p ∧ k < 4
      let trigDone : Prop := ∀ t, g.trigger = some t → t.fired = false
      hx < 2 ^ 16 → s.region (rkey (s.partOf s.cur) hx) = some g → g.die = dieOf s.cur → g.atTurn s.cur →
      (∀ io ∈ [(Instr.cfgswap h r, (0 : Fin 16)), (.cfgswapForce h r a, a)], w / 2 ^ 9 = 0 → w / 2 ^ 2 % 2 ^ 6 = 0 → w.testBit 8 = true ∨ io.2 = 0 →
        (fresh → g.slots.get slot = none → s.refusesAt g io.1 4) ∧ (fresh → g.slots.get slot ≠ none → g.frozen = true → s.refusesAt g io.1 7) ∧
        ((fresh → g.slots.get slot ≠ none ∧ g.frozen = false) →
          (∀ x, g.swap = some x → holds io.1 at') ∧
          (∀ v, g.swap = none → s.me.reply = some v → (s.busy (.area s.cur) = false → done io.1 at') ∧ (s.busy (.area s.cur) = true → holds io.1 at')) ∧
          (∀ t, g.swap = none → s.me.reply = none → g.trigger = some t → t.fired = true → ∃ l, all l ∧ holds io.1 { at' with closedPorts := l, trigger := none, swap := some ⟨t.t, true, t.slot, none, [], none⟩ }) ∧
          (g.swap = none → s.me.reply = none → trigDone → w.testBit 8 = false → ∃ l, all l ∧ holds io.1 { at' with closedPorts := l, trigger := none, swap := some ⟨s.cur, false, slot.val, none, [], g.trigger⟩ }) ∧
          (g.swap = none → s.me.reply = none → trigDone → w.testBit 8 = true → ∃ l, (∀ p k, (p, k) ∈ l ↔ (p, k) ∈ g.closedPorts ∨ (inPort p ∧ k < 4 ∧ g.runs k = true ∧ (p, k) ∉ g.midway)) ∧
            holds io.1 { at' with closedPorts := l, swap := some ⟨s.cur, false, slot.val, some (s.me.getA io.2), [], none⟩ }))) ∧
      (∀ i ∈ [Instr.cfgtrig h r c, .cfgtrigDisarm h r c],
        (w = 2 ^ 10 → (fresh → g.frozen = true → s.refusesAt g i 7) ∧ ((fresh → g.frozen = false) → trigDone → done i { at' with trigger := none })) ∧
        (w < 2 ^ 10 → w / 2 ^ 8 % 2 = 0 → 1 ≤ n → n < 2 ^ 32 → let port := w / 4 % 64
          (fresh → ¬ inPort port → s.refusesAt g i 1) ∧ (fresh → inPort port → g.slots.get slot = none → s.refusesAt g i 4) ∧ (fresh → inPort port → g.slots.get slot ≠ none → g.frozen = true → s.refusesAt g i 7) ∧
          ((fresh → inPort port ∧ g.slots.get slot ≠ none ∧ g.frozen = false) → trigDone → done i { at' with trigger := some ⟨s.cur, port, w.testBit 9, slot.val, n, false⟩ }))) ∧
      ∀ rgn, s.region rgn = some g → g.key = rgn →
        (∀ t, g.trigger = some t → t.fired = true → g.swap = none → ∃ l, all l ∧ exec (.triggerFire rgn) s = .next (s.setRegion rgn { g with closedPorts := l, trigger := none, swap := some ⟨t.t, true, t.slot, none, [], none⟩ })) ∧
        (trigDone → exec (.triggerFire rgn) s = .next (s.setRegion rgn g)) ∧
        (∀ x va, g.swap = some x → x.forced = some va →
          let shut : Prop := ∀ p k, inPort p → k < 4 → g.runs k = true → (p, k) ∈ g.closedPorts
          let quiet : Prop := ∀ k, k < 4 → Region.quiet { g with ingress := [] } k = true
          let cs := [0, 1, 2, 3].filter g.runs
          let e : Engine := ⟨.area x.t, (dieOf x.t).val * 96, x.t, (s.thread x.t).cur, none, [], none⟩
          let first := g.applyPending (fun _ => true)
          let (ing, s') := (s.setRegion rgn first).takeWaiting first cs
          let chunks := s'.regionArea first cs false ing
          let size := 131072 + 2 ^ 14 * (16 * g.w * g.h) + 524288 * (2 * g.w * g.h) + 144 * ing.length
          (g.frozen = true ∨ ¬ shut ∨ ¬ quiet → exec (.swapActivate rgn) s = .next s) ∧
          ∀ l : List Nat, g.frozen = false → shut → quiet → trigDone → x.pages = [] → s.mem.wf = true → (∀ z ∈ s.rimWalks, z.1 ≠ .area x.t) → l.length = (size + 2 ^ 14 - 1) / 2 ^ 14 →
            (∀ k pa, l[k]? = some pa → pa % 2 ^ 14 = 0 ∧ s.engineAt e (va + BitVec.ofNat 80 (2 ^ 14 * k)) .store pa 0) →
            let at' (o : Nat) : Nat := l.getD (o / 2 ^ 14) 0 + o % 2 ^ 14
            (∀ j, j < size → s.alone (at' j) 0 ∧ s.homeLost (at' j) = false) → chunks.Pairwise (fun y z => y.1 + y.2.length ≤ z.1) → (∀ y ∈ chunks, y.1 + y.2.length ≤ size) →
            ∃ (t : State) (y : Region), exec (.swapActivate rgn) s = .next t ∧ (∀ p, (∀ z ∈ l, p < z ∨ z + 2 ^ 14 ≤ p) → memByte t.mem p = memByte s.mem p) ∧
              (l.Nodup → ∀ o bs, (o, bs) ∈ chunks → ∀ j b, bs[j]? = some b → memByte t.mem (at' (o + j)) = b) ∧
              t.region rgn = some y ∧ y.active.map Fin.val = some (x.slot % 4) ∧ y.swap = none ∧ y.chans = [] ∧ y.args = [] ∧ y.closedPorts = [] ∧ y.ingress = g.ingress.filter (fun o => !g.runs o.2.ctx.val) ∧
              (x.trig = false → (t.thread x.t).reply = some 1) ∧
              ∀ u k q, u ∈ s.threadsOn g.part g.die → tget (s.thread u).qs k = some q → q.region = BitVec.ofNat 16 g.handle → q.out = false → g.runs q.ctx.val = true →
                ∃ z, tget (t.thread u).qs k = some z ∧ z.toks = q.toks.filter (fun o => o.2.2)) ∧
        ∀ x, g.swap = some x → x.forced = none → (g.frozen = true ∨ g.allQuiet = false → exec (.swapActivate rgn) s = .next s) ∧
          (g.frozen = false → g.allQuiet = true → ∃ (t : State) (g' : Region), exec (.swapActivate rgn) s = .next t ∧ s.sameMemory t ∧ t.regions = tput s.regions rgn g' ∧
            g'.active.map Fin.val = some (x.slot % 4) ∧ g'.cur = 0 ∧ g'.named = none ∧ g'.chans = [] ∧ g'.midway = [] ∧ g'.swap = none ∧ g'.args = [] ∧ g'.trigger = g.trigger ∧ g'.mts = g.mts ∧ g'.cnt = g.cnt ∧ (trigDone → g'.closedPorts = []) ∧
            g'.ces = g.ces.map (fun e => (e.1, { e.2 with passed := [], rc := [], started := [] })) ∧
            (x.trig = false → (t.thread x.t).reply = some 1) ∧ (x.trig = true → (t.thread x.t).ev = true) ∧
            ∀ u k q, u ∈ s.threadsOn g.part g.die → tget (s.thread u).qs k = some q → ∃ z, tget (t.thread u).qs k = some z ∧
              (q.region ≠ BitVec.ofNat 16 g.handle → z = q) ∧
              (q.region = BitVec.ofNat 16 g.handle →
                (∀ i p, g'.image = some i → i.ports[q.port]? = some p → p.out = q.out → (q.out = true → g'.bqwFed q.port = false) → z = { q with etype := p.etype, closed := false }) ∧
                ((∀ i p, g'.image = some i → i.ports[q.port]? = some p → p.out ≠ q.out ∨ (q.out = true ∧ g'.bqwFed q.port = true)) → z = { q with closed := true })))) ∧
  (
    ∀ (s : State) (d h o : Fin 32) (g : Region),
      let hx := (s.me.getX h).toNat
      let w := (s.me.getX o).toNat
      let cs (c : Nat) : Prop := c < 4 ∧ (w / 2 ^ 8 % 16 = 0 ∨ (w / 2 ^ 8).testBit c = true)
      let status (v : Word) : Prop := ∀ n, n < 64 → v.getLsbD n =
        if n < 4 then g.quiet n else if n < 8 then g.runs (n - 4) else if n < 10 then ((g.active.map Fin.val).getD 0).testBit (n - 8) else if n < 14 then (g.slots[n - 10]?).any Option.isSome
        else if n = 14 then g.trigger.any (fun t => !t.fired) else if n = 15 then g.swap.isSome || g.trigger.any (fun t => t.fired) else if n = 16 then g.frozen else false
      let at' := g.taken s.cur
      hx < 2 ^ 16 → s.region (rkey (s.partOf s.cur) hx) = some g → g.die = dieOf s.cur → w / 2 ^ 13 = 0 → w / 2 ^ 3 % 2 = 0 →
      (∀ i ∈ [Instr.drainQuiet d h o, .drainWait d h o, .drainDiscard d h o, .drainStat d h o],
        (w % 8 = 0 → w / 2 ^ 4 % 16 = 0 → w / 2 ^ 12 % 2 = 0 → ∃ v, status v ∧ s.givesX i d v) ∧
        (w % 8 = 1 → w / 2 ^ 4 % 16 = 0 → w / 2 ^ 12 % 2 = 0 → g.atTurn s.cur →
          (g.waiters.find? (fun e => e.1 == s.cur) = none → ∃ l : List Nat, (∀ c, c ∈ l ↔ cs c) ∧ exec i s = .next ((s.setRegion g.key { at' with waiters := g.waiters ++ [(s.cur, l)], busyWith := some s.cur }).waitFor .region)) ∧
          (∀ l, g.busyWith = some s.cur → g.waiters.find? (fun e => e.1 == s.cur) = some (s.cur, l) → l ≠ [] → s.waits i .region) ∧
          (g.waiters.find? (fun e => e.1 == s.cur) = some (s.cur, []) → ∃ v, status v ∧
            exec i s = .next ((s.setRegion g.key { at' with waiters := g.waiters.erase (s.cur, []), busyWith := none }).onMe (fun th => (th.setX d v).advance)))) ∧
        (w % 8 = 2 → w / 2 ^ 4 % 16 = 0 → w / 2 ^ 12 % 2 = 0 → g.atTurn s.cur → ∃ (t : State) (g' : Region), exec i s = .next t ∧ s.sameMemory t ∧ t.me.pc = s.me.pc + 4 ∧ t.me.wait = none ∧
          (∀ x, t.me.getX x = if x = d ∧ x ≠ 0 then BitVec.ofNat 64 (g.tokensOf ([0, 1, 2, 3].filter (fun c => w / 2 ^ 8 % 16 == 0 || (w / 2 ^ 8).testBit c))) else s.me.getX x) ∧
          t.regions = tput s.regions g.key g' ∧ (∀ e ∈ g'.chans, ¬ cs (e.1 % 4) ∧ e ∈ g.chans) ∧ (∀ e ∈ g.chans, ¬ cs (e.1 % 4) → e ∈ g'.chans) ∧ (∀ e ∈ g'.ingress, ¬ cs e.2.ctx.val) ∧
          (∀ k ce, tget g.ces k = some ce → ∃ z, tget g'.ces k = some z ∧ z.rounds = ce.rounds.filter (fun x => !(w / 2 ^ 8 % 16 == 0 || (w / 2 ^ 8).testBit x.ctx.val)) ∧ (∀ x : Fin 4, z.flags.get x = if w / 2 ^ 8 % 16 = 0 ∨ (w / 2 ^ 8).testBit x.val = true then 0 else ce.flags.get x)) ∧
          (let named (f : RegionFault) : Prop := f.old = true ∨ f.record.kind = 7 ∨ cs f.record.ctx.val
           ((∀ f ∈ g.faults, named f) → g'.frozen = false ∧ (g.frozen = true → g'.brake = false ∧ g'.brakeBy = [])) ∧ ((∃ f ∈ g.faults, ¬ named f) → g'.frozen = g.frozen))) ∧
        (w % 8 = 3 → (∀ sel : Fin 6, w / 2 ^ 4 % 16 = sel.val → let v := BitVec.ofNat 64 (g.cnt.get sel).toNat
            (w / 2 ^ 12 % 2 = 0 → s.givesX i d v) ∧ (w / 2 ^ 12 % 2 = 1 → exec i s = .next ((s.setRegion g.key { g with cnt := g.cnt.set sel.val 0 sel.isLt }).onMe (fun th => (th.setX d v).advance)))) ∧
          (w / 2 ^ 4 % 16 = 6 → w / 2 ^ 12 % 2 = 0 → s.givesX i d (BitVec.ofNat 64 g.use)))) ∧
      ∀ rgn, s.region rgn = some g → exec (.quietReport rgn) s = .next (s.setRegion rgn { g with waiters := g.waiters.map (fun x => (x.1, x.2.filter (fun c => !g.quiet c))) }))

/-- CONTEXT_COUNTER and ROUND_START (R198 to R205): the counter names the next context that is not idle and counts those it passes; a ready task's round
starts with the heads of its input channels, a slot claimed in each output channel, its number, which its context's counter then passes, and its
context's constants; a task that lacks a round entry alone, or a frame alone, is counted; a marker beside data at its channels' heads is a fault; the
selection takes an aged task if there is one, else one of the highest priority, in turn. VECTOR_UNIT_START (R221): of the instructions whose operands
stand, the oldest round's first that needs no vector unit goes next, else the first for a free unit; it executes at once and the event looks again
behind it. -/
def Obligations.RoundsStartAndExecute : Prop :=
  (
    ∀ (s : State) (rgn ce : Nat) (r : Region), s.region rgn = some r →
      let order (n : Nat) : Fin 4 := r.cur + ⟨n % 4, Nat.mod_lt _ (by decide)⟩
      let runs (n : Nat) : Bool := r.runs (order n).val
      let idle (n : Nat) : Bool := s.idleCtx r (order n).val
      let skipped (n : Nat) : BitVec 32 := BitVec.ofNat 32 ((List.range n).filter (fun m => decide (1 ≤ m) && runs m)).length
      (∀ n, 1 ≤ n → n ≤ 4 → runs n = true → idle n = false → (∀ m, 1 ≤ m → m < n → runs m = true → idle m = true) →
        exec (.contextCounter rgn) s = .next (s.setRegion rgn { r with named := some (order n), cur := order n, cnt := r.cnt.set 4 (r.cnt.get 4 + skipped n) })) ∧
      ((∀ m, 1 ≤ m → m ≤ 4 → runs m = true → idle m = true) → exec (.contextCounter rgn) s = .next (s.setRegion rgn { r with named := none, cnt := r.cnt.set 4 (r.cnt.get 4 + skipped 5) })) ∧
      (∀ (i : Image) (b : Nat) (bl : Block) (ctx : Fin 4) (marker : Bool),
        let c := r.ce ce
        let pops := i.pops b
        let claims := i.claims b marker
        let k := bl.slot * 4 + ctx.val
        let num := tgetD c.rc k 0
        let head (p : Nat) : Token := (r.chan p ctx.val).buf.headD Token.empty
        r.image = some i → r.frozen = false → r.named = some ctx → r.tasksOn ce = [(b, bl)] → bl.isKstep = false → bl.slot < 16 → ctx.val ∈ bl.ctxm →
        (marker = true → pops ≠ []) → (∀ p ∈ pops, (r.chan p.2 ctx.val).buf ≠ [] ∧ ((head p.2).stop = 7 ↔ marker = true)) → (∀ q ∈ claims, q.2 ≤ r.chanFree q.1 ctx.val) →
        bl.loadsPatterns (bl.constK ctx.val) = false → (∀ rd ∈ c.rounds, ∀ o, i.blocks[rd.block]? = some o → o.loadsPatterns (fun n => (rd.consts[kIndex o.code n]?).getD 0) = false) →
        (pops.map (·.2)).Nodup → (claims.map (·.1)).Nodup →
          let framed : Prop := c.firstFrameUsed b = false ∨ bl.frame ≤ r.freeFrames ce
          (c.rounds.length < 8 → framed → ∃ (g : Region) (z : Ce) (rd : Round), exec (.roundStart rgn ce) s = .next (s.setRegion rgn g) ∧ tget g.ces ce = some z ∧ z.rounds = c.rounds ++ [rd] ∧
            rd.block = b ∧ rd.ctx = ctx ∧ rd.num = num ∧ rd.kind = (if marker then .marker else .ordinary) ∧ rd.frame = c.firstFrameUsed b ∧ rd.vals = pops.map (fun p => (p.1, .l, head p.2)) ∧ rd.fired = [] ∧ rd.consts = tgetD bl.consts ctx.val bl.loaded ∧ rd.bad = false ∧ rd.pops = pops.map (·.2) ∧
            z.last = bl.slot ∧ tgetD z.passed bl.slot 0 = 0 ∧ z.rc = tput c.rc k (num + 1) ∧ (∀ n, n ∈ z.started ↔ if marker then n ∈ c.started ∧ n ≠ k else n ∈ c.started ∨ n = k) ∧ z.banks = c.banks ∧ z.flags = c.flags ∧ z.bn = c.bn ∧
            (∀ n m, m < 4 → g.chan n m = (let st := r.chan n m
              if m ≠ ctx.val then st else { st with buf := if n ∈ pops.map (·.2) then st.buf.tail else st.buf, reserved := st.reserved + (if n ∈ pops.map (·.2) then 1 else 0) + ((claims.find? (fun q => q.1 == n)).map (·.2)).getD 0 })) ∧
            (∀ n, n ≠ ce → tget g.ces n = tget r.ces n) ∧ g.mts = r.mts ∧ g.frozen = false) ∧
          (8 ≤ c.rounds.length ∨ ¬ framed → ∃ (g : Region) (z : Ce), exec (.roundStart rgn ce) s = .next (s.setRegion rgn g) ∧ tget g.ces ce = some z ∧ z.rounds = c.rounds ∧ z.rc = c.rc ∧ g.chans = r.chans ∧
            (framed → g.cnt = r.cnt.set 3 (r.cnt.get 3 + 1)) ∧ (¬ framed → c.rounds.length < 8 → g.cnt = r.cnt.set 2 (r.cnt.get 2 + 1)) ∧ (¬ framed → 8 ≤ c.rounds.length → g.cnt = r.cnt))) ∧
      (∀ (i : Image) (b : Nat) (bl : Block) (ctx : Fin 4),
        let at' (t : Token) : Prop := ∃ p ∈ i.pops b, (r.chan p.2 ctx.val).buf.head? = some t
        r.image = some i → r.frozen = false → r.named = some ctx → r.tasksOn ce = [(b, bl)] → bl.isKstep = false → ctx.val ∈ bl.ctxm → (∃ t, at' t ∧ t.stop = 7) → (∃ t, at' t ∧ t.stop ≠ 7) →
          ∃ (u : State) (g : Region), exec (.roundStart rgn ce) s = .next u ∧ s.sameMemory u ∧ u.threads = s.threads ∧ u.region rgn = some g ∧ g.frozen = false ∧ g.freezing = true ∧ g.chans = r.chans ∧ (g.ce ce).rounds = (r.ce ce).rounds ∧
            ∃ f, f.record.kind = 2 ∧ f.record.ctx = ctx ∧ f.record.unit = 0 ∧ f.gone = false ∧ g.faults.Perm (f :: r.faults)) ∧
      ∀ (i : Image) (c c' : Ce) (ready : List (Nat × Block)) (t : Nat × Block) (aged : Bool), selectTask i c ready = some (t, c', aged) →
        let passed (e : Nat × Block) : Nat := tgetD c.passed e.2.slot 0
        let turn (e : Nat × Block) : Nat := (e.2.slot + 15 - c.last % 16) % 16
        t ∈ ready ∧ (aged = true ↔ ∃ e ∈ ready, 64 ≤ passed e) ∧ c'.last = t.2.slot ∧ c'.rounds = c.rounds ∧
        (aged = true → 64 ≤ passed t ∧ ∀ e ∈ ready, 64 ≤ passed e → e.2.slot < 16 → turn t ≤ turn e) ∧
        (aged = false → ∀ e ∈ ready, i.eff e.1 e.2 ≤ i.eff t.1 t.2 ∧ (i.eff e.1 e.2 = i.eff t.1 t.2 → e.2.slot < 16 → turn t ≤ turn e))) ∧
  (
    ∀ (s : State) (rgn ce : Nat) (r : Region) (i : Image), s.region rgn = some r → r.image = some i →
      let c := r.ce ce
      let cand (k n : Nat) (x : Instr) : Prop := ∃ rd bl, c.rounds[k]? = some rd ∧ i.blocks[rd.block]? = some bl ∧ bl.code[n]? = some x ∧ rd.ready bl n x = true
      let may (k n : Nat) (x : Instr) : Prop := cand k n x ∧ (needsUnit x = true → c.busy = 0 ∧ ∀ k' n' y, cand k' n' y → needsUnit y = true)
      (∀ k n x, may k n x → (∀ k' n' y, may k' n' y → k < k' ∨ (k = k' ∧ n ≤ n')) →
        exec (.vectorUnitStart rgn ce) s = .next { s with turn := .elem ⟨rgn, ce, k, n⟩, agenda := .vectorUnitStart rgn ce :: s.agenda }) ∧
      ((∀ k n x, ¬ may k n x) → exec (.vectorUnitStart rgn ce) s = .next s))

/-- ROUND_COMMIT (R39, R179, R181, R182, R201 to R204, R244, R253, R268, R269): the oldest round of a CE, once each of its instructions has started,
commits at once: its banks, patterns, flags and counter, its pushes, branch entries and tile requests on their way with the round's sideband, its
claimed slots free; a marker round's commit returns the counter to 0 and clears the flags; a constant that names another endpoint or a tile outside
the region is a fault instead, and the region freezes in the next cycle. CHANNEL_HEAD_ARRIVAL and BUCKET_CREDIT (R196, R213, R403): tokens whose way
is over stand at their channel's end in order, each context's alone; every bucket of the die gains its rate up to its depth, and a cycle in which a
token is held for want of credit alone even then, its point open and its channel with room, its bucket's rate a limit, is counted in its region; where
a bucket stands is log 40. -/
def Obligations.RoundsCommitAndTokensArrive : Prop :=
  (
    ∀ (s : State) (rgn ce : Nat) (r : Region) (i : Image) (bl : Block) (rd : Round) (rest : List Round),
      s.region rgn = some r → r.image = some i → (r.ce ce).rounds = rd :: rest → i.blocks[rd.block]? = some bl →
      let c := r.ce ce
      let whole : Prop := rd.bad = false ∧ (rd.kind = .kstep → 0 ∈ rd.fired ∧ rd.inFlight = []) ∧ (rd.kind ≠ .kstep → ∀ n, n < bl.code.length → n ∈ rd.fired)
      let k (n : Nat) : Word := (rd.consts[kIndex bl.code n]?).getD 0
      let outside (n : Nat) : Prop := 2 * r.w ≤ (k n).toNat / 2 ^ 8 % 32 ∨ r.h ≤ (k n).toNat / 2 ^ 13 % 16
      let same (n : Nat) : Prop := k n = BitVec.ofNat 64 (bl.loadedK n)
      let chanInstr (x : Instr) : Prop := isPop x = true ∨ isPush x = true ∨ isBqw x = true
      let good : Prop := rd.kind = .kstep ∨ ∀ n x, bl.code[n]? = some x → (chanInstr x → same n) ∧ ∀ op, mtOp x = some op → ¬ outside n ∧ mtConstOk op (k n) = true ∧ (k n).toNat % 16 = bl.loadedK n % 16
      let marker : Bool := rd.kind == .marker
      let raised := rd.bank.foldl (fun (acc : Vector Bank 4 × FlagSet) o => let y := o.apply bl rd.ctx (acc.1.get o.bank); (acc.1.set o.bank.val y.1 o.bank.isLt, acc.2 ||| y.2)) (c.banks, c.flags.get rd.ctx ||| rd.flags)
      let token (t : Token) : Token := { t with round := BitVec.ofNat 15 rd.num, ctx := rd.ctx, flags := if t.stop = 7 then rd.markerFlags raised.2 else 0 }
      let commits (p : Region → Prop) : Prop := ∃ g, exec (.roundCommit rgn ce) s = .next { s.setRegion rgn g with agenda := .roundCommit rgn ce :: s.agenda } ∧ p g
      let ctx := rd.ctx.val
      (¬ whole → exec (.roundCommit rgn ce) s = .next s) ∧
      (whole → good → commits (fun g =>
        (∃ z, tget g.ces ce = some z ∧ z.rounds = rest ∧ z.banks = raised.1 ∧ z.flags = c.flags.set ctx (if marker then 0 else raised.2) rd.ctx.isLt ∧ z.rc = (if marker then tput c.rc (bl.slot * 4 + ctx) 0 else c.rc) ∧ z.started = c.started ∧
          z.bn = rd.loads.foldl (fun v e => if h : e.1 < 8 then v.set e.1 e.2 h else v) c.bn) ∧ g.cnt = r.cnt.set 0 (r.cnt.get 0 + 1) ∧ (∀ n, n ≠ ce → tget g.ces n = tget r.ces n) ∧ g.frozen = r.frozen ∧
        (∀ n m, m < 4 → m ≠ ctx → g.chan n m = r.chan n m) ∧ (∀ n, n ∉ rd.pops → n ∉ rd.pushes.map (·.1) → n ∉ rd.bqws.map (·.1) → g.chan n ctx = r.chan n ctx) ∧
        (∀ n, rd.pops.count n = 1 → n ∉ rd.pushes.map (·.1) → n ∉ rd.bqws.map (·.1) → g.chan n ctx = { r.chan n ctx with reserved := (r.chan n ctx).reserved - 1 }) ∧
        (∀ n t, rd.pushes.filter (fun q => q.1 == n) = [(n, t)] → n ∉ rd.pops → n ∉ rd.bqws.map (·.1) → ∃ d, 1 ≤ d ∧ g.chan n ctx = { r.chan n ctx with reserved := (r.chan n ctx).reserved - 1, transit := (r.chan n ctx).transit ++ [(token t, d)] }) ∧
        (∀ n v, rd.bqws.filter (fun q => q.1 == n) = [(n, v)] → n ∉ rd.pops → n ∉ rd.pushes.map (·.1) → ∃ (u : Token) (d : Nat), 1 ≤ d ∧ g.chan n ctx = { r.chan n ctx with reserved := (r.chan n ctx).reserved - 1, transit := (r.chan n ctx).transit ++ (if v.isSome then [(u, d)] else []) } ∧
          u.stop = 0 ∧ u.ctx = rd.ctx ∧ u.valid = 1 ∧ ∀ x, v = some x → u.lanes.get 0 = x) ∧
        (∀ q mt, rd.reqs.filter (fun x => x.2 == mt) = [(q, mt)] → ∃ q' : MtReq, tget g.mts mt = some { tgetD r.mts mt Mt.new with arriving := (tgetD r.mts mt Mt.new).arriving ++ [q'] } ∧ 1 ≤ q'.hops ∧ q' = { q with hops := q'.hops, resp := { q.resp with flags := rd.markerFlags raised.2 } }) ∧
        (∀ mt, mt ∉ rd.reqs.map (·.2) → tget g.mts mt = tget r.mts mt))) ∧
      (whole → ¬ good → ∃ (u : State) (g : Region) (z : Ce), exec (.roundCommit rgn ce) s = .next u ∧ s.sameMemory u ∧ u.threads = s.threads ∧ u.region rgn = some g ∧ g.frozen = r.frozen ∧ (r.frozen = false → g.freezing = true) ∧ tget g.ces ce = some z ∧ z.rounds = { rd with bad := true } :: rest ∧ g.chans = r.chans ∧ g.mts = r.mts ∧
        ∃ f, f.record.kind.val ∈ [1, 3] ∧ f.record.ctx = rd.ctx ∧ f.record.unit = 0 ∧ f.gone = false ∧ g.faults.Perm (f :: r.faults))) ∧
  (
    ∀ (s : State) (rgn n : Nat) (r : Region), s.region rgn = some r →
      (∃ g, exec (.channelHeadArrival rgn n) s = .next (s.setRegion rgn g) ∧ { g with chans := r.chans } = r ∧ (∀ k m, m < 4 → k ≠ n → g.chan k m = r.chan k m) ∧
        ∀ m, m < 4 → ∃ here away, (r.chan n m).transit = here ++ away ∧ (∀ e ∈ here, e.2 = 0) ∧ (∀ e, away.head? = some e → e.2 ≠ 0) ∧
          g.chan n m = { r.chan n m with buf := (r.chan n m).buf ++ here.map (·.1), transit := away }) ∧
      ∀ die : Fin 4,
        let lacks (t : State) (g : Region) (port ctx : Nat) (p : Point) : Prop := g.portClosed port ctx = false ∧ (s.bucketAt g.die p.node).1 < 1024 ∧ t.creditAt g.die p < 1024 ∧ ∃ i c, g.image = some i ∧ i.portChan port = some c ∧ 0 < g.chanFree c ctx
        let held (t : State) (g : Region) : Prop := (∃ e ∈ s.bindings g, s.holdsToken e.1 e.2.2 = true ∧ lacks t g e.1 e.2.1 (s.bindingPoint e.2.2)) ∨ ∃ e ∈ g.ingress, lacks t g e.1 e.2.ctx.val (s.portPoint g e.1 e.2.ctx.val)
        ∃ t, exec (.bucketCredit die) s = .next t ∧ { t with regions := s.regions, credit := s.credit } = s ∧
          (∀ k g, s.region k = some g → (g.die = die → held t g → t.region k = some { g with cnt := g.cnt.set 5 (g.cnt.get 5 + 1) }) ∧ (g.die ≠ die ∨ ¬ held t g → t.region k = some g)) ∧
          ∀ k v, (k, v) ∈ t.credit ↔ ∃ u, (k, u) ∈ s.credit ∧ (((pointNode k).2 ≠ die ∧ v = u) ∨ ((pointNode k).2 = die ∧ (let bk := s.bucketAt die (pointNode k).1; v = u + bk.1 ∧ v < bk.2 * 1024))))

/-- K_STEP_ROUND (R198, R244, R249, R251, R254): with whole groups of its two types in both registers, room to pass them on and a free round entry, a
K-step round takes them, each goes on east or south, or leaves the region; the brake, a frozen region, a missing group or a load of the CE's patterns
holds it, and a cycle in which it waits for the round entry alone is counted; groups that do not match are a fault, and the region freezes in the next
cycle. Brakes, timeouts and the fault tree (R258, R259, R366 to R374): a brake is engaged once and counted, and released when neither a stream nor a
freeze holds it; a round or request held for SEQTO x 1,024 cycles is a fault, and its region freezes in the next cycle; a record leaves for the named
server, or is lost; AUTO discards a faulted context; the server's module writes the oldest record whole into its ring before its cause becomes
pending. -/
def Obligations.KStepsBrakesAndFaultRecords : Prop :=
  (
    ∀ (s : State) (rgn ce b : Nat) (r : Region) (bl : Block), s.region rgn = some r → (r.tasksOn ce).find? (fun e => e.2.isKstep) = some (b, bl) →
      let c := r.ce ce
      let ctx : Fin 4 := ⟨bl.ctxm.headD 0 % 4, Nat.mod_lt _ (by decide)⟩
      let k := (tgetD bl.consts ctx.val bl.loaded).headD 0
      let lk := BitVec.ofNat 64 (bl.loadedK 0)
      let east := ce % 64 + 1 < 4 * r.w
      let south := ce / 64 + 1 < 4 * r.h
      let group (g : List Token) (ty : EType) : Prop := g.length = 4 ∧ ∀ j t, g[j]? = some t → beatRow t = j ∧ t.valid = 0xFFFF ∧ t.ctx = ctx ∧ t.etype = ty ∧ t.stop = 0
      let stop (g : List Token) : Prop := ∃ t rest, g = t :: rest ∧ t.stop ≠ 0
      let patterns : Prop := (bl.loadsPatterns (bl.constK ctx.val) = true → c.rounds = []) ∧ ∀ rd ∈ c.rounds, ∀ i o, r.image = some i → i.blocks[rd.block]? = some o → o.loadsPatterns (fun n => (rd.consts[kIndex o.code n]?).getD 0) = false
      let awake : Prop := r.frozen = false ∧ r.brake = false ∧ (east → (r.ce (ce + 1)).aReg = []) ∧ (south → (r.ce (ce + 64)).bReg = []) ∧ c.aReg ≠ [] ∧ c.bReg ≠ [] ∧ ¬ (stop c.aReg ∧ stop c.bReg) ∧ patterns
      let code (w : Word) (n : Nat) : Nat := w.toNat / 2 ^ n % 16
      let match' : Prop := group c.aReg (EType.ofCode (code lk 8)) ∧ group c.bReg (EType.ofCode (code lk 12)) ∧ mmaConstOk k = true ∧ code k 8 = code lk 8 ∧ code k 12 = code lk 12
      (¬ awake → exec (.kStepRound rgn ce) s = .next s) ∧
      (awake → 8 ≤ c.rounds.length → exec (.kStepRound rgn ce) s = .next (s.setRegion rgn { r with cnt := r.cnt.set 3 (r.cnt.get 3 + 1) })) ∧
      (awake → c.rounds.length < 8 → match' → ∃ (g : Region) (z : Ce) (rd : Round), exec (.kStepRound rgn ce) s = .next (s.setRegion rgn g) ∧ tget g.ces ce = some z ∧ z.aReg = [] ∧ z.bReg = [] ∧ z.rounds = c.rounds ++ [rd] ∧ rd.kind = .kstep ∧ rd.block = b ∧ rd.ctx = ctx ∧
        rd.num = tgetD c.rc (bl.slot * 4 + ctx.val) 0 ∧ z.rc = c.rc ∧ rd.vals = c.aReg.map (fun t => (0, .l, t)) ++ c.bReg.map (fun t => (0, .t, t)) ∧ rd.fired = [] ∧
        (east → (g.ce (ce + 1)).aReg = c.aReg ∧ (g.ce (ce + 1)).bReg = (r.ce (ce + 1)).bReg) ∧ (south → (g.ce (ce + 64)).bReg = c.bReg ∧ (g.ce (ce + 64)).aReg = (r.ce (ce + 64)).aReg) ∧ g.chans = r.chans ∧
        ∀ n, n ≠ ce → (n ≠ ce + 1 ∨ ¬ east) → (n ≠ ce + 64 ∨ ¬ south) → tget g.ces n = tget r.ces n) ∧
      (awake → c.rounds.length < 8 → ¬ match' → ∃ (u : State) (g : Region), exec (.kStepRound rgn ce) s = .next u ∧ s.sameMemory u ∧ u.threads = s.threads ∧ u.region rgn = some g ∧ g.frozen = false ∧ g.freezing = true ∧ g.ces = r.ces ∧
        ∃ f, f.record.kind.val ∈ [1, 2] ∧ f.record.ctx = ctx ∧ f.gone = false ∧ g.faults.Perm (f :: r.faults))) ∧
  (
    ∀ (s : State) (rgn : Nat) (r : Region), s.region rgn = some r →
      let pg := s.part r.part
      let sets (i : Instr) (r' : Region) : Prop := exec i s = .next (s.setRegion rgn r')
      (∀ freeze, r.brake = true ∨ (if freeze then r.frozen = false else r.brakeBy = []) → exec (.brakeEngage rgn freeze) s = .next s) ∧
      (∀ freeze, r.brake = false → (if freeze then r.frozen = true else r.brakeBy ≠ []) → ∃ t, exec (.brakeEngage rgn freeze) s = .next t ∧ t.regions = tput s.regions rgn { r with brake := true } ∧ { t with regions := s.regions, parts := s.parts } = s ∧
        (∀ q, q ≠ r.part → t.part q = s.part q) ∧ (t.part r.part).fld 0x170 127 96 = (pg.fld 0x170 127 96 + 1) % 2 ^ 32 ∧ (t.part r.part).fld 0x170 49 48 = (if freeze then 2 else 1) ∧ (t.part r.part).fld 0x170 47 32 = r.handle % 2 ^ 16) ∧
      (r.brakeBy = [] → r.frozen = false → sets (.brakeRelease rgn) { r with brake := false }) ∧ (r.brakeBy ≠ [] ∨ r.frozen = true → sets (.brakeRelease rgn) r) ∧
      (let lim := pg.fld 0x3C0 63 32 * 1024
       let freezes (i : Instr) (ctx : Fin 4) (p : Region → Prop) : Prop := ∃ (t : State) (g : Region), exec i s = .next t ∧ s.sameMemory t ∧ t.threads = s.threads ∧ t.region rgn = some g ∧ g.frozen = r.frozen ∧ (r.frozen = false → g.freezing = true) ∧ p g ∧ ∃ f, f.record.kind = 5 ∧ f.record.ctx = ctx ∧ f.gone = false ∧ g.faults.Perm (f :: r.faults)
       (∀ mt unit, lim = 0 → exec (.sequencerTimeout rgn mt unit) s = .next s) ∧
       (∀ unit c rd rest, lim ≠ 0 → tget r.ces unit = some c → c.rounds = rd :: rest → rd.bad = false → lim ≤ rd.age → freezes (.sequencerTimeout rgn false unit) rd.ctx (fun g => ∃ z, tget g.ces unit = some z ∧ z.rounds = { rd with bad := true } :: rest)) ∧
       (∀ unit c, lim ≠ 0 → tget r.ces unit = some c → (∀ rd ∈ c.rounds, rd.bad = true ∨ rd.age < lim) → exec (.sequencerTimeout rgn false unit) s = .next s) ∧
       (∀ unit m q, lim ≠ 0 → tget r.mts unit = some m → m.queue = [q] → q.bad = false → lim ≤ q.age → freezes (.sequencerTimeout rgn true unit) q.ctx (fun g => tget g.mts unit = some { m with queue := [{ q with bad := true }] })) ∧
       ∀ unit m, lim ≠ 0 → tget r.mts unit = some m → (∀ q ∈ m.queue, q.bad = true ∨ q.age < lim) → exec (.sequencerTimeout rgn true unit) s = .next s) ∧
      (∀ f, r.faults = [f] → f.gone = false → (f.left ≠ 0 → sets (.faultRecordLeave rgn) (if r.frozen then r else { r with faults := [f] })) ∧
        (f.left = 0 → ∃ t, exec (.faultRecordLeave rgn) s = .next t ∧ s.sameMemory t ∧ t.threads = s.threads ∧ t.regions = tput s.regions rgn { r with faults := if r.frozen then [{ f with gone := true }] else [] } ∧
          let server : Fin 8 := ⟨pg.fld 0x3C0 98 96 % 8, Nat.mod_lt _ (by decide)⟩
          (pg.fld 0x3C0 64 64 = 0 → (t.part r.part).fld 0x3F0 127 96 = (pg.fld 0x3F0 127 96 + 1) % 2 ^ 32 ∧ t.links = s.links) ∧
          (pg.fld 0x3C0 64 64 ≠ 0 → BitVec.ofNat 16 (pg.fld 0x3C0 127 112) = s.module → s.treeCount < 64 → (t.part server).records = (s.part server).records ++ [(BitVec.ofNat 16 (pg.fld 0x3C0 95 80), f.record)]) ∧
          (pg.fld 0x3C0 64 64 ≠ 0 → BitVec.ofNat 16 (pg.fld 0x3C0 127 112) = s.module → 64 ≤ s.treeCount → (t.part server).fld 0x3F0 127 96 = ((s.part server).fld 0x3F0 127 96 + 1) % 2 ^ 32) ∧
          (∀ n, pg.fld 0x3C0 64 64 ≠ 0 → BitVec.ofNat 16 (pg.fld 0x3C0 127 112) ≠ s.module → s.recordPort r.part (BitVec.ofNat 16 (pg.fld 0x3C0 127 112)) = some n →
            (t.link n).outbox = (s.link n).outbox ++ [.control (.record server (BitVec.ofNat 16 (pg.fld 0x3C0 95 80)) f.record)]))) ∧
      (r.frozen = false ∨ pg.fld 0x3C0 65 65 = 0 → exec (.autoDiscard rgn) s = .next s) ∧
      (∀ f, r.frozen = true → r.key = rgn → pg.fld 0x3C0 65 65 ≠ 0 → r.faults = [f] → f.gone = true → f.discarded = false → f.old = false → f.record.kind ≠ 7 → ∃ (t : State) (g : Region), exec (.autoDiscard rgn) s = .next t ∧ s.sameMemory t ∧ t.regions = tput s.regions rgn g ∧ g.frozen = false ∧ g.faults = [] ∧
        (∀ e ∈ g.chans, e.1 % 4 ≠ f.record.ctx.val) ∧ ∀ e ∈ g.ces, ∀ x ∈ e.2.rounds, x.ctx ≠ f.record.ctx) ∧
      ∀ p : Fin 8,
        let q := s.part p
        let seq := q.fld 0x3E0 127 64
        let k := q.fld 0x3D0 103 96
        let size := 2 ^ (if 6 ≤ k ∧ k ≤ 20 then k else 6)
        let full : Prop := size ≤ (seq + 2 ^ 64 - q.fld 0x3E0 63 0) % 2 ^ 64
        let at' := q.fld 0x3D0 56 14 * 2 ^ 14 + 64 * (seq % size)
        (q.records = [] ∨ (q.recordOut = false ∧ (q.fld 0x3D0 0 0 = 0 ∨ full ∨ s.homeLost at' = true)) ∨ (q.recordOut = true ∧ s.busy (.records p) = true) → exec (.faultRecordWrite p) s = .next s) ∧
        ∀ lidx f rest, q.records = (lidx, f) :: rest → q.recordOut = false → q.fld 0x3D0 0 0 = 1 → ¬ full → s.homeLost at' = false → s.busy (.records p) = false → s.alone at' 0 → s.mem.wf = true → ∃ t, exec (.faultRecordWrite p) s = .next t ∧ s.sameMemoryBut t at' 64 ∧ (t.part p).records = rest ∧ (t.part p).fld 0x3E0 127 64 = (seq + 1) % 2 ^ 64 ∧
          memRead t.mem at' 8 = seq ∧ memRead t.mem (at' + 8) 1 = f.kind.val ∧ memRead t.mem (at' + 9) 1 = f.part.val ∧ memRead t.mem (at' + 10) 2 = f.module.toNat ∧ memRead t.mem (at' + 12) 2 = f.region.toNat ∧ memRead t.mem (at' + 14) 1 = f.ctx.val ∧
          memRead t.mem (at' + 15) 1 = f.unit.val ∧ memRead t.mem (at' + 16) 1 = f.x.toNat ∧ memRead t.mem (at' + 17) 1 = f.y.toNat ∧ memRead t.mem (at' + 18) 1 = f.slot.toNat ∧ memRead t.mem (at' + 20) 2 = f.round.toNat ∧ memRead t.mem (at' + 22) 2 = f.lidx.toNat ∧
          memRead t.mem (at' + 24) 8 = f.gtime.toNat ∧ memRead t.mem (at' + 32) 16 = f.addr.toNat ∧ memRead t.mem (at' + 48) 8 = f.info.toNat ∧ memRead t.mem (at' + 56) 8 = 0 ∧
          ∀ u, q.threads[lidx.toNat]? = some u → (s.thread u).st = .active → (⟨if f.kind = 7 then 0x0B else 0x14, BitVec.ofNat 64 seq⟩ : Pending) ∈ (t.thread u).pend)

/-- POOL and COPY as instructions (R305 to R308, R311 to R314, R316): a good slot word, a free slot and a sound descriptor queue a pool or a copy with the
thread's GEN and mode; RESUME and ABANDON act on a faulted one; PWAIT and CWAIT wait out RUN, then give the status word, free an ended slot and
acquire what a completed one wrote, keeping aside an engine whose token is still due; COPYCAN cancels and counts, at the end of the line that is being
moved. -/
def Obligations.PoolsAndCopiesAreIssued : Prop :=
  ∀ (s : State) (d r c : Fin 32) (a : Fin 16),
    let w := (s.me.getX r).toNat
    let k := w % 8
    let plain : Prop := w / 2 ^ 8 = 0 ∧ w / 8 % 2 ^ 5 = 0
    let resume : Prop := w / 2 ^ 9 = 0 ∧ w.testBit 8 = true ∧ w / 8 % 2 ^ 5 = 0
    let abandon : Prop := w / 2 ^ 10 = 0 ∧ w.testBit 9 = true ∧ w.testBit 8 = false ∧ w / 8 % 2 ^ 5 = 0
    let va := s.me.getA a
    let frame (t : State) : Prop := s.sameMemory t ∧ t.me.pc = s.me.pc + 4 ∧ t.me.wait = none
    let same (t : State) (ended : Option Requester) : Prop := s.sameButMe { t with nextId := s.nextId, parts := s.parts, dies := s.dies, rimWalks := s.rimWalks } ∧ t.rimWalks = s.rimWalks.filter (fun e => some e.1 != ended) ∧
      (ended = none → t.dies = s.dies) ∧ ∀ e, { t.die e with misses := (s.die e).misses } = s.die e
    let pools : List Instr := [.pool r a, .poolResume r a, .poolAbandon r a]
    let copies : List (Instr × Option Nat) := [(.copy r a, none), (.copyResume r a, none), (.copyAbandon r a, none), (.copydl r a c, some (s.me.getX c).toNat)]
    let free (i : Instr) : Prop := ¬ plain ∧ ¬ resume ∧ ¬ abandon → s.refuses i 16
    (∀ i ∈ pools, free i ∧ (plain → (tget s.me.pools k).isSome → s.refuses i 17) ∧ (resume ∨ abandon → tget s.me.pools k = none → s.refuses i 17) ∧
      (∀ desc : List Byte, plain → tget s.me.pools k = none → (va.toNat % 16 ≠ 0 → s.refuses i 21) ∧ (va.toNat % 16 = 0 → desc.length = 128 → s.readable va desc →
        let p : Pool := ⟨.run, desc, 0, 0, 0, 0, s.me.gen, s.me.cur, false, s.nextId, none, s.me.dclk.toList, none, none, 0⟩
        let p : Pool := { p with rgn := s.tokenRegion p.triple }
        let target := p.triple.bind (fun x => s.tokenTarget x.1 x.2.1 x.2.2)
        (poolZeros desc = false → s.refuses i 16 s.hasRead) ∧ (∀ e, poolZeros desc = true → target = some e → s.refuses i e s.hasRead) ∧ (poolZeros desc = true → target = none → poolRules p = false → s.refuses i 21 s.hasRead) ∧
        (poolZeros desc = true → target = none → poolRules p = true → ∃ t, exec i s = .next t ∧ frame t ∧ same t none ∧ t.me.pools = tput s.me.pools k p ∧ s.hasRead.me.sameButPc { t.me with pools := s.me.pools } ∧ s.nextId < t.nextId))) ∧
      ∀ p, tget s.me.pools k = some p →
        (resume → p.state = .fault → 1 ≤ p.fkind → p.fkind ≤ 6 → ∃ t, exec i s = .next t ∧ frame t ∧ same t none ∧ t.me.pools = tput s.me.pools k { p with state := .run, fkind := 0 } ∧ s.me.sameButPc { t.me with pools := s.me.pools }) ∧
        (resume → p.state ≠ .fault ∨ p.fkind = 0 ∨ 6 < p.fkind → s.refuses i 17) ∧ (abandon → p.state ≠ .fault → s.refuses i 17) ∧
        (abandon → p.state = .fault → ∃ t q, exec i s = .next t ∧ frame t ∧ same t (some (.pool s.cur k)) ∧ t.me.pools = tput s.me.pools k q ∧ q = { p with state := .aborted, tokenDue := (bytesAt p.desc 95 1).testBit 2, after := q.after } ∧ s.me.sameButPc { t.me with pools := s.me.pools })) ∧
    (∀ i ∈ copies, (i.2 = none → free i.1) ∧ (i.2.isSome → ¬ plain → s.refuses i.1 16) ∧ (plain → (tget s.me.copies k).isSome → s.refuses i.1 17) ∧
      (∀ desc : List Byte, plain → tget s.me.copies k = none → (va.toNat % 16 ≠ 0 → s.refuses i.1 21) ∧ (va.toNat % 16 = 0 → desc.length = 64 → s.readable va desc →
        let p : Copy := ⟨.run, desc, i.2, 0, 0, s.me.gen, s.me.cur, false, s.nextId, false, false, 0⟩
        let p : Copy := { p with rgn := s.tokenRegion p.triple }
        let target := p.triple.bind (fun x => s.tokenTarget x.1 x.2.1 x.2.2)
        let late : Prop := ∃ dl, i.2 = some dl ∧ dl < s.gtimeOf s.cur + (bytesAt desc 32 8 * 1000 + (s.part (s.partOf s.cur)).copyBudget - 1) / (s.part (s.partOf s.cur)).copyBudget
        (copyZeros desc = false → s.refuses i.1 16 s.hasRead) ∧ (∀ e, copyZeros desc = true → target = some e → s.refuses i.1 e s.hasRead) ∧ (copyZeros desc = true → target = none → copyRules p = false → s.refuses i.1 21 s.hasRead) ∧
        (copyZeros desc = true → target = none → copyRules p = true → s.copiesIn (dieOf s.cur) (s.partOf s.cur) (fun _ c => !c.cancelling) = [] → ∃ t q, exec i.1 s = .next t ∧ frame t ∧ same t (if q.state = .cancelled then some (.copy s.cur k) else none) ∧ t.me.copies = tput s.me.copies k q ∧ q.desc = desc ∧ q.deadline = i.2 ∧ q.lines = 0 ∧ q.gen = s.me.gen ∧ q.mode = s.me.cur ∧
          (q = p ∨ (q.state = .cancelled ∧ late)) ∧ (¬ late → q = p ∧ s.hasRead.me.sameButPc { t.me with copies := s.me.copies }) ∧ (late → s.me.st ≠ .off → sortedKeys s.threads = true → q.state = .cancelled ∧ (t.part (s.partOf s.cur)).fld 0x190 95 64 = ((s.part (s.partOf s.cur)).fld 0x190 95 64 + 1) % 2 ^ 32)))) ∧
      ∀ p, i.2 = none → tget s.me.copies k = some p →
        (resume → p.state = .fault → 1 ≤ p.fkind → p.fkind ≤ 6 → ∃ t, exec i.1 s = .next t ∧ frame t ∧ same t none ∧ t.me.copies = tput s.me.copies k { p with state := .run, fkind := 0 } ∧ s.me.sameButPc { t.me with copies := s.me.copies }) ∧
        (resume → p.state ≠ .fault ∨ p.fkind = 0 ∨ 6 < p.fkind → s.refuses i.1 17) ∧ (abandon → p.state ≠ .fault → s.refuses i.1 17) ∧
        (abandon → p.state = .fault → ∃ t q, exec i.1 s = .next t ∧ frame t ∧ same t (some (.copy s.cur k)) ∧ t.me.copies = tput s.me.copies k q ∧ q = { p with state := .cancelled, tokenDue := (bytesAt p.desc 47 1).testBit 0, after := q.after } ∧ s.me.sameButPc { t.me with copies := s.me.copies })) ∧
    (¬ plain → ∀ i ∈ [Instr.pwait d r, .cwait d r, .copycan r], s.refuses i 16) ∧
    (plain →
      let ends (i : Instr) (v : Nat) (acq : Bool) (table : State → Prop) : Prop := ∃ t, exec i s = .next t ∧ frame t ∧ (∀ x, t.me.getX x = if x = d ∧ x ≠ 0 then BitVec.ofNat 64 v else s.me.getX x) ∧
        (if acq then s.sameButMyCore t ∧ s.acquired t s.cur else s.sameButMe t) ∧ table t
      (tget s.me.pools k = none → s.givesX (.pwait d r) d 0) ∧ (tget s.me.copies k = none → s.givesX (.cwait d r) d 0 ∧ s.refuses (.copycan r) 17) ∧
      (∀ p, tget s.me.pools k = some p → (p.state = .run → s.waits (.pwait d r) .slot) ∧
        (p.state ≠ .run → ends (.pwait d r) (p.bag % 2 ^ 16 * 2 ^ 48 + p.oor * 2 ^ 32 + p.flags.toNat * 2 ^ 16 + (if p.state = .fault then p.fkind else 0) * 2 ^ 8 + p.state.code) (p.state == .done) (fun t =>
          (p.state = .fault → t.me.pools = s.me.pools) ∧ (p.state = .done ∨ p.state = .aborted → sortedKeys s.me.pools = true → tget t.me.pools k = none ∧ (∀ j, j < 8 → j ≠ k → tget t.me.pools j = tget s.me.pools j) ∧
            (p.tokenDue = false → t.me.pools = tdel s.me.pools k) ∧ (p.tokenDue = true → ∃ j, 8 ≤ j ∧ tget t.me.pools j = some p))))) ∧
      ∀ p, tget s.me.copies k = some p → (p.state = .run → s.waits (.cwait d r) .slot) ∧
        (p.state ≠ .run → ends (.cwait d r) (p.lines * 2 ^ 24 + (if p.state = .fault then p.fkind else 0) * 2 ^ 8 + p.state.code) (p.state == .done) (fun t =>
          (p.state = .fault → t.me.copies = s.me.copies) ∧ (p.state = .done ∨ p.state = .cancelled → sortedKeys s.me.copies = true → tget t.me.copies k = none ∧ (∀ j, j < 8 → j ≠ k → tget t.me.copies j = tget s.me.copies j) ∧
            (p.tokenDue = false → t.me.copies = tdel s.me.copies k) ∧ (p.tokenDue = true → ∃ j, 8 ≤ j ∧ tget t.me.copies j = some p)))) ∧
        (p.state = .run ∨ p.state = .fault → p.moving = true → ∃ t, exec (.copycan r) s = .next t ∧ frame t ∧ same t none ∧ t.me.copies = tput s.me.copies k { p with cancelling := true } ∧ s.me.sameButPc { t.me with copies := s.me.copies }) ∧
        (p.state = .run ∨ p.state = .fault → p.moving = false → ∃ t q, exec (.copycan r) s = .next t ∧ frame t ∧ same t (some (.copy s.cur k)) ∧ t.me.copies = tput s.me.copies k q ∧ q = { p with state := .cancelled, tokenDue := (bytesAt p.desc 47 1).testBit 0, after := q.after } ∧ t.me.ev = (s.me.ev || p.state == .run) ∧
          (t.part (s.partOf s.cur)).fld 0x190 95 64 = ((s.part (s.partOf s.cur)).fld 0x190 95 64 + 1) % 2 ^ 32) ∧
        (p.state ≠ .run → p.state ≠ .fault → s.refuses (.copycan r) 17))

/-- POOL_BAG (R44, R49, R307 to R311): a bag without an index in range is zeros; the one row of a bag of one index is its elements, widened, each times
its weight, rounded to FP32; a decreasing offset faults with kind 8; a bag counts once its result's lines are performed; rows are added in the order
of their drays within a die, then of dies. COPY_LINE, DEADLINE_TEST and COMPLETION_TOKEN (R314, R315, R317): the copy first in order moves one line
whole; a copy that cannot meet its deadline behind the bytes ahead of it is cancelled and counted, and its bytes count no more; a completed engine's
token carries its tag and its status word, enters in completion order with the entry limits of R161, and frees the slot; that of a freed region is
dropped. -/
def Obligations.PoolsAndCopiesAtWork : Prop :=
  (
    (∀ (s : State) (t k : Nat) (p : Pool) (a0 a1 ai po : Nat), tget (s.thread t).pools k = some p → p.state = .run → s.earlierDone t p.after = true → p.writing = none → p.bagNow = none → s.busy (.pool t k) = false → (bytesAt p.desc 95 1).testBit 1 = false → s.mem.wf = true →
      let e : Engine := ⟨.pool t k, (dieOf t).val * 96, t, p.mode, none, p.dclk, p.since⟩
      let ptr (o : Nat) : Addr := BitVec.ofNat 80 (bytesAt p.desc o 10)
      let size := if (bytesAt p.desc 95 1).testBit 3 then 8 else 4
      let rows := bytesAt p.desc 80 8
      let len := bytesAt p.desc 92 2
      let ty := EType.ofCode (bytesAt p.desc 94 1)
      let reads (va : Addr) (pa n : Nat) : Prop := va.toNat % 2 ^ 14 + n ≤ 2 ^ 14 ∧ ∀ j, j < n → ∃ mt, s.engineAt e (va + BitVec.ofNat 80 j) .load (pa + j) mt
      let off (b : Nat) : Addr := ptr 16 + BitVec.ofNat 80 (4 * b)
      let o0 := memRead s.mem a0 4
      let o1 := memRead s.mem a1 4
      let va := ptr 32 + BitVec.ofNat 80 (size * o0)
      let i := memRead s.mem ai size
      let out := ptr 64 + BitVec.ofNat 80 (4 * len * p.bag)
      let writes : Prop := out.toNat % 2 ^ 14 + 4 * len ≤ 2 ^ 14 ∧ ∀ j, j < 4 * len → ∃ mt, mt ≤ 2 ∧ s.engineAt e (out + BitVec.ofNat 80 j) .store (po + j) mt ∧ s.alone (po + j) mt
      let done (n : Nat) (fl : FlagSet) (v : Nat → Nat) : Prop := ∃ w q, exec (.poolBag t k) s = .next w ∧ s.sameMemoryBut w po (4 * len) ∧ (∀ j, j < len → memRead w.mem (po + 4 * j) 4 = v j % 2 ^ 32) ∧ tget (w.thread t).pools k = some q ∧
        q.bag = p.bag + 1 ∧ q.oor = min 0xFFFF (p.oor + n) ∧ q.flags = p.flags ||| fl ∧ q.state = (if bytesAt p.desc 88 4 ≤ p.bag + 1 then .done else .run)
      reads (off p.bag) a0 4 → reads (off (p.bag + 1)) a1 4 →
        (o1 < o0 → ∃ w q, exec (.poolBag t k) s = .next w ∧ s.sameMemory w ∧ tget (w.thread t).pools k = some q ∧ q.state = .fault ∧ q.fkind = 8 ∧ q.bag = p.bag) ∧
        (o1 = o0 → writes → done 0 0 (fun _ => 0)) ∧
        (o1 = o0 + 1 → reads va ai size → writes →
          (rows ≤ i → done 1 0 (fun _ => 0)) ∧
          ∀ pr aw : Nat,
            let n := etypeBytes ty
            let row := ptr 0 + BitVec.ofNat 80 (i * bytesAt p.desc 96 4)
            let wt := if (bytesAt p.desc 95 1).testBit 0 then memRead s.mem aw 4 else 0x3F800000
            let v (j : Nat) : Res := Fmt.fp32.sum .rne Rsh.zero [mulTerm (Fmt.fp32.decode wt) (decodeElem ty (memRead s.mem (pr + j * n) n)).toVal]
            i < rows → ((bytesAt p.desc 95 1).testBit 0 = true → reads (ptr 48 + BitVec.ofNat 80 (4 * o0)) aw 4) → 1 ≤ len → ty = .fp32 ∨ ty = .fp16 ∨ ty = .bf16 → row.toNat % n = 0 → row.toNat % 2 ^ 14 + len * n ≤ 2 ^ 14 →
              (∀ j, j < len * n → s.engineAt e (row + BitVec.ofNat 80 j) .load (pr + j) 1) → done 0 ((List.range len).foldl (fun fl j => fl ||| (v j).flags) 0) (fun j => (v j).bits))) ∧
    (∀ (s : State) (t k : Nat) (p : Pool) (n : Nat) (fl : FlagSet), tget (s.thread t).pools k = some p → p.state = .run → s.earlierDone t p.after = true → p.writing = some (n, fl) →
      (s.busy (.pool t k) = true → exec (.poolBag t k) s = .next s) ∧
      (s.busy (.pool t k) = false → ∃ w q, exec (.poolBag t k) s = .next w ∧ s.sameMemory w ∧ tget (w.thread t).pools k = some q ∧ q.bag = p.bag + 1 ∧ q.oor = min 0xFFFF (p.oor + n) ∧ q.flags = p.flags ||| fl ∧ q.writing = none ∧
        (q.state = if bytesAt p.desc 88 4 ≤ p.bag + 1 then .done else .run) ∧ (bytesAt p.desc 88 4 ≤ p.bag + 1 → (w.thread t).ev = true ∧ q.tokenDue = (bytesAt p.desc 95 1).testBit 2))) ∧
    ∀ (n : Nat) (a b c d : PVec) (x y : Nat), x < 32 → y < 32 → x < y →
      poolSum n [(x, a)] = a ∧ poolSum n [(x, a), (x, b), (x, c)] = addVec (addVec a b) c ∧ poolSum n [(y, a), (x, b)] = addVec b a ∧ poolSum n [] = (List.replicate n 0, 0) ∧
      (x / 8 < y / 8 → poolSum n [(y, a), (x, b), (y, c), (x, d)] = addVec (addVec b d) (addVec a c))) ∧
  (
    (∀ (s : State) (die : Fin 4) (p : Fin 8) (t k : Nat) (c : Copy) (ps pd ms md : Nat), s.copiesAt die p = [(t, k, c)] → (∀ q, q ≠ p → s.copiesAt die q = []) → tget (s.thread t).copies k = some c → s.mem.wf = true → c.cancelling = false →
      (∀ u ∈ tkeys s.threads, dieOf u = die → ∀ x ∈ (s.thread u).copies, x.2.moving = false) →
      let e : Engine := ⟨.copy t k, (dieOf t).val * 96, t, c.mode, none, [], none⟩
      let off := BitVec.ofNat 80 (128 * c.lines)
      let src := BitVec.ofNat 80 (bytesAt c.desc 0 10) + off
      let dst := BitVec.ofNat 80 (bytesAt c.desc 16 10) + off
      let left := bytesAt c.desc 32 8 - 128 * (c.lines + 1)
      ((s.part p).copyBudget ≤ (s.die die).copyUsed.get p → exec (.copyLine die) s = .next s) ∧
      ((s.die die).copyUsed.get p < (s.part p).copyBudget → src.toNat % 128 = 0 → dst.toNat % 128 = 0 → s.engineAt e src .load ps ms → s.isPoisoned (ps + 127) = false → ms ≤ 2 → s.engineAt e dst .store pd md →
        (md ≤ 2 → s.busy (.copy t k) = false → s.alone pd md → ∃ w q, exec (.copyLine die) s = .next w ∧ s.sameMemoryBut w pd 128 ∧ (∀ j, j < 128 → memByte w.mem (pd + j) = memByte s.mem (ps + j)) ∧ tget (w.thread t).copies k = some q ∧ q.lines = c.lines + 1 ∧ q.state = (if left = 0 then .done else c.state) ∧
          (left = 0 → (w.thread t).ev = true ∧ (w.part (s.partOf t)).fld 0x190 127 96 = ((s.part (s.partOf t)).fld 0x190 127 96 + 1) % 2 ^ 32) ∧ (w.die die).copyTurn = p.val ∧ (w.die die).copyUsed.get p = (s.die die).copyUsed.get p + 128) ∧
        (2 < md → ∃ w q, exec (.copyLine die) s = .next w ∧ s.sameMemory w ∧ tget (w.thread t).copies k = some q ∧ q.state = .fault ∧ q.fkind = 2 ∧ q.lines = c.lines))) ∧
    (∀ (s : State) (die : Fin 4) (p : Fin 8),
      let b := (s.part p).copyBudget
      let tooLate (c : Copy) (ahead : Nat) : Prop := ∃ dl, c.deadline = some dl ∧ dl < s.gtime die + ((ahead + c.remaining) * 1000 + b - 1) / b
      let queued := s.copiesIn die p (fun _ c => !c.cancelling)
      (queued = [] → exec (.deadlineTest die p) s = .next s) ∧
      (∀ t k c, queued = [(t, k, c)] → (¬ tooLate c 0 → exec (.deadlineTest die p) s = .next s) ∧
        (tooLate c 0 → c.moving = false → exec (.deadlineTest die p) s = .next (s.cancelCopy t k c)) ∧ (tooLate c 0 → c.moving = true → exec (.deadlineTest die p) s = .next (s.setCopy t k { c with cancelling := true }))) ∧
      ∀ t k c t' k' c', queued = [(t, k, c), (t', k', c')] → c.deadline.isSome →
        exec (.deadlineTest die p) s = .next (let u := if c.deadline.any (fun dl => decide (dl < s.gtime die + (c.remaining * 1000 + b - 1) / b)) then s.askCancel t k c else s
          let ahead := if c.deadline.any (fun dl => decide (dl < s.gtime die + (c.remaining * 1000 + b - 1) / b)) then 0 else c.remaining
          if c'.deadline.any (fun dl => decide (dl < s.gtime die + ((ahead + c'.remaining) * 1000 + b - 1) / b)) then u.askCancel t' k' c' else u)) ∧
    ∀ (s : State) (t slot : Nat) (copy : Bool) (h port : Nat) (ctx : Fin 4) (tag status order rgn : Nat) (gen : BitVec 8),
      let freed : Thread := if copy then { s.thread t with copies := tdel (s.thread t).copies slot } else { s.thread t with pools := tdel (s.thread t).pools slot }
      (if copy then ∃ c, tget (s.thread t).copies slot = some c ∧ c.tokenDue = true ∧ c.triple = some (h, port, ctx.val) ∧ tag = bytesAt c.desc 40 4 ∧ status = c.status ∧ gen = c.gen ∧ order = c.after ∧ rgn = c.rgn
        else ∃ c, tget (s.thread t).pools slot = some c ∧ c.tokenDue = true ∧ c.triple = some (h, port, ctx.val) ∧ tag = bytesAt c.desc 104 4 ∧ status = c.status ∧ gen = c.gen ∧ order = c.after ∧ rgn = c.rgn) →
      ((∀ r, s.region (rkey (s.partOf t) h) = some r → r.uid ≠ rgn) → exec (.completionToken t slot copy) s = .next (s.setThread t freed)) ∧
      ∀ r, s.region (rkey (s.partOf t) h) = some r → r.uid = rgn →
        let before : Prop := ∃ u, u ∈ s.threadsOn r.part r.die ∧ ∃ x ∈ ((s.thread u).pools.filterMap (fun z => z.2.due) ++ (s.thread u).copies.filterMap (fun z => z.2.due)), x.triple = (h, port, ctx.val) ∧ x.order < order
        let held : Prop := (r.port port).out = true ∨ r.restored port ctx.val = true ∨ before ∨ 4 ≤ (s.core (coreOf t)).gave
        let tok (v : Vector Word 16) : Prop := v.get 0 = BitVec.ofNat 64 tag ∧ v.get 1 = BitVec.ofNat 64 status ∧ ∀ l : Fin 16, 2 ≤ l.val → v.get l = 0
        (held → exec (.completionToken t slot copy) s = .next s) ∧
        ∀ v, ¬ held → tok v →
          (∀ u, s.tryEnter r port ctx.val (queuePoint t 32) ⟨0, 0, ctx, gen, .i64, 0, 3, v⟩ = .enters u → exec (.completionToken t slot copy) s = .next ((u.setThread t { freed with ev := true }).onCore (coreOf t) (fun c => { c with gave := c.gave + 1 }))) ∧
          ((∀ u, s.tryEnter r port ctx.val (queuePoint t 32) ⟨0, 0, ctx, gen, .i64, 0, 3, v⟩ ≠ .enters u) → exec (.completionToken t slot copy) s = .next s))

/-- FENCE, RNDDOM, RNDSET and RNDGET (R329 to R331, R334, R336, R338, R340 to R343): a fence waits for what it orders and then acquires, whatever its
scope, or bars later stores; one whose scope has no other observer of memory waits for no access (log 17: what each scope observes); a new domain
starts at round 0 with its copies dropped (a length that is no multiple of 128: log 44); a clock slot takes its domain, clock and floor; each selector
reads its field; a misuse is refused with its reason. RNDADV and its controller (R329, R339, R340): with its earlier accesses done the instruction
asks its domain's controller, which advances the home round by one or refuses the last, and sends it to every die that stands; once each of their
views has reached the round it is in x[d]; views only rise. -/
def Obligations.FencesAndRounds : Prop :=
  (
    (∀ (s : State) (c : Scope) (q : Bool) (k : FenceKind),
      let mine (p : Req → Prop) : Prop := ∃ r ∈ s.flight, r.ofThread s.cur = true ∧ r.performed = false ∧ p r
      let others (f : Nat → Prop) : Prop := ∃ e ∈ s.threads, e.1 ≠ s.cur ∧ f e.1 ∧ (e.2.st ≠ .off ∨ e.2.enginesRun = true)
      let orders : Prop := match c with
        | .thr | .rgn => s.me.enginesRun = true
        | .die => s.me.enginesRun = true ∨ others (fun u => dieOf u = dieOf s.cur)
        | .mod => s.me.enginesRun = true ∨ others (fun _ => True)
        | .sys => True
      let pushes : Prop := q = true ∧ k ≠ .acq ∧ (orders ∨ c ≠ .thr) ∧ s.pushesEntered s.cur = false
      let owed : Prop := orders ∧ ((k = .full ∧ mine (fun r => r.id < s.nextId)) ∨ (k = .acq ∧ mine (fun r => r.isStore = false)))
      let i := Instr.fence c q k
      (s.me.path.isSome → s.waits i .likely) ∧ (s.me.path = none → owed ∨ pushes → s.waits i .memory) ∧
      (s.me.path = none → ¬ pushes → k = .rel → ¬ orders → exec i s = .next (s.onMe Thread.advance)) ∧
      (s.me.path = none → ¬ owed → ¬ pushes → k = .rel ∧ orders ∨ k ≠ .rel → ∃ t, exec i s = .next t ∧ s.sameMemory t ∧ t.me.pc = s.me.pc + 4 ∧ t.me.wait = none ∧
        (k = .rel → s.sameButMe t ∧ t.me.relBar = s.nextId ∧ s.me.sameButPc { t.me with relBar := s.me.relBar }) ∧ (k ≠ .rel → s.sameButMyCore t ∧ s.acquired t s.cur ∧ s.me.sameButPc { t.me with dclk := s.me.dclk }))) ∧
    (∀ (s : State) (d : Fin 32) (a : Fin 16) (bs : List Byte), s.me.cur ≠ .worker → bs.length = 32 → s.readable (s.me.getA a) bs →
      let base := bytesAt bs 0 10
      let len := bytesAt bs 16 8
      let idx := bytesAt bs 24 2
      let p := s.partOf s.cur
      let ds := (s.part p).domains
      let sound : Prop := base % 128 = 0 ∧ 0 < len ∧ len % 128 = 0 ∧ base + len ≤ 2 ^ 80 ∧ ∀ k o, (k, o) ∈ ds → o.base + o.len ≤ base ∨ base + len ≤ o.base
      let i := Instr.rnddom d a
      let gives (v : Nat) : Prop := ∃ t, exec i s = .next t ∧ s.sameButMe t ∧ s.sameMemory t ∧ s.hasRead.me.sameButX t.me ∧ t.me.pc = s.me.pc + 4 ∧ t.me.wait = none ∧ ∀ r, t.me.getX r = if r = d ∧ r ≠ 0 then BitVec.ofNat 64 v else s.me.getX r
      (bytesAt bs 26 6 ≠ 0 → s.refuses i 16 s.hasRead) ∧ (bytesAt bs 26 6 = 0 → 4095 < idx → s.refuses i 24 s.hasRead) ∧
      (bytesAt bs 26 6 = 0 → idx ≤ 4095 →
        (∀ o, tget ds idx = some o → (o.base ≠ base ∨ o.len ≠ len → s.refuses i 25 s.hasRead) ∧ (o.base = base → o.len = len → gives o.hr)) ∧
        (tget ds idx = none → ¬ sound → s.refuses i 25 s.hasRead) ∧
        (tget ds idx = none → sound → ∃ t, exec i s = .next t ∧ s.sameMemory t ∧ t.me.pc = s.me.pc + 4 ∧ t.me.wait = none ∧ (∀ r, t.me.getX r = if r = d then 0 else s.me.getX r) ∧
          (t.part p).domains = tput ds idx ⟨base, len, 0, Vector.replicate 4 0⟩ ∧ (∀ q, q ≠ p → t.part q = s.part q) ∧
          (let mapped (l : Nat) : Prop := ∃ (i : Nat) (fw : Bool) (e : TlbEntry), i * 2 ^ 14 < base % 2 ^ 14 + len ∧
             (let page := base / 2 ^ 14 * 2 ^ 14 + i * 2 ^ 14
              let lo := max base page
              let first := lineOf (leafPa e (BitVec.ofNat 80 lo))
              s.walk p fw (BitVec.ofNat 80 lo) = some e ∧ first ≤ l ∧ l < first + (min (base + len) (page + 2 ^ 14) - lo) / 128)
           (∀ n x, x ∈ (t.core n).l1 ↔ x ∈ (s.core n).l1 ∧ ¬ mapped x.line) ∧ ∀ dd x, x ∈ (t.die dd).dir ↔ x ∈ (s.die dd).dir ∧ ¬ mapped x.line)))) ∧
    ∀ (s : State) (d r v : Fin 32),
      let w := (s.me.getX r).toNat
      let c := (s.me.getX v).toNat
      let dom := w / 2 ^ 16 % 2 ^ 12
      let slot : Fin 8 := ⟨w % 8, Nat.mod_lt _ (by decide)⟩
      let at' : Fin 8 := ⟨w / 4 % 8, Nat.mod_lt _ (by decide)⟩
      let part := s.part (s.partOf s.cur)
      let sets (i : Instr) (k : ClockSlot) : Prop := ∃ t, exec i s = .next t ∧ s.sameButMe t ∧ s.sameMemory t ∧ t.me.pc = s.me.pc + 4 ∧ t.me.wait = none ∧ t.me.dclk.get slot = k ∧ (∀ j, j ≠ slot → t.me.dclk.get j = s.me.dclk.get j) ∧ s.me.sameButPc { t.me with dclk := s.me.dclk }
      let sel := w % 4
      let slotSel : Prop := sel < 2 ∧ dom = 0
      let domSel : Prop := 2 ≤ sel ∧ at' = 0
      (∀ i ∈ [Instr.rndset r v, .rndsetClr r v],
        (w / 2 ^ 28 % 2 ^ 35 ≠ 0 ∨ w / 2 ^ 3 % 2 ^ 13 ≠ 0 ∨ (2 ^ 63 ≤ w ∧ dom ≠ 0) ∨ (w < 2 ^ 63 ∧ 2 ^ 32 ≤ c) → s.refuses i 16) ∧
        (w / 2 ^ 28 % 2 ^ 35 = 0 → w / 2 ^ 3 % 2 ^ 13 = 0 →
          (2 ^ 63 ≤ w → dom = 0 → sets i ⟨false, 0, 0, 0⟩) ∧
          (w < 2 ^ 63 → c < 2 ^ 32 → (tget part.domains dom = none → s.refuses i 24) ∧
            ∀ o, tget part.domains dom = some o →
              let other : Prop := ∃ j, j ≠ slot ∧ (s.me.dclk.get j).v = true ∧ (s.me.dclk.get j).dom = dom
              let old := s.me.dclk.get slot
              (other → s.refuses i 27) ∧ (¬ other → sets i ⟨true, dom, c, if old.v = true ∧ old.dom = dom then max (o.view.get (dieOf s.cur)) old.floor else o.view.get (dieOf s.cur)⟩)))) ∧
      (w / 2 ^ 28 ≠ 0 ∨ w / 2 ^ 5 % 2 ^ 11 ≠ 0 ∨ ¬ (slotSel ∨ domSel) → s.refuses (.rndget d r) 16) ∧
      (w / 2 ^ 28 = 0 → w / 2 ^ 5 % 2 ^ 11 = 0 → slotSel ∨ domSel →
        (sel = 0 → ∀ x : Word, (x.getLsbD 63 = (s.me.dclk.get at').v) → x.toNat % 2 ^ 63 = ((s.me.dclk.get at').dom * 2 ^ 48 + (s.me.dclk.get at').clk) → s.givesX (.rndget d r) d x) ∧ (sel = 1 → s.givesX (.rndget d r) d (if (s.me.dclk.get at').v = true then BitVec.ofNat 64 (s.me.dclk.get at').floor else 0)) ∧
        (2 ≤ sel → tget part.domains dom = none → s.refuses (.rndget d r) 24) ∧
        ∀ o, tget part.domains dom = some o → (sel = 2 → s.givesX (.rndget d r) d (BitVec.ofNat 64 (o.view.get (dieOf s.cur)))) ∧
          (sel = 3 → (s.die ⟨dom % 4, Nat.mod_lt _ (by decide)⟩).lost = false →
            ((∀ w n, s.me.wait = some w → w.kind ≠ .until n) → ∃ t n, exec (.rndget d r) s = .next t ∧ s.tick < n ∧ t.me.wait = some ⟨.until n, 0, false⟩ ∧ t.me.pc = s.me.pc ∧ s.me.sameButPc t.me ∧ s.sameButMe { t with freeCtr := s.freeCtr }) ∧
            ∀ w n, s.me.wait = some w → w.kind = .until n → (s.tick < n → s.waits (.rndget d r) (.until n)) ∧ (n ≤ s.tick → s.givesX (.rndget d r) d (BitVec.ofNat 64 o.hr))) ∧
          (sel = 3 → (s.die ⟨dom % 4, Nat.mod_lt _ (by decide)⟩).lost = true → s.me.path = none → s.traps (.rndget d r) 0x0A (BitVec.ofNat 64 o.base)))) ∧
  (
    (∀ (s : State) (d r : Fin 32),
      let x := (s.me.getX r).toNat
      let ctl : Fin 4 := ⟨x % 4, Nat.mod_lt _ (by decide)⟩
      let i := Instr.rndadv d r
      let idle : Prop := s.me.reply = none ∧ ∀ w n, s.me.wait = some w → w.kind ≠ .round n
      (2 ^ 12 ≤ x → s.refuses i 16) ∧ (x < 2 ^ 12 → tget (s.part (s.partOf s.cur)).domains x = none → s.refuses i 24) ∧
      ∀ dom, x < 2 ^ 12 → tget (s.part (s.partOf s.cur)).domains x = some dom →
        ((s.die ctl).lost = true → s.me.path = none → s.traps i 0x0A (BitVec.ofNat 64 dom.base)) ∧
        ((s.die ctl).lost = false →
          (idle → (∃ q ∈ s.flight, q.ofThread s.cur = true ∧ q.performed = false ∧ q.id < s.nextId) → s.waits i .memory) ∧
          (idle → (∀ q ∈ s.flight, q.ofThread s.cur = true → q.performed = true ∨ s.nextId ≤ q.id) → ∃ t n, exec i s = .next t ∧ t.me.wait = some ⟨.round x, 0, false⟩ ∧ s.me.sameButPc t.me ∧ t.me.pc = s.me.pc ∧ s.tick < n ∧ t.later = s.later ++ [(n, .roundControllerIncrement s.cur)] ∧ s.sameButMe { t with later := s.later, freeCtr := s.freeCtr }) ∧
          (∀ k, s.me.reply = some (2 ^ 64 + k) → s.refuses i k) ∧
          (∀ w n, s.me.reply = none → s.me.wait = some w → w.kind = .round n → (n < 4096 → exec i s = .next s) ∧
            (4096 ≤ n → (∀ e : Fin 4, (s.die e).lost = false → n - 4096 ≤ dom.view.get e) → s.givesX i d (BitVec.ofNat 64 (n - 4096))) ∧
            (∀ e : Fin 4, 4096 ≤ n → (s.die e).lost = false → dom.view.get e < n - 4096 → exec i s = .next s)))) ∧
    (∀ (s : State) (t x : Nat) (w : Wait) (dom : Domain), (s.thread t).wait = some w → w.kind = .round x → x < 4096 → tget (s.part (s.partOf t)).domains x = some dom → (s.die ⟨x % 4, Nat.mod_lt _ (by decide)⟩).lost = false →
      (dom.hr = 2 ^ 32 - 1 → exec (.roundControllerIncrement t) s = .next (s.onThread t (fun th => { th with reply := some (2 ^ 64 + 26) }))) ∧
      (dom.hr ≠ 2 ^ 32 - 1 → ∃ u, exec (.roundControllerIncrement t) s = .next u ∧ s.sameMemory u ∧ tget (u.part (s.partOf t)).domains x = some { dom with hr := dom.hr + 1 } ∧ (u.thread t).wait = some ⟨.round (dom.hr + 1 + 4096), 0, false⟩ ∧
        (∀ e ∈ s.later, e ∈ u.later) ∧ ∀ e : Fin 4, (s.die e).lost = false → ∃ n, s.tick < n ∧ (n, Event.viewUpdate (s.partOf t) x e (dom.hr + 1)) ∈ u.later)) ∧
    ∀ (s : State) (p : Fin 8) (x : Nat) (die : Fin 4) (n : Nat) (dom : Domain), tget (s.part p).domains x = some dom →
      let ctl : Fin 4 := ⟨x % 4, Nat.mod_lt _ (by decide)⟩
      ((s.die die).lost = true ∨ (s.die ctl).lost = true → exec (.viewUpdate p x die n) s = .next s) ∧
      ((s.die die).lost = false → (s.die ctl).lost = false → ∃ u, exec (.viewUpdate p x die n) s = .next u ∧ { u with parts := s.parts } = s ∧ (∀ q, q ≠ p → u.part q = s.part q) ∧ (u.part p).domains = tput (s.part p).domains x { dom with view := dom.view.set die.val (max (dom.view.get die) n) die.isLt }))

/-- WPULL, WDONE and WFAIL (R355 to R360): with a sound header, a claim free and its record's page to hand, WPULL asks the queue's home, or with CTR the
counter's tile, for the waybill the counter stands at in one indivisible step, and begins again where the counter has moved on; answered, it records
the waybill and enters it in the claim table, or reports that none is published; WDONE and WFAIL close a claim's record in one step at its home, and
keep the claim where the record is no longer theirs. Which page is looked at when is log 44. -/
def Obligations.WaybillsAreClaimedAndClosed : Prop :=
  ∀ (s : State) (d r k : Fin 32) (a c : Fin 16),
    let va := s.me.getA a
    let drains : Prop := ∃ w, s.me.wait = some w ∧ w.kind = .drain
    let asks (i : Nat) (way rec : Addr) (pa : Nat) (e : TlbEntry) : Prop := s.me.wait.map Wait.kind = some (.claim i way rec pa e)
    let free : Prop := s.busy (.area s.cur) = false
    let acquires (i : Instr) (p : State → Prop) : Prop := ∃ t, exec i s = .next t ∧ s.sameMemory t ∧ s.sameButMyCore t ∧ s.acquired t s.cur ∧ t.me.pc = s.me.pc + 4 ∧ t.me.wait = none ∧ p t
    let empty : Prop := acquires (.wpull d a c) (fun t => s.me.sameButX { t.me with dclk := s.me.dclk } ∧ ∀ x, t.me.getX x = if x = d ∧ x ≠ 0 then BitVec.allOnes 64 else s.me.getX x)
    (¬ free → ∀ i ∈ [Instr.wpull d a c, .wdone r a k, .wfail r a k], exec i s = .next s) ∧ (free → drains → acquires (.wpull d a c) (fun t => s.me.sameButPc { t.me with dclk := s.me.dclk })) ∧
    (∀ i way rec pa e, free → asks i way rec pa e → (s.me.reply = none → exec (.wpull d a c) s = .next s) ∧ (s.me.reply = some (2 ^ 65) → exec (.wpull d a c) s = .next (s.onMe (fun th => { th with wait := none, reply := none }))) ∧
      (∀ j, j < 2 ^ 64 → s.me.reply = some (2 ^ 64 + j) → s.refuses (.wpull d a c) j) ∧ (s.me.reply = some (2 ^ 64 - 1) → empty) ∧
      (i < 2 ^ 64 - 1 → s.me.reply = some i → pa % 16 = 0 → s.alone pa e.mt → s.mem.wf = true → ∃ t, exec (.wpull d a c) s = .next t ∧ s.sameMemoryBut t pa 16 ∧ memRead t.mem pa 8 = i ∧ memRead t.mem (pa + 8) 4 = 0 ∧
        memRead t.mem (pa + 12) 2 = (s.part (s.partOf s.cur)).lidx s.cur % 2 ^ 16 ∧ memRead t.mem (pa + 14) 1 = (s.partOf s.cur).val ∧ memRead t.mem (pa + 15) 1 = 1 ∧ t.me.getA c = way ∧ (∀ x, x ≠ c → t.me.getA x = s.me.getA x) ∧
        (∀ x, t.me.getX x = if x = d ∧ x ≠ 0 then BitVec.ofNat 64 i else s.me.getX x) ∧ t.me.claims = s.me.claims ++ [⟨va, i, s.me.cur == .firmware⟩] ∧ t.me.pc = s.me.pc + 4 ∧ t.me.wait = none ∧ ∀ j : Fin 8, (t.me.dclk.get j).v = (s.me.dclk.get j).v)) ∧
    (∀ io ∈ [Instr.wdone r a k, .wfail r a k], free → let i := (s.me.getX r).toNat
      (∀ v l x n, s.me.reply = some v → v < 2 ^ 64 → s.me.claims = l ++ x :: n → x.header = va → x.index = i → (∀ y ∈ l, ¬ (y.header = va ∧ y.index = i)) → ∃ t, exec io s = .next t ∧ s.sameButMe t ∧ s.sameMemory t ∧ t.me.pc = s.me.pc + 4 ∧ t.me.wait = none ∧
        t.me.claims = s.me.claims.erase x ∧ s.me.sameButPc { t.me with claims := s.me.claims }) ∧ ∀ j, s.me.reply = some (2 ^ 64 + j) → s.refuses io j) ∧
    ∀ (bs : List Byte) (hp : Nat) (he : TlbEntry), bs.length = 64 → s.readable va bs → s.reaches va .load 8 hp he → free →
      let tail := bytesAt bs 0 8
      let entries := bytesAt bs 48 4
      let ctl := bytesAt bs 52 4
      let name := bytesAt bs 56 8
      let ring : Addr := BitVec.ofNat 80 (bytesAt bs 16 16)
      let recs : Addr := BitVec.ofNat 80 (bytesAt bs 32 16)
      let sound : Prop := va.toNat % 64 = 0 ∧ he.mt = 3 ∧ ctl < 2 ∧ (∃ n, 2 ≤ n ∧ n ≤ 24 ∧ entries = 2 ^ n) ∧ ring.toNat % 64 = 0 ∧ recs.toNat % 16 = 0 ∧
        (ctl = 1 → bytesAt bs 8 8 = 0 ∧ name / 2 ^ 48 = 0 ∧ name / 2 ^ 19 % 2 ^ 4 = 0) ∧ (ctl = 0 → name = 0)
      let record (i : Nat) : Addr := recs + BitVec.ofNat 80 (16 * (i % entries))
      let waybill (i : Nat) : Addr := ring + BitVec.ofNat 80 (64 * (i % entries))
      let other (n : Nat) : Prop := ∃ p e, s.reaches (record n) .load 8 p e ∧ (e.mt ≠ 3 ∨ (e.mt = 3 ∧ ∃ q g, s.reaches (waybill n) .load 8 q g ∧ g.mt ≠ 3))
      let pages (n : Nat) : Prop := ∃ p e q g, s.reaches (record n) .load 8 p e ∧ e.mt = 3 ∧ s.reaches (waybill n) .load 8 q g ∧ g.mt = 3
      let idle : Prop := s.me.reply = none ∧ ¬ drains ∧ ∀ i way rec pa e, ¬ asks i way rec pa e
      let off := name % 2 ^ 19
      let m := name / 2 ^ 23 % 2 ^ 4 * 32 + name / 2 ^ 27 % 2 ^ 5
      let named (g : Region) : Prop := s.region (rkey (s.partOf s.cur) (name / 2 ^ 32 % 2 ^ 16)) = some g ∧ g.die = dieOf s.cur ∧ name / 2 ^ 27 % 2 ^ 5 < 2 * g.w ∧ name / 2 ^ 23 % 2 ^ 4 < g.h ∧ name % 8 = 0
      let tile (g : Region) : Mt := tgetD g.mts m Mt.new
      let windowed (g : Region) : Prop := ∃ b n, (tile g).windowAhead = some (b, n) ∧ b ≤ off ∧ off + 8 ≤ b + n
      let stands (n : Nat) : Prop := (ctl = 0 ∧ n = bytesAt bs 8 8) ∨ (ctl = 1 ∧ ∃ g, named g ∧ windowed g ∧ n = memRead (tile g).scratch off 8)
      let asked (n p : Nat) (e : TlbEntry) (f : State → Prop) : Prop := ∃ t q g, exec (.wpull d a c) s = .next t ∧ t.me.pc = s.me.pc ∧ s.hasRead.me.sameButPc t.me ∧ t.me.wait.map Wait.kind = some (.claim n (waybill n) (record n) q g) ∧ (n < tail → q = p ∧ g = e) ∧ f t
      (idle → ctl % 2 = 0 → ¬ sound → s.refuses (.wpull d a c) 28 s.hasRead) ∧ (idle → ctl = 1 → (∀ g, s.region (rkey (s.partOf s.cur) (name / 2 ^ 32 % 2 ^ 16)) ≠ some g) → s.refuses (.wpull d a c) 22 s.hasRead) ∧
      (∀ g, idle → ctl = 1 → named g → ¬ windowed g → s.refuses (.wpull d a c) 23 s.hasRead) ∧
      (∀ n, idle → stands n → (¬ sound → s.refuses (.wpull d a c) 28 s.hasRead) ∧ (sound → n < tail → other n → s.refuses (.wpull d a c) 28 s.hasRead) ∧ (sound → (n < tail → pages n) → 4 ≤ s.me.claims.length → s.refuses (.wpull d a c) 30 s.hasRead)) ∧
      (∀ n p e, idle → stands n → sound → s.me.claims.length < 4 → (n < tail → pages n ∧ s.reaches (record n) .store 8 p e) →
        (∀ q g, ctl = 0 → s.reaches (va + 8) .atomic 8 q g → s.alone q g.mt → s.mem.wf = true → let i := memRead s.mem q 8
          asked n p e (fun t => (tail ≤ i → s.sameMemory t ∧ t.me.reply = some (2 ^ 64 - 1)) ∧ (i < tail → i ≠ n → s.sameMemory t ∧ t.me.reply = some (2 ^ 65)) ∧
            (i < tail → i = n → s.sameMemoryBut t q 8 ∧ memRead t.mem q 8 = i + 1 ∧ t.me.reply = some i))) ∧
        ∀ g, ctl = 1 → named g → asked n p e (fun t => s.sameMemory t ∧ ∃ q : MtReq, q.work = .claim s.cur off tail n ∧ q.off = off ∧ t.region g.key = some { g with mts := tput g.mts m { tile g with arriving := (tile g).arriving ++ [q] } })) ∧
      ∀ io ∈ [(Instr.wdone r a k, 2), (.wfail r a k, 3)], s.me.reply = none →
        let i := (s.me.getX r).toNat
        let code := (s.me.getX k).toNat
        let mine : Prop := ∃ x ∈ s.me.claims, x.header = va ∧ x.index = i
        let owes : Prop := ∃ q ∈ s.flight, q.ofThread s.cur = true ∧ q.performed = false ∧ q.id < s.nextId
        (2 ^ 32 ≤ code → s.refuses io.1 16 s.hasRead) ∧ (code < 2 ^ 32 → ¬ sound → s.refuses io.1 28 s.hasRead) ∧ (code < 2 ^ 32 → sound → other i → s.refuses io.1 28 s.hasRead) ∧ (code < 2 ^ 32 → sound → pages i → ¬ mine → s.refuses io.1 29 s.hasRead) ∧
        ∀ p g, code < 2 ^ 32 → sound → pages i → mine → s.reaches (record i) .atomic 8 p g → (owes → s.waits io.1 .memory s.hasRead) ∧
          (¬ owes → s.alone p g.mt → s.mem.wf = true → ∃ t, exec io.1 s = .next t ∧ t.me.pc = s.me.pc ∧ t.me.wait.map Wait.kind = some .memory ∧ s.hasRead.me.sameButPc t.me ∧
            (memRead s.mem p 8 ≠ i ∨ memRead s.mem (p + 15) 1 ≠ 1 → s.sameMemory t ∧ t.me.reply = some (2 ^ 64 + 31)) ∧
            (memRead s.mem p 8 = i → memRead s.mem (p + 15) 1 = 1 → s.sameMemoryBut t (p + 8) 8 ∧ memRead t.mem (p + 8) 4 = code ∧ memRead t.mem (p + 12) 3 = memRead s.mem (p + 12) 3 ∧ memRead t.mem (p + 15) 1 = io.2 ∧ t.me.reply = some 1))

/-- CTXSAVE and CTXRST (R376 to R379): their checks in order; the thread part's area of 96 KiB and what it leaves of the thread; the region part's wait
for quiet, its area and what it writes back into the region; poisoned bytes. What fields of the thread's area the rules leave open is the model's
choice (log 22, log 23). -/
def Obligations.ContextsAreSavedAndRestored : Prop :=
  ∀ (s : State) (d r : Fin 32) (a : Fin 16) (save : Bool),
    let w := (s.me.getX r).toNat
    let va := s.me.getA a
    let is : List Instr := if save then [.ctxsaveRegion d r a, .ctxsaveThread d r a] else [.ctxrstRegion d r a, .ctxrstThread d r a]
    let row : Instr := if save then .ctxsaveRegion d r a else .ctxrstRegion d r a
    let e : Engine := ⟨.area s.cur, (dieOf s.cur).val * 96, s.cur, s.me.cur, none, [], none⟩
    let stands (n : Nat) (l : List Nat) : Prop := l.length = (n + 2 ^ 14 - 1) / 2 ^ 14 ∧ ∀ k pa, l[k]? = some pa → s.engineAt e (va + BitVec.ofNat 80 (2 ^ 14 * k)) (if save then .store else .load) pa 0
    let alone (l : List Nat) (n : Nat) : Prop := (∀ x ∈ l, x % 2 ^ 14 = 0) ∧ ∀ j, j < n → let pa := l.getD (j / 2 ^ 14) 0 + j % 2 ^ 14; s.alone pa 0 ∧ s.homeLost pa = false
    let fresh : Prop := s.me.st = .active ∧ (∀ x, s.me.wait = some x → x.kind ≠ .drain ∧ ∀ l, x.kind ≠ .pages l) ∧ s.busy (.area s.cur) = false ∧ ∀ x ∈ s.rimWalks, x.1 ≠ .area s.cur
    let at' (l : List Nat) (off : Nat) : Nat := l.getD (off / 2 ^ 14) 0 + off % 2 ^ 14
    let area (l : List Nat) (off n : Nat) : List Byte := (List.range n).map (fun j => memByte s.mem (at' l (off + j)))
    let clean (l : List Nat) (off n : Nat) : Prop := ∀ j, j < n → s.isPoisoned (at' l (off + j)) = false
    let wrote (t : State) (l : List Nat) (off : Nat) (bs : List Byte) : Prop := ∀ j v, bs[j]? = some v → memByte t.mem (at' l (off + j)) = v
    let zeros : Prop := w / 2 ^ 32 % 2 ^ 31 = 0 ∧ w / 2 ^ 9 % 8 = 0 ∧ w % 2 ^ 8 = 0 ∧ (w.testBit 63 = true → w / 2 ^ 12 % 2 ^ 20 = 0)
    let scr := w.testBit 8
    let h := w / 2 ^ 16 % 2 ^ 16
    let runs (k : SlotState) : Bool := k == .run
    let moved (t : State) (n : Nat) : Prop := t.me.pc = s.me.pc + 4 ∧ t.me.wait = none ∧ ∀ x, t.me.getX x = if x = d ∧ x ≠ 0 then BitVec.ofNat 64 n else s.me.getX x
    let poisons : Prop := ∃ t v, exec (if w.testBit 63 then Instr.ctxrstThread d r a else .ctxrstRegion d r a) s = .next t ∧ moved t 0 ∧ (⟨0x13, v⟩ : Pending) ∈ t.me.pend
    s.mem.wf = true → fresh → ∀ i ∈ is,
      (∀ c, s.me.cur = .worker → encode row = some c → s.me.path = none → s.traps i 0x02 (BitVec.ofNat 64 c)) ∧
      (s.me.cur ≠ .worker → ¬ zeros → s.refuses i 32) ∧
      (s.me.cur ≠ .worker → zeros → w.testBit 63 = true →
        (va.toNat % 2 ^ 14 ≠ 0 → s.refuses i 33) ∧
        ∀ l, va.toNat % 2 ^ 14 = 0 → stands 98304 l →
          let live : Prop := s.me.ss.any (fun x => runs x.2.state) = true ∨ s.me.pools.any (fun x => decide (x.1 < 8) && runs x.2.state) = true ∨ s.me.copies.any (fun x => decide (x.1 < 8) && runs x.2.state) = true
          let held : Prop := s.me.qs ≠ [] ∨ s.me.bq.isSome = true ∨ s.me.ss ≠ [] ∨ s.me.pools.any (fun x => decide (x.1 < 8)) = true ∨ s.me.copies.any (fun x => decide (x.1 < 8)) = true ∨ s.me.claims ≠ []
          (save = true → live → s.refuses i 35) ∧ (save = false → held → s.refuses i 35) ∧
          (save = true → ¬ live → s.me.area.length ≤ 98304 → alone l 98304 → ∃ t, exec i s = .next t ∧ moved t 98304 ∧ (∀ p, (∀ x ∈ l, p < x ∨ x + 2 ^ 14 ≤ p) → memByte t.mem p = memByte s.mem p) ∧
            (l.Nodup → wrote t l 0 s.me.area ∧ wrote t l 0 (leBytes 0x32435853 4 ++ leBytes 1 2 ++ leBytes s.me.gen.toNat 1 ++ leBytes s.me.ev.toNat 1)) ∧
            t.me.qs = [] ∧ t.me.bq = none ∧ t.me.ss = [] ∧ t.me.claims = [] ∧ (∀ x ∈ t.me.pools, 8 ≤ x.1) ∧ (∀ x ∈ t.me.copies, 8 ≤ x.1) ∧
            s.me.sameButX { t.me with qs := s.me.qs, bq := s.me.bq, ss := s.me.ss, claims := s.me.claims, pools := s.me.pools, copies := s.me.copies, left := s.me.left }) ∧
          (save = false → ¬ held → ¬ clean l 0 98304 → poisons) ∧
          (save = false → ¬ held → clean l 0 98304 →
            let b := area l 0 98304
            let head : Prop := bytesAt b 0 4 = 0x32435853 ∧ bytesAt b 4 2 = 1 ∧ bytesAt b 232 8 = 98304
            (¬ head → s.refuses i 36) ∧ (head → s.threadAgain b = none → s.refuses i 37) ∧
            (head → b.drop 256 = List.replicate 98048 0 → ∃ t, exec i s = .next t ∧ moved t 98304 ∧ s.sameButMe t ∧ s.sameMemory t ∧
              s.me.sameButX { t.me with gen := s.me.gen, ev := s.me.ev, claims := s.me.claims, dclk := s.me.dclk, seen := s.me.seen } ∧ t.me.seen = max s.me.seen (s.die (dieOf s.cur)).dlt ∧ t.me.gen.toNat = bytesAt b 6 1 ∧ t.me.ev = (bytesAt b 7 1).testBit 0 ∧
              (∀ k : Fin 8, t.me.dclk.get k = readClock (b.drop (104 + 16 * k.val))) ∧ t.me.claims = readClaims (Mode.ofBits s.me.prev s.freeCtr == .firmware) b ∧ t.me.qs = [] ∧ t.me.bq = none ∧ t.me.ss = [] ∧ t.me.pools = s.me.pools ∧ t.me.copies = s.me.copies))) ∧
      (s.me.cur ≠ .worker → zeros → w.testBit 63 = false →
        (s.region (rkey (s.partOf s.cur) h) = none → s.refuses i 2) ∧
        ∀ g : Region, s.region (rkey (s.partOf s.cur) h) = some g → (g.die ≠ dieOf s.cur → s.refuses i 3) ∧
          (g.die = dieOf s.cur → g.key = rkey (s.partOf s.cur) h → g.w ≤ 12 → g.h ≤ 12 → (¬ g.atTurn s.cur → exec i s = .next (((s.setRegion g.key { g with line := if s.cur ∈ g.line then g.line else g.line ++ [s.cur] }).onMe (fun th => { th with st := .frozen })).waitFor .region)) ∧ (g.atTurn s.cur → g.busyWith = none → va.toNat % 2 ^ 14 ≠ 0 → s.refusesAt g i 33) ∧
            let fixed := 131072 + 2 ^ 14 * (16 * g.w * g.h) + 524288 * (2 * g.w * g.h)
            let named (c : Nat) : Prop := c < 4 ∧ if w / 2 ^ 12 % 16 = 0 then g.runs c = true else (w / 2 ^ 12).testBit c = true
            let cs : List Nat := [0, 1, 2, 3].filter (fun c => if w / 2 ^ 12 % 16 = 0 then g.runs c else (w / 2 ^ 12).testBit c)
            let good : Prop := cs ≠ [] ∧ (∀ c, named c → g.runs c = true) ∧ g.frozen = false
            let size (n : Nat) : Nat := if scr then fixed + 144 * n else fixed + 144 * n - 524288 * (2 * g.w * g.h)
            let quiet (x : Region) : Bool := cs.all (fun c => Region.quiet { x with ingress := [] } c)
            (∀ l, g.atTurn s.cur → g.busyWith = none → va.toNat % 2 ^ 14 = 0 → stands fixed l → ¬ good → s.refusesAt g i 34) ∧
            (save = true → g.busyWith = some s.cur → quiet g = false → s.waits i .region) ∧
            (∀ l, save = true → g.atTurn s.cur → g.busyWith = none → va.toNat % 2 ^ 14 = 0 → stands fixed l → good →
              ∃ closed : List (Nat × Nat), (∀ p c, (p, c) ∈ closed ↔ (p, c) ∈ g.closedPorts ∨ (named c ∧ ∃ im q, g.image = some im ∧ im.ports[p]? = some q ∧ q.out = false)) ∧
                let g' : Region := { g with closedPorts := closed, busyWith := some s.cur, line := g.line.filter (fun u => u != s.cur) }
                (quiet g' = false → exec i s = .next (((s.setRegion g.key g').onMe (fun th => { th with st := .frozen })).waitFor .region)) ∧
                (quiet g' = true → exec i s = exec i ((s.setRegion g.key g').onMe (fun th => { th with st := .frozen })))) ∧
            (∀ l, save = true → g.busyWith = some s.cur → quiet g = true →
              let g' := g.applyPending (fun _ => true)
              let (ing, s') := (s.setRegion g.key g').takeWaiting g' cs
              let chunks := s'.regionArea g' cs scr ing
              chunks.Pairwise (fun x y => x.1 + x.2.length ≤ y.1) → (∀ x ∈ chunks, x.1 + x.2.length ≤ fixed + 144 * ing.length) → stands (fixed + 144 * ing.length) l → alone l (fixed + 144 * ing.length) → ∃ t, exec i s = .next t ∧ moved t (size ing.length) ∧ t.me.st = .active ∧ (∀ p, (∀ x ∈ l, p < x ∨ x + 2 ^ 14 ≤ p) → memByte t.mem p = memByte s.mem p) ∧
                (l.Nodup → (∀ o bs, (o, bs) ∈ chunks → wrote t l o bs) ∧
                  wrote t l 0 (leBytes 0x31435853 4 ++ leBytes 1 2 ++ leBytes g.w 1 ++ leBytes g.h 1)) ∧
                ∃ x, t.region g.key = some x ∧ x.busyWith = none ∧ x.ces = g'.ces ∧ x.chans = g'.chans ∧ x.mts = g'.mts ∧ (g.swap = none → ∀ p c, named c → (p, c) ∉ x.closedPorts)) ∧
            (∀ l, save = false → g.atTurn s.cur → g.busyWith = none → va.toNat % 2 ^ 14 = 0 → stands fixed l → good → let b := area l 0 256
              let idle : Prop := ∀ c, named c → s.idleCtx g c = true
              let n := bytesAt b 20 4
              let like : Prop := bytesAt b 6 1 = g.w ∧ bytesAt b 7 1 = g.h ∧ ∃ im, g.image = some im ∧ im.pkey.toNat = bytesAt b 8 8
              let head : Prop := bytesAt b 0 4 = 0x31435853 ∧ bytesAt b 4 2 = 1 ∧ bytesAt b 24 8 = fixed + 144 * n
              (¬ idle → s.refusesAt g i 34) ∧ (idle → ¬ clean l 0 256 → poisons) ∧ (idle → clean l 0 256 → ¬ like → s.refusesAt g i 34) ∧ (idle → clean l 0 256 → like → ¬ head → s.refusesAt g i 36) ∧
              ∀ l', idle → like → head → stands (fixed + 144 * n) l' → clean l' 0 (fixed + 144 * n) → ∃ t x, exec i s = .next t ∧ moved t (size n) ∧ s.sameMemory t ∧ t.regions = tput s.regions g.key x ∧ s.me.sameButX t.me ∧
                (∀ o q, o < 4 * g.h → q < 4 * g.w → let y := area l' (131072 + 2 ^ 14 * (4 * g.w * o + q)) (2 ^ 14)
                  (∀ k : Fin 4, (x.ce (o * 64 + q)).banks.get k = readBank (y.drop (2048 + 288 * k.val)) ∧
                    ((x.ce (o * 64 + q)).flags.get k).toNat = if k.val ∈ cs then bytesAt y (3456 + k.val) 1 % 128 else ((g.ce (o * 64 + q)).flags.get k).toNat) ∧
                  ∀ k : Fin 8, (x.ce (o * 64 + q)).bn.get k = (y.drop (3584 + 64 * k.val)).take 64) ∧
                (∀ o q, o < 2 * g.w → q < g.h → scr = true → ∀ j, j < 524288 → memByte (tgetD x.mts (mtKey o q) Mt.new).scratch j = memByte s.mem (at' l' (131072 + 2 ^ 14 * (16 * g.w * g.h) + 524288 * (g.h * o + q) + j))) ∧
                (scr = false → ∀ k, (tgetD x.mts k Mt.new).scratch = (tgetD g.mts k Mt.new).scratch))))

/-- PARTITION_START and PARTITION_STOP (R79, R80, R351 to R353): a start is refused with the lowest cause that holds, or sets every thread to its start
state; a stop turns every thread off with nothing bound and frees every region, and is over once every claim has been failed; in any other state
neither does anything. That sr.lt and sr.gtime run on across a start is the model's choice (log 1). Gang slices (R362, R363): arming, the begin at its
time, joins counted once each, opening with the last, and cancellation by grace or by another module; a beat bound for a port that is down is counted
as lost (R385). That a JOIN counts in PHASE 2 alone is the model's reading (log 31). -/
def Obligations.PartitionsAndGangSlices : Prop :=
  (
    ∀ (s : State) (p : Fin 8),
      let q := s.part p
      let other (o : Fin 8) : Prop := o ≠ p ∧ (s.part o).state ≠ .stopped
      let shared : Prop := ∃ o, other o ∧ ((∃ d n, d < 4 ∧ n < 144 ∧ q.hasBogie d n = true ∧ (s.part o).hasBogie d n = true) ∨ (∃ c, c < 192 ∧ q.hasCore c = true ∧ (s.part o).hasCore c = true) ∨
        ∃ n, n < 16 ∧ (q.reg 0x1D0).testBit n = true ∧ ((s.part o).reg 0x1D0).testBit n = true)
      let gone (d : Fin 4) : Prop := (s.die d).absent = true
      let missing : Prop := (∃ (d : Fin 4) (n : Nat), n < 144 ∧ q.hasBogie d.val n = true ∧ (d.val * 144 + n ∈ s.fenced ∨ gone d)) ∨ (∃ (d : Fin 4) (n : Nat), n < 48 ∧ q.hasCore (d.val * 48 + n) = true ∧ gone d) ∨
        ∃ n, n < 16 ∧ (q.reg 0x1D0).testBit n = true ∧ (s.link n).absent = true
      let none' : Prop := ∀ c, c < 192 → q.hasCore c = false
      let mine (t : Nat) : Prop := t < 1536 ∧ q.hasCore (t / 8) = true
      let err (n : Nat) : Prop := ∃ u, exec (.partitionStart p) s = .next u ∧ (u.part p).reg 0x1C0 / 2 ^ 12 % 16 = n ∧ (u.part p).state = .stopped ∧ u = { s with parts := s.parts.set p.val { q with page := (u.part p).page } }
      (q.state ≠ .stopped → exec (.partitionStart p) s = .next s) ∧ (q.state = .stopped → exec (.partitionStop p) s = .next s) ∧
      (q.state = .stopped → (shared → err 1) ∧ (¬ shared → missing → err 2) ∧ (¬ shared → ¬ missing → none' → err 3) ∧
        (¬ shared → ¬ missing → ¬ none' → ∃ u, exec (.partitionStart p) s = .next u ∧ s.sameMemory u ∧ (u.part p).state = .running ∧ (u.part p).reg 0x1C0 / 2 ^ 12 % 16 = 0 ∧
          (u.part p).reg 0x1C0 / 2 ^ 32 % 2 ^ 32 = (q.reg 0x1C0 / 2 ^ 32 + 1) % 2 ^ 32 ∧ (u.part p).cache = [] ∧ (∀ k g, (k, g) ∈ u.regions ↔ (k, g) ∈ s.regions ∧ g.part ≠ p) ∧ (∀ t, ¬ mine t → u.thread t = s.thread t) ∧
          ∀ t, mine t → let th := u.thread t
            th.st = .active ∧ th.cur = .supervisor ∧ th.pc = BitVec.ofNat 80 (q.reg 0x100 % 2 ^ 64 / 4 * 4) ∧
            (∀ r, th.getX r = if r = 1 then BitVec.ofNat 64 (p.val * 2 ^ 32 + q.lidx t * 2 ^ 16 + (dieOf t).val * 2 ^ 9 + t / 8 % 48 / 24 * 2 ^ 8 + t / 8 % 24 * 2 ^ 3 + t % 8) else if r = 2 then BitVec.ofNat 64 q.threads.length else 0) ∧
            (∀ r, th.getA r = if r = 1 then BitVec.ofNat 80 (q.reg 0x110) else 0) ∧ (∀ r l, (th.getV r).get l = 0) ∧ (∀ r, th.getM r = 0) ∧
            th.qs = [] ∧ th.bq = none ∧ th.claims = [] ∧ th.path = none ∧ th.pend = [] ∧ ∀ k, (th.dclk.get k).v = false)) ∧
      (q.state = .running → (∀ k g, (k, g) ∈ s.regions → g.key = k) → sortedKeys s.regions = true → ∃ u, exec (.partitionStop p) s = .next u ∧ (u.part p).state ≠ .running ∧ (∀ k g, (k, g) ∈ u.regions → g.part ≠ p) ∧
        (∀ t, mine t → (u.thread t).st = .off ∧ ((s.thread t).st ≠ .off → let th := u.thread t
          th.qs = [] ∧ th.bq = none ∧ th.ss = [] ∧ th.pools = [] ∧ th.copies = [] ∧ th.pend = [])) ∧
        ((∀ t, mine t → (s.thread t).claims = [] ∧ s.busy (.area t) = false) → (u.part p).state = .stopped ∧ s.sameMemory u)) ∧
      (q.state = .stopping → (∀ t, mine t → (s.thread t).claims = [] ∧ s.busy (.area t) = false) → ∃ u, exec (.partitionStop p) s = .next u ∧ (u.part p).state = .stopped ∧ s.sameMemory u ∧ u.regions = s.regions)) ∧
  (
    ∀ (s : State) (p : Fin 8),
      let q := s.part p
      let ctl := q.reg 0x380
      let stat := q.reg 0x390
      let phase := stat % 8
      let seq := BitVec.ofNat 16 (stat / 2 ^ 48)
      let gang := BitVec.ofNat 16 (ctl / 2 ^ 8)
      let start := ctl / 2 ^ 64
      let grace := ctl / 2 ^ 32 % 2 ^ 32
      let page (u : State) (c st : Nat) : Prop := (u.part p).reg 0x380 = c ∧ (u.part p).reg 0x390 = st
      let took (u : State) (v : Word) : Prop := ∀ t, t < 1536 → q.hasCore (t / 8) = true → if (s.thread t).st = .active then Pending.mk 0x12 v ∈ (u.thread t).pend else u.thread t = s.thread t
      let sends (u : State) (c : Control) : Prop := (∀ n, n < 16 → (u.link n).outbox = (s.link n).outbox ++ if (q.reg 0x1D0).testBit n = true ∧ (s.link n).up = true then [.control c] else []) ∧
        (u.part p).fld 0x3F0 127 96 = (q.fld 0x3F0 127 96 + ((List.range 16).filter (fun n => (q.reg 0x1D0).testBit n && !(s.link n).up)).length) % 2 ^ 32
      let armed := stat - phase + 1
      let joined := stat / 2 ^ 40 % 2 ^ 8
      let count := stat - joined * 2 ^ 40 + (joined + 1) % 2 ^ 8 * 2 ^ 40
      let full : Prop := (joined + 1) % 2 ^ 8 = ctl / 2 ^ 24 % 2 ^ 8
      let opens := count - phase + 3 - stat / 2 ^ 64 % 2 ^ 32 * 2 ^ 64 + (stat / 2 ^ 64 + 1) % 2 ^ 32 * 2 ^ 64
      let joins (u : State) : Prop := if full then page u (ctl - ctl % 2) opens else page u ctl count
      (phase ≠ 2 → phase ≠ 4 → ctl % 2 = 1 → ∃ u, exec (.sliceArm p) s = .next u ∧ page u ctl armed ∧ u = { s with parts := s.parts.set p.val (u.part p) }) ∧
      (phase = 1 → ctl % 2 = 0 → ∃ u, exec (.sliceArm p) s = .next u ∧ page u ctl (armed - 1)) ∧ (phase = 2 ∨ phase = 4 → ∃ u, exec (.sliceArm p) s = .next u ∧ page u ctl stat) ∧
      (phase = 1 → start ≤ s.gtime 0 → s.sync = true → ∃ u, exec (.sliceBegin p) s = .next u ∧ s.sameMemory u ∧
        page u ctl (stat % 2 ^ 40 - phase + 2 + (stat / 2 ^ 48 + 1) % 2 ^ 16 * 2 ^ 48 + stat / 2 ^ 64 * 2 ^ 64) ∧ took u (BitVec.ofNat 64 ((seq + 1).toNat * 2 ^ 16 + 1))) ∧
      (phase ≠ 1 ∨ s.gtime 0 < start ∨ s.sync = false → exec (.sliceBegin p) s = .next s) ∧
      (phase = 2 → q.joinedHere = false → ∃ u, exec (.sliceJoin p) s = .next u ∧ joins u ∧ sends u (.join gang seq) ∧ s.sameMemory u ∧ u.threads = s.threads) ∧
      (phase ≠ 2 ∨ q.joinedHere = true → exec (.sliceJoin p) s = .next s) ∧
      (∀ peer, phase = 2 → peer ∉ q.joinedFrom → ∃ u, exec (.joinReceived p gang seq peer) s = .next u ∧ joins u ∧ (u.part p).joinedFrom = peer :: q.joinedFrom ∧ u = { s with parts := s.parts.set p.val (u.part p) }) ∧
      (∀ g n peer, phase ≠ 2 ∨ g ≠ gang ∨ n ≠ seq ∨ peer ∈ q.joinedFrom → exec (.joinReceived p g n peer) s = .next s) ∧
      (phase = 2 → grace ≠ 0 → start + grace ≤ s.gtime 0 → ∃ u, exec (.graceExpiry p) s = .next u ∧ page u ctl (stat - phase + 4) ∧ took u (BitVec.ofNat 64 (seq.toNat * 2 ^ 16 + 2)) ∧ sends u (.cancel gang seq) ∧ s.sameMemory u) ∧
      (phase ≠ 2 ∨ grace = 0 ∨ s.gtime 0 < start + grace → exec (.graceExpiry p) s = .next s) ∧
      (phase = 2 ∨ phase = 3 → ∃ u, exec (.cancelReceived p gang seq) s = .next u ∧ page u ctl (stat - phase + 4) ∧ took u (BitVec.ofNat 64 (seq.toNat * 2 ^ 16 + 2)) ∧ sends u (.cancel gang seq) ∧ s.sameMemory u) ∧
      ∀ g n, (phase ≠ 2 ∧ phase ≠ 3) ∨ g ≠ gang ∨ n ≠ seq → exec (.cancelReceived p g n) s = .next s)

/-- MODULE_START, the boot record, attestation and the management port (R422, R423, R425, R426, R432): each start runs every unit's step by the path that
the record of earlier starts gives it; an image that may not run leaves the module off; BOOT_CLR clears the history of a unit, which then takes the
normal path; a request is answered with what is measured and signed; and the port reaches four registers and PWR_CAP. That a bogie's entries of
different dies share their unit number, and that what R9 lists against a die that is left out is not in use, is the model's reading (log 26), and the
signature's layout and paddings are the scheme's own (log 46). -/
def Obligations.ModulesStartByTheirBootRecord : Prop :=
  ∀ (s : State) (o : BootOutcome),
    let b : Boot := { Boot.reset with starts := s.boot.starts + 1, next := s.boot.next, minidx := s.boot.minidx, entries := s.boot.entries, paths := s.boot.paths }
    let b := match s.power.removed with
      | some d => (b.append 2 d.val 1 1).noteLoss 2 d.val 1
      | none => b
    let image := if b.path 1 0 = .normal then o.slotA else o.slotB
    let leaf := ofBe (image.signature.take 4)
    let runs : Prop := b.path 1 0 ≠ .skipped ∧ xmssVerify (beBytes Config.vendorRoot.toNat 32) (beBytes Config.vendorSeed.toNat 32) image.signature image.bytes = true ∧ b.minidx.toNat ≤ leaf
    let (base, limit) := Config.firmwareWindow image.bytes
    let high := min limit (2 ^ 25 - 1)
    let used (step n : Nat) : Prop := match b.path step n with
      | .normal => (step, n) ∉ o.failNormal
      | .alternative => (step = 4 ∨ step = 6) ∧ (step, n) ∉ o.failAlt
      | .skipped => False
    let out (d : Nat) : Prop := d < 4 ∧ ¬ used 2 d
    let inUse (n : Nat) : Prop := n < 2 ^ 25 ∧ used 4 (n % 8) ∧ ¬ out (n % 8 / 2)
    let entry (n : Nat) : Word := BitVec.ofNat 64 (6 * 2 ^ 56 + n * 2 ^ 48 + (match b.path 6 n with
      | .skipped => 2 * 2 ^ 32
      | p => (((o.tries.find? (fun (e : Nat × Nat × BitVec 8) => e.1 == 6 && e.2.1 == n)).map (fun (e : Nat × Nat × BitVec 8) => e.2.2)).getD 1).toNat * 2 ^ 40 + (if (6, n) ∈ (if p = .normal then o.failNormal else o.failAlt) then 1 else if p = .normal then 0 else 3) * 2 ^ 32) + b.starts.toNat)
    let m := digest image.bytes
    (∃ u, exec (.moduleStart o) s = .next u ∧ u.boot.starts = s.boot.starts + 1 ∧ u.threads = [] ∧ u.cores = [] ∧ u.regions = [] ∧ u.flight = [] ∧ u.mem = [] ∧ u.parts = State.reset.parts ∧ u.power = Power.reset ∧ u.agenda = [] ∧
      (¬ runs → u.boot.off = true ∧ u.boot.minidx = s.boot.minidx ∧ u.measured = [] ∧ u.measM = 0 ∧ u.boot.fwinSet = false ∧ u.boot.next = b.next + 1) ∧
      (runs → u.boot.off = false ∧ u.boot.minidx = BitVec.ofNat 20 leaf ∧ u.measured = [m] ∧ u.measM = digest (List.replicate 32 0 ++ leBytes m.toNat 32) ∧
        u.boot.fwinSet = true ∧ u.boot.next = b.next + 640 ∧ (∀ n, n < 16 → tgetD u.boot.entries ((b.next.toNat + 621 + n) % 256) 0 = entry n) ∧
        (∀ j k, j < 8 → k < 8 → inUse (base + j) → inUse (high - k) → (∀ i, i < j → ¬ inUse (base + i)) → (∀ i, i < k → ¬ inUse (high - i)) → u.boot.fwinBase = base + j ∧ u.boot.fwinLimit = high - k) ∧
        ((∀ j, j < 8 → ¬ inUse (base + j)) ∨ (∀ k, k < 8 → ¬ inUse (high - k)) → u.boot.fwinLimit < u.boot.fwinBase) ∧
        (∀ d : Fin 4, (u.die d).absent = false ↔ used 2 d.val) ∧ (∀ n, n < 576 → (n ∉ u.fenced ↔ used 3 n)) ∧ (∀ n, n < 8 → (n ∉ u.stacksOut ↔ used 4 n)) ∧ (∀ n, n < 32 → ((u.dray n).absent = false ↔ used 5 n ∧ ¬ out (n / 8))) ∧
        (∀ n, n < 16 → ((u.link n).absent = true ↔ out (n / 4) ∨ (¬ used 6 n ∧ b.path 6 n ≠ .normal)) ∧ ((u.link n).up = true ↔ used 6 n ∧ ¬ out (n / 4)) ∧ (used 6 n → ¬ out (n / 4) → (u.link n).peer = o.peers.getD n 0) ∧ (u.link n).bootRate = if b.path 6 n = .normal then 224 else 112) ∧
        (used 7 0 ∧ ¬ out 0 → u.boot.cxl0 = min o.cxl0 (2 ^ 41)) ∧ (used 7 0 → out 0 → u.boot.cxl0 = 0) ∧ (¬ used 7 0 → u.boot.cxl0 = 0) ∧
        (used 7 1 ∧ ¬ out 2 → u.boot.cxl1 = min o.cxl1 (28 * 2 ^ 36)) ∧ (used 7 1 → out 2 → u.boot.cxl1 = 0) ∧ (¬ used 7 1 → u.boot.cxl1 = 0) ∧ (u.sync = true ↔ used 8 0))) ∧
    (∀ step unit, ∃ u, exec (.bootClr step unit) s = .next u ∧ u = { s with boot := { s.boot with entries := u.boot.entries, paths := u.boot.paths } } ∧
      (∀ st n, n < 1024 → u.boot.path st n = if st = step ∧ (if step = 3 then n % 144 else n) = unit then .normal else s.boot.path st n) ∧ (unit < 256 → u.boot.history step unit = []) ∧
      ∀ k w, (k, w) ∈ u.boot.entries ↔ (k, w) ∈ s.boot.entries ∧ ¬ (w.toNat / 2 ^ 56 = step ∧ w.toNat / 2 ^ 48 % 2 ^ 8 = unit)) ∧
    (∀ nonce : BitVec 256, let body := s.measured.flatMap (fun x => leBytes x.toNat 32) ++ leBytes s.measM.toNat 32 ++ (List.range 256).flatMap (fun k => leBytes (tgetD s.boot.entries k 0).toNat 8) ++ leBytes nonce.toNat 32
      ∀ i ∈ [Instr.attestationRequest nonce, .managementPortAccess (.attest nonce)], exec i s = .next { s with answer := body ++ Config.deviceSignature body }) ∧
    exec (.managementPortAccess .readPwrNow) s = .next { s with mgmt := BitVec.ofNat 64 (s.power.temp.toNat * 2 ^ 48 + s.power.watts.toNat) } ∧
    exec (.managementPortAccess .readBootStat) s = .next { s with mgmt := BitVec.ofNat 64 (s.boot.starts.toNat * 2 ^ 32 + s.boot.next.toNat) } ∧
    (∀ k, exec (.managementPortAccess (.readBootRec k)) s = .next { s with mgmt := tgetD s.boot.entries k.val 0 }) ∧
    exec (.managementPortAccess .readTimeStat) s = .next { s with mgmt := BitVec.ofNat 64 (s.sync.toNat * 2 ^ 63 + s.drift.toNat) } ∧
    ∀ v : Word, exec (.managementPortAccess (.writePwrCap v)) s = .next { s with power := { s.power with cap := v.truncate 12 } }

/-- Loss of a die, power and register writes (R80, R381, R424, R430, R431): the heartbeat that is missed declares the loss once; the broadcast empties
every surviving core of the die's lines, and closes what is bound to its regions; a measurement sets every die's clamp and starts what its temperature
asks for; after the removal of power nothing happens but a module start; a bucket setting refills the points it governs; and only firmware writes a
partition's vectors and entry. -/
def Obligations.LossPowerAndRegisters : Prop :=
  ∀ (s : State) (d : Fin 4),
    let hit := s.die d
    (hit.lost = true ∨ hit.absent = true → exec (.heartbeatMiss d) s = .next s) ∧
    (hit.lost = false → hit.absent = false → exec (.heartbeatMiss d) s = .next { s with dies := s.dies.set d.val { hit with lost := true }, boot := (s.boot.append 2 d.val 1 1).noteLoss 2 d.val 1, agenda := s.agenda ++ [.homeLossBroadcast d] }) ∧
    ((∀ r ∈ s.flight, r.stage = .sent ∧ homeDie r.pa ≠ d) → (∀ t e, (t, e) ∈ s.threads → e.claims = [] ∧ e.pools = [] ∧ e.copies = [] ∧ ∀ k x, (k, x) ∈ e.ss → (∃ y, x = .stream y ∧ y.heldWrites = [] ∧ (dieOf t = d → y.state ≠ .run)) ∨ ∃ c, x = .chain c ∧ c.state ≠ .run) →
      ∃ u, exec (.homeLossBroadcast d) s = .next u ∧ s.sameMemory u ∧ (u.die d).lost = true ∧ u.flight = s.flight ∧ u.regions = s.regions ∧
      (∀ c, c / 48 ≠ d.val → ∀ x, x ∈ (u.core c).l1 ↔ x ∈ (s.core c).l1 ∧ homeDie (x.line * 128) ≠ d) ∧
      (∀ (k : Fin 4) e, e ∈ (u.die k).dir → d.val ∉ e.dies) ∧
      ∀ t e, tget s.threads t = some e → (u.thread t).x = e.x ∧ (u.thread t).pc = e.pc ∧ (u.thread t).qs = e.qs.map (fun q => (q.1, { q.2 with closed := q.2.closed || decide (q.2.region.toNat / 4096 = d.val) }))) ∧
    (∀ (id : Nat) (r : Req) (v t : Nat), s.flight = [r] → r.id = id → r.kind = .store v → r.stage = .sent → r.by' = .thread t → homeDie r.pa = d → (homeTile r.pa).isSome = true → (s.thread t).st = .active → tget s.threads t = some (s.thread t) → sortedKeys s.threads = true →
      (∀ t e, (t, e) ∈ s.threads → e.claims = [] ∧ e.pools = [] ∧ e.copies = [] ∧ e.ss = []) →
      ∃ u, exec (.homeLossBroadcast d) s = .next u ∧ u.flight = [] ∧ s.sameMemory u ∧ Pending.mk 0x0A (BitVec.ofNat 64 r.va.toNat) ∈ (u.thread t).pend) ∧
    (∀ watts temp (clamps : Vector Nat 4), ∃ u, exec (.powerMeasurement watts temp clamps) s = .next u ∧ { u with power := s.power, dies := s.dies, agenda := s.agenda, freeCtr := s.freeCtr } = s ∧
      u.power = { s.power with watts := BitVec.ofNat 12 (min watts 4095), temp := BitVec.ofNat 16 temp } ∧ (∀ k, u.die k = { s.die k with clamp := min 1024 (clamps.get k) }) ∧ (115 ≤ temp → ∃ h, u.agenda = s.agenda ++ [.thermalPowerOff h]) ∧
      (temp < 115 → u.agenda = s.agenda ++ if 105 ≤ temp ∧ s.power.hot = false then [.thermalClamp] else if temp < 95 ∧ s.power.hot = true then [.thermalClampRelease] else [])) ∧
    exec .thermalClamp s = .next { s with power := { s.power with hot := true } } ∧ exec .thermalClampRelease s = .next { s with power := { s.power with hot := false } } ∧
    (let u : State := { s with power := { s.power with removed := some d } }
     exec (.thermalPowerOff d) s = .next u ∧ ((∀ o, Event.moduleStart o ∉ s.agenda ∧ ∀ n, (n, Event.moduleStart o) ∉ s.later) → step u = .fault .powerRemoved) ∧
       ∀ o l r, s.agenda = l ++ .moduleStart o :: r → (∀ x, Event.moduleStart x ∉ l) → step u = exec (.moduleStart o) u) ∧
    (∀ (n : Fin 144) (v : Word), ∃ u, exec (.bucketSettingWrite d n v) s = .next u ∧ u.bucket d.val n.val = (BitVec.ofNat 13 (v.toNat / 2 ^ 32), BitVec.ofNat 11 v.toNat) ∧ (∀ (k : Fin 4) j, j < 144 → (k, j) ≠ (d, n.val) → u.bucket k.val j = s.bucket k.val j) ∧
      { u with power := s.power, credit := s.credit } = s ∧ ∀ c w, (c, w) ∈ u.credit ↔ (c, w) ∈ s.credit ∧ ((pointNode c).2 ≠ d ∨ entryBogie (pointNode c).1 ≠ n.val)) ∧
    ∀ (p : Fin 8) (pa size v : Nat) (m : Mode), (prange pa ≠ .device → exec (.registerWrite pa size v m) s = .next s) ∧
      ∀ k, k < 4 → pa = 0x1F0000001000000 + p.val * 0x10000 + 0x100 + 16 * k → v < 2 ^ 128 → (m ≠ .firmware → ∃ u, exec (.registerWrite pa 16 v m) s = .next u ∧ ∀ (j : Fin 8) off, (u.part j).reg off = (s.part j).reg off) ∧
        (m = .firmware → ∃ u, exec (.registerWrite pa 16 v m) s = .next u ∧ u = { s with parts := s.parts.set p.val { s.part p with page := (u.part p).page } } ∧
          (∀ off, off / 16 ≠ 16 + k → (u.part p).reg off = (s.part p).reg off) ∧ (u.part p).reg (0x100 + 16 * k) = (s.part p).reg (0x100 + 16 * k) / 2 ^ 80 * 2 ^ 80 + (if k = 1 then v % 2 ^ 80 else (s.part p).reg (0x100 + 16 * k) % 2 ^ 80 / 2 ^ 64 * 2 ^ 64 + v % 2 ^ 64 / 4 * 4 + (s.part p).reg (0x100 + 16 * k) % 4))

/-- Decoding reads back what the encoder writes, for every well-formed instruction of either set and every value its fields admit (R50 to R64); a row that
shares its word with another, since an operand register selects between them, is read as that row. -/
def Obligations.EncodingsAreReadBack : Prop :=
  (∀ (i : Instr) (w : Nat), i.wellFormed = true → encodeA i = some w → w < 2 ^ 32 ∧ decodeA w = .ok i.readAs) ∧
  (∀ (i : Instr) (w : Nat), i.wellFormed = true → encodeE i = some w → w < 2 ^ 32 ∧ decodeE w = .ok i.readAs) ∧
  ∀ i : Instr, i.wellFormed = true → encode i.readAs = encode i ∧ i.readAs.wellFormed = true

/-- Words that the spec writes out are read as the instructions it writes them for. -/
def Obligations.WordsOfTheSpecAreRead : Prop :=
  (∀ e ∈ [(0x68640005, Instr.blt 3 4 5), (0x81E30000, .jalr 15 3 0), (0x84A10003, .bqbLk 5 3), (0x39000010, .addpc 4 16), (0x3C642810, .fadd 3 4 5 .rne .f64), (0x5C260100, .pref .fillTile 3 256), (0xFC082004, .tlbinvPg 4 .module),
      (0xFC091801, .l1dropLine 3), (0x44A4C026, .st 5 2 .d .normal 38), (0x50E8C402, .ldb 7 4 .d 1 2), (0xA8A60002, .rndadv 5 6), (0xA8E80003, .rndset 7 8), (0xA92A0004, .rndget 9 10), (0xB0A63800, .ctxsaveRegion 5 6 7), (0xB0A63801, .ctxrstRegion 5 6 7),
      (0xB4A60001, .lnkstat 5 6), (0xA8800000, .fence .sys false .full), (0xA8450000, .fence .die true .rel), (0xFC010005, .svc 5)], decodeA e.1 = .ok e.2) ∧
  decodeE 0xDC0039FF = .ok (.cvtSat .e4m3 ⟨false, .none, 0, .to 7 .l, .none⟩)

/-- No step breaks the canonical form of memory: addresses rise strictly, and no byte that reads as an unlisted one is listed. -/
def Obligations.StepsKeepMemoryCanonical : Prop := ∀ s t : State, s.mem.wf = true → step s = .next t → t.mem.wf = true

/-- The machine after module reset (R78, R80, R135, R350, R360, R428, R430): threads OFF, partitions stopped, no region, links down, time and power at
their reset values, and memory in canonical form. That memory lists nothing is the model's choice (log 3). -/
def Obligations.ResetLeavesTheMachine : Prop :=
  let s := State.reset
  s.mem = [] ∧ s.mem.wf = true ∧ s.regions = [] ∧ s.flight = [] ∧ s.power.cap = 3000 ∧ s.power.removed = none ∧ s.guard = 250 ∧ s.sync = false ∧ s.drift = 0 ∧ s.measM = 0 ∧
  (∀ t, (s.thread t).st = .off ∧ (s.thread t).qs = [] ∧ (s.thread t).ev = false ∧ ∀ k, ((s.thread t).dclk.get k).v = false) ∧
  (∀ p : Fin 8, (s.part p).state = .stopped ∧ (s.part p).reg 0x100 = 0 ∧ (s.part p).reg 0x1C0 = 0 ∧ (s.part p).reg 0x380 = 0 ∧ (s.part p).reg 0x390 = 0) ∧
  (∀ n, (s.link n).up = false ∧ (s.link n).speed = 0 ∧ (s.link n).trains = 0 ∧ (s.link n).fails = 0) ∧ (∀ (d : Fin 4) (n : Nat), s.bucket d.val n = (4096, 1024)) ∧
  ∀ a, memByte s.mem a = 0

/-- A token survives being laid out as 128 payload bytes and its sideband word (R65, R378): every field and every lane reads back, and the sideband's
reserved byte is zero. What CTXSAVE writes of a thread, CTXRST brings back (R377 to R379): the queue and bq records of the area field by field, and,
of a thread that holds one queue, its bq, or one stream, chain, pool or copy slot, that one bound again as it stood, with sr.gen and EV; where its
binding cannot be made again, reason 37. What the area has no field for is the model's choice (log 22, log 23, log 39). -/
def Obligations.TokensSurviveTheirBytes : Prop :=
  (
    ∀ (t : Token) (idx pos : Nat), t.payload.length = 128 ∧ readToken (t.payload ++ leBytes t.sideband.toNat 8) = t ∧ readToken (tokenRecord t idx pos) = t ∧ recordUsed (tokenRecord t idx pos) = true ∧ (tokenRecord t idx pos).length = 144 ∧
      t.sideband.toNat / 2 ^ 55 = 0 ∧ t.sideband.toNat % 2 ^ 16 = t.valid.toNat ∧ t.sideband.toNat / 2 ^ 16 % 8 = t.stop.val ∧ t.sideband.toNat / 2 ^ 31 % 4 = t.ctx.val ∧ t.sideband.toNat / 2 ^ 33 % 2 ^ 15 = t.round.toNat) ∧
  (
    (∀ v : Thread, v.claims.length ≤ 4 → (∀ b, v.bq = some b → b.entries.length ≤ 32) → (∀ e ∈ v.pools, e.2.desc.length ≤ 128) → (∀ e ∈ v.copies, e.2.desc.length ≤ 64) →
      (∀ n x, (n, SSlot.stream x) ∈ v.ss → x.desc.length ≤ 64 ∧ x.shapeBytes.length ≤ 208 ∧ x.idx.length ≤ 12) → (∀ n c, (n, SSlot.chain c) ∈ v.ss → c.desc.length ≤ 64) →
      let f (o n : Nat) : Nat := bytesAt v.area o n
      (∀ (k : Fin 32) q, tget v.qs k.val = some q → q.port < 64 → q.cap ∈ [4, 8, 12, 16] → q.fill < 16 → q.toks.length ≤ 16 → let o := 7424 + 32 * k.val
        f o 8 = q.region.toNat * 2 ^ 32 + q.ctx.val * 2 ^ 16 + q.port ∧ f (o + 8) 1 = q.cap / 4 - 1 ∧ f (o + 9) 1 = q.lt.toNat ∧ f (o + 10) 1 = q.out.toNat ∧ f (o + 11) 1 = q.etype.code ∧ f (o + 12) 1 = q.fill ∧
        f (o + 13) 2 = q.count.toNat ∧ f (o + 15) 1 = q.toks.length ∧ f (o + 16) 4 = q.ew.toNat ∧ f (o + 20) 4 = q.fw.toNat ∧ f (o + 24) 4 = q.lod.toNat ∧ f (o + 28) 4 = 0) ∧
      ∀ b, v.bq = some b → b.port < 64 → f 256 8 = b.region.toNat * 2 ^ 32 + b.ctx.val * 2 ^ 16 + b.port ∧ f 264 1 = 0 ∧ f 265 1 = b.lt.toNat ∧ f 268 1 = 0 ∧ f 271 1 = b.entries.length ∧ f 272 4 = b.ew.toNat ∧
        f 276 4 = b.fw.toNat ∧ f 280 4 = b.lod.toNat ∧ ∀ n x, b.entries[n]? = some x → f (7168 + 8 * n) 8 = x.toNat) ∧
    ∀ (s : State) (d r : Fin 32) (a : Fin 16) (l : List Nat) (v : Thread),
      let va := s.me.getA a
      let e : Engine := ⟨.area s.cur, (dieOf s.cur).val * 96, s.cur, s.me.cur, none, [], none⟩
      let at' (j : Nat) : Nat := l.getD (j / 2 ^ 14) 0 + j % 2 ^ 14
      let stands : Prop := l.length = 6 ∧ ∀ k pa, l[k]? = some pa → s.engineAt e (va + BitVec.ofNat 80 (2 ^ 14 * k)) .load pa 0
      let fresh : Prop := s.me.st = .active ∧ (∀ x, s.me.wait = some x → x.kind ≠ .drain ∧ ∀ l, x.kind ≠ .pages l) ∧ s.busy (.area s.cur) = false ∧ ∀ x ∈ s.rimWalks, x.1 ≠ .area s.cur
      let free : Prop := s.me.qs = [] ∧ s.me.bq = none ∧ s.me.ss = [] ∧ s.me.pools = [] ∧ s.me.copies = [] ∧ s.me.claims = []
      let back (p : State → Prop) : Prop := ∃ t, exec (.ctxrstThread d r a) s = .next t ∧ s.sameMemory t ∧ t.me.pc = s.me.pc + 4 ∧ t.me.wait = none ∧ t.me.gen = v.gen ∧ t.me.ev = v.ev ∧ t.me.claims = [] ∧
        (∀ x, t.me.getX x = if x = d ∧ x ≠ 0 then 98304 else s.me.getX x) ∧ p t
      let port (h : BitVec 16) (p c : Nat) (out fed : Bool) (ok : EType → Prop) : Prop := ∃ g i q, s.region (rkey (s.partOf s.cur) h.toNat) = some g ∧ BitVec.ofNat 16 g.handle = h ∧ g.image = some i ∧ i.ports[p]? = some q ∧ i.runs c = true ∧
        g.die = dieOf s.cur ∧ s.bindingAt g p c = none ∧ q.out = out ∧ g.bqwFed p = fed ∧ ok q.etype
      let nothing (t : State) : Prop := t.me.qs = [] ∧ t.me.bq = none ∧ t.me.ss = [] ∧ t.me.pools = [] ∧ t.me.copies = []
      s.me.cur ≠ .worker → (s.me.getX r).toNat = 2 ^ 63 → va.toNat % 2 ^ 14 = 0 → stands → fresh → free → (∀ j, j < 98304 → s.isPoisoned (at' j) = false) →
      (List.range 98304).map (fun j => memByte s.mem (at' j)) = v.area ++ List.replicate (98304 - v.area.length) 0 → v.claims = [] →
      (∀ (k : Fin 32) q, v.qs = [(k.val, q)] → v.bq = none → v.ss = [] → v.pools = [] → v.copies = [] → q.region ≠ 0 → q.port < 64 → q.cap ∈ [4, 8, 12, 16] → q.fill < 16 → q.toks.length ≤ q.cap →
        (port q.region q.port q.ctx.val q.out false (fun _ => True) → q.cap ≤ s.freeSlots (coreOf s.cur) → back (fun t => ∃ y, t.me.qs = [(k.val, y)] ∧ t.me.bq = none ∧ t.me.ss = [] ∧ t.me.pools = [] ∧ t.me.copies = [] ∧
          y.toks.map (fun x => x.1) = q.toks.map (fun x => x.1) ∧ (q.fill ≠ 0 → y.asmLanes = q.asmLanes ∧ y.asmValid = q.asmValid) ∧
          { y with toks := q.toks, asmLanes := q.asmLanes, asmValid := q.asmValid } = { q with closed := false, remote := none })) ∧
        (s.region (rkey (s.partOf s.cur) q.region.toNat) = none ∨ s.freeSlots (coreOf s.cur) < q.cap → s.refuses (.ctxrstThread d r a) 37)) ∧
      (∀ b, v.bq = some b → v.qs = [] → v.ss = [] → v.pools = [] → v.copies = [] → b.region ≠ 0 → b.port < 64 → b.entries.length ≤ 32 →
        (port b.region b.port b.ctx.val true true (fun _ => True) → back (fun t => t.me.bq = some { b with closed := false } ∧ t.me.qs = [] ∧ t.me.ss = [] ∧ t.me.pools = [] ∧ t.me.copies = [])) ∧
        (s.region (rkey (s.partOf s.cur) b.region.toNat) = none → s.refuses (.ctxrstThread d r a) 37)) ∧
      (∀ (k : Fin 8) x, v.ss = [(k.val, .stream x)] → v.qs = [] → v.bq = none → v.pools = [] → v.copies = [] → x.desc.length = 64 → x.shapeBytes.length = 208 → bytesAt x.shapeBytes 0 208 ≠ 0 →
        x.idx.length = (readShape x.shapeBytes).dims.length → x.idx.length ≤ 12 → (∀ n ∈ x.idx, n < 2 ^ 64) → x.fkind < 256 → x.count < 2 ^ 64 → x.state ≠ .free →
        let ctl := bytesAt x.desc 35 1
        let target : Prop := port (BitVec.ofNat 16 (bytesAt x.desc 32 2)) (bytesAt x.desc 34 1) (ctl / 16 % 4) (ctl.testBit 0) false (fun ty => ty = (readShape x.shapeBytes).etype)
        let live : Prop := x.state = .run ∨ x.state = .fault ∨ x.state = .paused
        (live → target) → back (fun t => ∃ y, t.me.ss = [(k.val, .stream y)] ∧ y.state = x.state ∧ y.desc = x.desc ∧ y.shapeBytes = x.shapeBytes ∧ y.fkind = x.fkind ∧ y.faddr = x.faddr ∧ y.count = x.count ∧ y.idx = x.idx ∧ y.gen = x.gen ∧
          y.sent = posOf x.idx y.exts ∧ y.out = [] ∧ t.me.qs = [] ∧ t.me.bq = none ∧ t.me.pools = [] ∧ t.me.copies = [])) ∧
      (∀ (k : Fin 8) c, v.ss = [(k.val, .chain c)] → v.qs = [] → v.bq = none → v.pools = [] → v.copies = [] → c.desc.length = 64 → c.fkind < 256 → c.count < 2 ^ 64 → c.state ∈ [.done, .aborted, .cancelled] →
        back (fun t => ∃ y, t.me.ss = [(k.val, .chain y)] ∧ y.state = c.state ∧ y.desc = c.desc ∧ y.fkind = c.fkind ∧ y.count = c.count ∧ y.gen = c.gen ∧ t.me.qs = [] ∧ t.me.bq = none ∧ t.me.pools = [] ∧ t.me.copies = [])) ∧
      (∀ (k : Fin 8) p, v.pools = [(k.val, p)] → v.qs = [] → v.bq = none → v.ss = [] → v.copies = [] → p.desc.length = 128 → bytesAt p.desc 0 108 ≠ 0 → bytesAt p.desc 108 20 = 0 → p.bag < 2 ^ 32 → bytesAt p.desc 95 1 / 4 % 2 = 0 →
        back (fun t => ∃ y, t.me.pools = [(k.val, y)] ∧ y.desc = p.desc ∧ y.bag = p.bag ∧ (bytesAt p.desc 88 4 ≤ p.bag → y.state = .done) ∧ (p.bag < bytesAt p.desc 88 4 → y.state = .fault ∨ y.state = .aborted) ∧
          t.me.qs = [] ∧ t.me.bq = none ∧ t.me.ss = [] ∧ t.me.copies = [])) ∧
      (∀ (k : Fin 8) c, v.copies = [(k.val, c)] → v.qs = [] → v.bq = none → v.ss = [] → v.pools = [] → c.desc.length = 64 → (∀ n, c.deadline = some n → n < 2 ^ 64 - 1) → c.lines < 2 ^ 64 → c.fkind < 256 → c.state ≠ .free → bytesAt c.desc 47 1 % 2 = 0 →
        back (fun t => ∃ y, t.me.copies = [(k.val, y)] ∧ y.state = c.state ∧ y.desc = c.desc ∧ y.deadline = c.deadline ∧ y.lines = c.lines ∧ y.fkind = c.fkind ∧ t.me.qs = [] ∧ t.me.bq = none ∧ t.me.ss = [] ∧ t.me.pools = [])) ∧
      (v.qs = [] → v.bq = none → v.ss = [] → v.pools = [] → v.copies = [] → back nothing))
end

