-- ==== Sys2Proof/Laws/State.lean ====
section
/-!
SUPPORT. One lemma per field and named update of the machine and of a thread: what the update leaves alone, so that no proof unfolds a
record update.
-/
namespace Sys2Proof.Machine

section StateUpdates
variable (s : State)

/-! `State.setThread` writes `threads` alone. -/
@[simp] theorem State.setThread_cores (t : Nat) (th : Thread) : (s.setThread t th).cores = s.cores := rfl
@[simp] theorem State.setThread_dies (t : Nat) (th : Thread) : (s.setThread t th).dies = s.dies := rfl
@[simp] theorem State.setThread_parts (t : Nat) (th : Thread) : (s.setThread t th).parts = s.parts := rfl
@[simp] theorem State.setThread_regions (t : Nat) (th : Thread) : (s.setThread t th).regions = s.regions := rfl
@[simp] theorem State.setThread_mem (t : Nat) (th : Thread) : (s.setThread t th).mem = s.mem := rfl
@[simp] theorem State.setThread_poison (t : Nat) (th : Thread) : (s.setThread t th).poison = s.poison := rfl
@[simp] theorem State.setThread_flight (t : Nat) (th : Thread) : (s.setThread t th).flight = s.flight := rfl
@[simp] theorem State.setThread_homes (t : Nat) (th : Thread) : (s.setThread t th).homes = s.homes := rfl
@[simp] theorem State.setThread_l2 (t : Nat) (th : Thread) : (s.setThread t th).l2 = s.l2 := rfl
@[simp] theorem State.setThread_rimTlb (t : Nat) (th : Thread) : (s.setThread t th).rimTlb = s.rimTlb := rfl
@[simp] theorem State.setThread_rimWalks (t : Nat) (th : Thread) : (s.setThread t th).rimWalks = s.rimWalks := rfl
@[simp] theorem State.setThread_rimLast (t : Nat) (th : Thread) : (s.setThread t th).rimLast = s.rimLast := rfl
@[simp] theorem State.setThread_links (t : Nat) (th : Thread) : (s.setThread t th).links = s.links := rfl
@[simp] theorem State.setThread_couplers (t : Nat) (th : Thread) : (s.setThread t th).couplers = s.couplers := rfl
@[simp] theorem State.setThread_boot (t : Nat) (th : Thread) : (s.setThread t th).boot = s.boot := rfl
@[simp] theorem State.setThread_power (t : Nat) (th : Thread) : (s.setThread t th).power = s.power := rfl
@[simp] theorem State.setThread_drays (t : Nat) (th : Thread) : (s.setThread t th).drays = s.drays := rfl
@[simp] theorem State.setThread_guard (t : Nat) (th : Thread) : (s.setThread t th).guard = s.guard := rfl
@[simp] theorem State.setThread_master (t : Nat) (th : Thread) : (s.setThread t th).master = s.master := rfl
@[simp] theorem State.setThread_module (t : Nat) (th : Thread) : (s.setThread t th).module = s.module := rfl
@[simp] theorem State.setThread_sync (t : Nat) (th : Thread) : (s.setThread t th).sync = s.sync := rfl
@[simp] theorem State.setThread_drift (t : Nat) (th : Thread) : (s.setThread t th).drift = s.drift := rfl
@[simp] theorem State.setThread_fenced (t : Nat) (th : Thread) : (s.setThread t th).fenced = s.fenced := rfl
@[simp] theorem State.setThread_stacksOut (t : Nat) (th : Thread) : (s.setThread t th).stacksOut = s.stacksOut := rfl
@[simp] theorem State.setThread_measM (t : Nat) (th : Thread) : (s.setThread t th).measM = s.measM := rfl
@[simp] theorem State.setThread_measured (t : Nat) (th : Thread) : (s.setThread t th).measured = s.measured := rfl
@[simp] theorem State.setThread_credit (t : Nat) (th : Thread) : (s.setThread t th).credit = s.credit := rfl
@[simp] theorem State.setThread_answer (t : Nat) (th : Thread) : (s.setThread t th).answer = s.answer := rfl
@[simp] theorem State.setThread_mgmt (t : Nat) (th : Thread) : (s.setThread t th).mgmt = s.mgmt := rfl
@[simp] theorem State.setThread_turn (t : Nat) (th : Thread) : (s.setThread t th).turn = s.turn := rfl
@[simp] theorem State.setThread_cur (t : Nat) (th : Thread) : (s.setThread t th).cur = s.cur := rfl
@[simp] theorem State.setThread_elem (t : Nat) (th : Thread) : (s.setThread t th).elem = s.elem := rfl
@[simp] theorem State.setThread_agenda (t : Nat) (th : Thread) : (s.setThread t th).agenda = s.agenda := rfl
@[simp] theorem State.setThread_later (t : Nat) (th : Thread) : (s.setThread t th).later = s.later := rfl
@[simp] theorem State.setThread_tick (t : Nat) (th : Thread) : (s.setThread t th).tick = s.tick := rfl
@[simp] theorem State.setThread_nextId (t : Nat) (th : Thread) : (s.setThread t th).nextId = s.nextId := rfl
@[simp] theorem State.setThread_freeCtr (t : Nat) (th : Thread) : (s.setThread t th).freeCtr = s.freeCtr := rfl

/-! `State.onThread` writes `threads` alone. -/
@[simp] theorem State.onThread_cores (t : Nat) (f : Thread → Thread) : (s.onThread t f).cores = s.cores := rfl
@[simp] theorem State.onThread_dies (t : Nat) (f : Thread → Thread) : (s.onThread t f).dies = s.dies := rfl
@[simp] theorem State.onThread_parts (t : Nat) (f : Thread → Thread) : (s.onThread t f).parts = s.parts := rfl
@[simp] theorem State.onThread_regions (t : Nat) (f : Thread → Thread) : (s.onThread t f).regions = s.regions := rfl
@[simp] theorem State.onThread_mem (t : Nat) (f : Thread → Thread) : (s.onThread t f).mem = s.mem := rfl
@[simp] theorem State.onThread_poison (t : Nat) (f : Thread → Thread) : (s.onThread t f).poison = s.poison := rfl
@[simp] theorem State.onThread_flight (t : Nat) (f : Thread → Thread) : (s.onThread t f).flight = s.flight := rfl
@[simp] theorem State.onThread_homes (t : Nat) (f : Thread → Thread) : (s.onThread t f).homes = s.homes := rfl
@[simp] theorem State.onThread_l2 (t : Nat) (f : Thread → Thread) : (s.onThread t f).l2 = s.l2 := rfl
@[simp] theorem State.onThread_rimTlb (t : Nat) (f : Thread → Thread) : (s.onThread t f).rimTlb = s.rimTlb := rfl
@[simp] theorem State.onThread_rimWalks (t : Nat) (f : Thread → Thread) : (s.onThread t f).rimWalks = s.rimWalks := rfl
@[simp] theorem State.onThread_rimLast (t : Nat) (f : Thread → Thread) : (s.onThread t f).rimLast = s.rimLast := rfl
@[simp] theorem State.onThread_links (t : Nat) (f : Thread → Thread) : (s.onThread t f).links = s.links := rfl
@[simp] theorem State.onThread_couplers (t : Nat) (f : Thread → Thread) : (s.onThread t f).couplers = s.couplers := rfl
@[simp] theorem State.onThread_boot (t : Nat) (f : Thread → Thread) : (s.onThread t f).boot = s.boot := rfl
@[simp] theorem State.onThread_power (t : Nat) (f : Thread → Thread) : (s.onThread t f).power = s.power := rfl
@[simp] theorem State.onThread_drays (t : Nat) (f : Thread → Thread) : (s.onThread t f).drays = s.drays := rfl
@[simp] theorem State.onThread_guard (t : Nat) (f : Thread → Thread) : (s.onThread t f).guard = s.guard := rfl
@[simp] theorem State.onThread_master (t : Nat) (f : Thread → Thread) : (s.onThread t f).master = s.master := rfl
@[simp] theorem State.onThread_module (t : Nat) (f : Thread → Thread) : (s.onThread t f).module = s.module := rfl
@[simp] theorem State.onThread_sync (t : Nat) (f : Thread → Thread) : (s.onThread t f).sync = s.sync := rfl
@[simp] theorem State.onThread_drift (t : Nat) (f : Thread → Thread) : (s.onThread t f).drift = s.drift := rfl
@[simp] theorem State.onThread_fenced (t : Nat) (f : Thread → Thread) : (s.onThread t f).fenced = s.fenced := rfl
@[simp] theorem State.onThread_stacksOut (t : Nat) (f : Thread → Thread) : (s.onThread t f).stacksOut = s.stacksOut := rfl
@[simp] theorem State.onThread_measM (t : Nat) (f : Thread → Thread) : (s.onThread t f).measM = s.measM := rfl
@[simp] theorem State.onThread_measured (t : Nat) (f : Thread → Thread) : (s.onThread t f).measured = s.measured := rfl
@[simp] theorem State.onThread_credit (t : Nat) (f : Thread → Thread) : (s.onThread t f).credit = s.credit := rfl
@[simp] theorem State.onThread_answer (t : Nat) (f : Thread → Thread) : (s.onThread t f).answer = s.answer := rfl
@[simp] theorem State.onThread_mgmt (t : Nat) (f : Thread → Thread) : (s.onThread t f).mgmt = s.mgmt := rfl
@[simp] theorem State.onThread_turn (t : Nat) (f : Thread → Thread) : (s.onThread t f).turn = s.turn := rfl
@[simp] theorem State.onThread_cur (t : Nat) (f : Thread → Thread) : (s.onThread t f).cur = s.cur := rfl
@[simp] theorem State.onThread_elem (t : Nat) (f : Thread → Thread) : (s.onThread t f).elem = s.elem := rfl
@[simp] theorem State.onThread_agenda (t : Nat) (f : Thread → Thread) : (s.onThread t f).agenda = s.agenda := rfl
@[simp] theorem State.onThread_later (t : Nat) (f : Thread → Thread) : (s.onThread t f).later = s.later := rfl
@[simp] theorem State.onThread_tick (t : Nat) (f : Thread → Thread) : (s.onThread t f).tick = s.tick := rfl
@[simp] theorem State.onThread_nextId (t : Nat) (f : Thread → Thread) : (s.onThread t f).nextId = s.nextId := rfl
@[simp] theorem State.onThread_freeCtr (t : Nat) (f : Thread → Thread) : (s.onThread t f).freeCtr = s.freeCtr := rfl

/-! `State.onMe` writes `threads` alone. -/
@[simp] theorem State.onMe_cores (f : Thread → Thread) : (s.onMe f).cores = s.cores := rfl
@[simp] theorem State.onMe_dies (f : Thread → Thread) : (s.onMe f).dies = s.dies := rfl
@[simp] theorem State.onMe_parts (f : Thread → Thread) : (s.onMe f).parts = s.parts := rfl
@[simp] theorem State.onMe_regions (f : Thread → Thread) : (s.onMe f).regions = s.regions := rfl
@[simp] theorem State.onMe_mem (f : Thread → Thread) : (s.onMe f).mem = s.mem := rfl
@[simp] theorem State.onMe_poison (f : Thread → Thread) : (s.onMe f).poison = s.poison := rfl
@[simp] theorem State.onMe_flight (f : Thread → Thread) : (s.onMe f).flight = s.flight := rfl
@[simp] theorem State.onMe_homes (f : Thread → Thread) : (s.onMe f).homes = s.homes := rfl
@[simp] theorem State.onMe_l2 (f : Thread → Thread) : (s.onMe f).l2 = s.l2 := rfl
@[simp] theorem State.onMe_rimTlb (f : Thread → Thread) : (s.onMe f).rimTlb = s.rimTlb := rfl
@[simp] theorem State.onMe_rimWalks (f : Thread → Thread) : (s.onMe f).rimWalks = s.rimWalks := rfl
@[simp] theorem State.onMe_rimLast (f : Thread → Thread) : (s.onMe f).rimLast = s.rimLast := rfl
@[simp] theorem State.onMe_links (f : Thread → Thread) : (s.onMe f).links = s.links := rfl
@[simp] theorem State.onMe_couplers (f : Thread → Thread) : (s.onMe f).couplers = s.couplers := rfl
@[simp] theorem State.onMe_boot (f : Thread → Thread) : (s.onMe f).boot = s.boot := rfl
@[simp] theorem State.onMe_power (f : Thread → Thread) : (s.onMe f).power = s.power := rfl
@[simp] theorem State.onMe_drays (f : Thread → Thread) : (s.onMe f).drays = s.drays := rfl
@[simp] theorem State.onMe_guard (f : Thread → Thread) : (s.onMe f).guard = s.guard := rfl
@[simp] theorem State.onMe_master (f : Thread → Thread) : (s.onMe f).master = s.master := rfl
@[simp] theorem State.onMe_module (f : Thread → Thread) : (s.onMe f).module = s.module := rfl
@[simp] theorem State.onMe_sync (f : Thread → Thread) : (s.onMe f).sync = s.sync := rfl
@[simp] theorem State.onMe_drift (f : Thread → Thread) : (s.onMe f).drift = s.drift := rfl
@[simp] theorem State.onMe_fenced (f : Thread → Thread) : (s.onMe f).fenced = s.fenced := rfl
@[simp] theorem State.onMe_stacksOut (f : Thread → Thread) : (s.onMe f).stacksOut = s.stacksOut := rfl
@[simp] theorem State.onMe_measM (f : Thread → Thread) : (s.onMe f).measM = s.measM := rfl
@[simp] theorem State.onMe_measured (f : Thread → Thread) : (s.onMe f).measured = s.measured := rfl
@[simp] theorem State.onMe_credit (f : Thread → Thread) : (s.onMe f).credit = s.credit := rfl
@[simp] theorem State.onMe_answer (f : Thread → Thread) : (s.onMe f).answer = s.answer := rfl
@[simp] theorem State.onMe_mgmt (f : Thread → Thread) : (s.onMe f).mgmt = s.mgmt := rfl
@[simp] theorem State.onMe_turn (f : Thread → Thread) : (s.onMe f).turn = s.turn := rfl
@[simp] theorem State.onMe_cur (f : Thread → Thread) : (s.onMe f).cur = s.cur := rfl
@[simp] theorem State.onMe_elem (f : Thread → Thread) : (s.onMe f).elem = s.elem := rfl
@[simp] theorem State.onMe_agenda (f : Thread → Thread) : (s.onMe f).agenda = s.agenda := rfl
@[simp] theorem State.onMe_later (f : Thread → Thread) : (s.onMe f).later = s.later := rfl
@[simp] theorem State.onMe_tick (f : Thread → Thread) : (s.onMe f).tick = s.tick := rfl
@[simp] theorem State.onMe_nextId (f : Thread → Thread) : (s.onMe f).nextId = s.nextId := rfl
@[simp] theorem State.onMe_freeCtr (f : Thread → Thread) : (s.onMe f).freeCtr = s.freeCtr := rfl

/-! `State.onCore` writes `cores` alone. -/
@[simp] theorem State.onCore_threads (c : Nat) (f : Core → Core) : (s.onCore c f).threads = s.threads := rfl
@[simp] theorem State.onCore_dies (c : Nat) (f : Core → Core) : (s.onCore c f).dies = s.dies := rfl
@[simp] theorem State.onCore_parts (c : Nat) (f : Core → Core) : (s.onCore c f).parts = s.parts := rfl
@[simp] theorem State.onCore_regions (c : Nat) (f : Core → Core) : (s.onCore c f).regions = s.regions := rfl
@[simp] theorem State.onCore_mem (c : Nat) (f : Core → Core) : (s.onCore c f).mem = s.mem := rfl
@[simp] theorem State.onCore_poison (c : Nat) (f : Core → Core) : (s.onCore c f).poison = s.poison := rfl
@[simp] theorem State.onCore_flight (c : Nat) (f : Core → Core) : (s.onCore c f).flight = s.flight := rfl
@[simp] theorem State.onCore_homes (c : Nat) (f : Core → Core) : (s.onCore c f).homes = s.homes := rfl
@[simp] theorem State.onCore_l2 (c : Nat) (f : Core → Core) : (s.onCore c f).l2 = s.l2 := rfl
@[simp] theorem State.onCore_rimTlb (c : Nat) (f : Core → Core) : (s.onCore c f).rimTlb = s.rimTlb := rfl
@[simp] theorem State.onCore_rimWalks (c : Nat) (f : Core → Core) : (s.onCore c f).rimWalks = s.rimWalks := rfl
@[simp] theorem State.onCore_rimLast (c : Nat) (f : Core → Core) : (s.onCore c f).rimLast = s.rimLast := rfl
@[simp] theorem State.onCore_links (c : Nat) (f : Core → Core) : (s.onCore c f).links = s.links := rfl
@[simp] theorem State.onCore_couplers (c : Nat) (f : Core → Core) : (s.onCore c f).couplers = s.couplers := rfl
@[simp] theorem State.onCore_boot (c : Nat) (f : Core → Core) : (s.onCore c f).boot = s.boot := rfl
@[simp] theorem State.onCore_power (c : Nat) (f : Core → Core) : (s.onCore c f).power = s.power := rfl
@[simp] theorem State.onCore_drays (c : Nat) (f : Core → Core) : (s.onCore c f).drays = s.drays := rfl
@[simp] theorem State.onCore_guard (c : Nat) (f : Core → Core) : (s.onCore c f).guard = s.guard := rfl
@[simp] theorem State.onCore_master (c : Nat) (f : Core → Core) : (s.onCore c f).master = s.master := rfl
@[simp] theorem State.onCore_module (c : Nat) (f : Core → Core) : (s.onCore c f).module = s.module := rfl
@[simp] theorem State.onCore_sync (c : Nat) (f : Core → Core) : (s.onCore c f).sync = s.sync := rfl
@[simp] theorem State.onCore_drift (c : Nat) (f : Core → Core) : (s.onCore c f).drift = s.drift := rfl
@[simp] theorem State.onCore_fenced (c : Nat) (f : Core → Core) : (s.onCore c f).fenced = s.fenced := rfl
@[simp] theorem State.onCore_stacksOut (c : Nat) (f : Core → Core) : (s.onCore c f).stacksOut = s.stacksOut := rfl
@[simp] theorem State.onCore_measM (c : Nat) (f : Core → Core) : (s.onCore c f).measM = s.measM := rfl
@[simp] theorem State.onCore_measured (c : Nat) (f : Core → Core) : (s.onCore c f).measured = s.measured := rfl
@[simp] theorem State.onCore_credit (c : Nat) (f : Core → Core) : (s.onCore c f).credit = s.credit := rfl
@[simp] theorem State.onCore_answer (c : Nat) (f : Core → Core) : (s.onCore c f).answer = s.answer := rfl
@[simp] theorem State.onCore_mgmt (c : Nat) (f : Core → Core) : (s.onCore c f).mgmt = s.mgmt := rfl
@[simp] theorem State.onCore_turn (c : Nat) (f : Core → Core) : (s.onCore c f).turn = s.turn := rfl
@[simp] theorem State.onCore_cur (c : Nat) (f : Core → Core) : (s.onCore c f).cur = s.cur := rfl
@[simp] theorem State.onCore_elem (c : Nat) (f : Core → Core) : (s.onCore c f).elem = s.elem := rfl
@[simp] theorem State.onCore_agenda (c : Nat) (f : Core → Core) : (s.onCore c f).agenda = s.agenda := rfl
@[simp] theorem State.onCore_later (c : Nat) (f : Core → Core) : (s.onCore c f).later = s.later := rfl
@[simp] theorem State.onCore_tick (c : Nat) (f : Core → Core) : (s.onCore c f).tick = s.tick := rfl
@[simp] theorem State.onCore_nextId (c : Nat) (f : Core → Core) : (s.onCore c f).nextId = s.nextId := rfl
@[simp] theorem State.onCore_freeCtr (c : Nat) (f : Core → Core) : (s.onCore c f).freeCtr = s.freeCtr := rfl

/-! `State.onDie` writes `dies` alone. -/
@[simp] theorem State.onDie_threads (d : Fin 4) (f : Die → Die) : (s.onDie d f).threads = s.threads := rfl
@[simp] theorem State.onDie_cores (d : Fin 4) (f : Die → Die) : (s.onDie d f).cores = s.cores := rfl
@[simp] theorem State.onDie_parts (d : Fin 4) (f : Die → Die) : (s.onDie d f).parts = s.parts := rfl
@[simp] theorem State.onDie_regions (d : Fin 4) (f : Die → Die) : (s.onDie d f).regions = s.regions := rfl
@[simp] theorem State.onDie_mem (d : Fin 4) (f : Die → Die) : (s.onDie d f).mem = s.mem := rfl
@[simp] theorem State.onDie_poison (d : Fin 4) (f : Die → Die) : (s.onDie d f).poison = s.poison := rfl
@[simp] theorem State.onDie_flight (d : Fin 4) (f : Die → Die) : (s.onDie d f).flight = s.flight := rfl
@[simp] theorem State.onDie_homes (d : Fin 4) (f : Die → Die) : (s.onDie d f).homes = s.homes := rfl
@[simp] theorem State.onDie_l2 (d : Fin 4) (f : Die → Die) : (s.onDie d f).l2 = s.l2 := rfl
@[simp] theorem State.onDie_rimTlb (d : Fin 4) (f : Die → Die) : (s.onDie d f).rimTlb = s.rimTlb := rfl
@[simp] theorem State.onDie_rimWalks (d : Fin 4) (f : Die → Die) : (s.onDie d f).rimWalks = s.rimWalks := rfl
@[simp] theorem State.onDie_rimLast (d : Fin 4) (f : Die → Die) : (s.onDie d f).rimLast = s.rimLast := rfl
@[simp] theorem State.onDie_links (d : Fin 4) (f : Die → Die) : (s.onDie d f).links = s.links := rfl
@[simp] theorem State.onDie_couplers (d : Fin 4) (f : Die → Die) : (s.onDie d f).couplers = s.couplers := rfl
@[simp] theorem State.onDie_boot (d : Fin 4) (f : Die → Die) : (s.onDie d f).boot = s.boot := rfl
@[simp] theorem State.onDie_power (d : Fin 4) (f : Die → Die) : (s.onDie d f).power = s.power := rfl
@[simp] theorem State.onDie_drays (d : Fin 4) (f : Die → Die) : (s.onDie d f).drays = s.drays := rfl
@[simp] theorem State.onDie_guard (d : Fin 4) (f : Die → Die) : (s.onDie d f).guard = s.guard := rfl
@[simp] theorem State.onDie_master (d : Fin 4) (f : Die → Die) : (s.onDie d f).master = s.master := rfl
@[simp] theorem State.onDie_module (d : Fin 4) (f : Die → Die) : (s.onDie d f).module = s.module := rfl
@[simp] theorem State.onDie_sync (d : Fin 4) (f : Die → Die) : (s.onDie d f).sync = s.sync := rfl
@[simp] theorem State.onDie_drift (d : Fin 4) (f : Die → Die) : (s.onDie d f).drift = s.drift := rfl
@[simp] theorem State.onDie_fenced (d : Fin 4) (f : Die → Die) : (s.onDie d f).fenced = s.fenced := rfl
@[simp] theorem State.onDie_stacksOut (d : Fin 4) (f : Die → Die) : (s.onDie d f).stacksOut = s.stacksOut := rfl
@[simp] theorem State.onDie_measM (d : Fin 4) (f : Die → Die) : (s.onDie d f).measM = s.measM := rfl
@[simp] theorem State.onDie_measured (d : Fin 4) (f : Die → Die) : (s.onDie d f).measured = s.measured := rfl
@[simp] theorem State.onDie_credit (d : Fin 4) (f : Die → Die) : (s.onDie d f).credit = s.credit := rfl
@[simp] theorem State.onDie_answer (d : Fin 4) (f : Die → Die) : (s.onDie d f).answer = s.answer := rfl
@[simp] theorem State.onDie_mgmt (d : Fin 4) (f : Die → Die) : (s.onDie d f).mgmt = s.mgmt := rfl
@[simp] theorem State.onDie_turn (d : Fin 4) (f : Die → Die) : (s.onDie d f).turn = s.turn := rfl
@[simp] theorem State.onDie_cur (d : Fin 4) (f : Die → Die) : (s.onDie d f).cur = s.cur := rfl
@[simp] theorem State.onDie_elem (d : Fin 4) (f : Die → Die) : (s.onDie d f).elem = s.elem := rfl
@[simp] theorem State.onDie_agenda (d : Fin 4) (f : Die → Die) : (s.onDie d f).agenda = s.agenda := rfl
@[simp] theorem State.onDie_later (d : Fin 4) (f : Die → Die) : (s.onDie d f).later = s.later := rfl
@[simp] theorem State.onDie_tick (d : Fin 4) (f : Die → Die) : (s.onDie d f).tick = s.tick := rfl
@[simp] theorem State.onDie_nextId (d : Fin 4) (f : Die → Die) : (s.onDie d f).nextId = s.nextId := rfl
@[simp] theorem State.onDie_freeCtr (d : Fin 4) (f : Die → Die) : (s.onDie d f).freeCtr = s.freeCtr := rfl

/-! `State.onPart` writes `parts` alone. -/
@[simp] theorem State.onPart_threads (p : Fin 8) (f : Part → Part) : (s.onPart p f).threads = s.threads := rfl
@[simp] theorem State.onPart_cores (p : Fin 8) (f : Part → Part) : (s.onPart p f).cores = s.cores := rfl
@[simp] theorem State.onPart_dies (p : Fin 8) (f : Part → Part) : (s.onPart p f).dies = s.dies := rfl
@[simp] theorem State.onPart_regions (p : Fin 8) (f : Part → Part) : (s.onPart p f).regions = s.regions := rfl
@[simp] theorem State.onPart_mem (p : Fin 8) (f : Part → Part) : (s.onPart p f).mem = s.mem := rfl
@[simp] theorem State.onPart_poison (p : Fin 8) (f : Part → Part) : (s.onPart p f).poison = s.poison := rfl
@[simp] theorem State.onPart_flight (p : Fin 8) (f : Part → Part) : (s.onPart p f).flight = s.flight := rfl
@[simp] theorem State.onPart_homes (p : Fin 8) (f : Part → Part) : (s.onPart p f).homes = s.homes := rfl
@[simp] theorem State.onPart_l2 (p : Fin 8) (f : Part → Part) : (s.onPart p f).l2 = s.l2 := rfl
@[simp] theorem State.onPart_rimTlb (p : Fin 8) (f : Part → Part) : (s.onPart p f).rimTlb = s.rimTlb := rfl
@[simp] theorem State.onPart_rimWalks (p : Fin 8) (f : Part → Part) : (s.onPart p f).rimWalks = s.rimWalks := rfl
@[simp] theorem State.onPart_rimLast (p : Fin 8) (f : Part → Part) : (s.onPart p f).rimLast = s.rimLast := rfl
@[simp] theorem State.onPart_links (p : Fin 8) (f : Part → Part) : (s.onPart p f).links = s.links := rfl
@[simp] theorem State.onPart_couplers (p : Fin 8) (f : Part → Part) : (s.onPart p f).couplers = s.couplers := rfl
@[simp] theorem State.onPart_boot (p : Fin 8) (f : Part → Part) : (s.onPart p f).boot = s.boot := rfl
@[simp] theorem State.onPart_power (p : Fin 8) (f : Part → Part) : (s.onPart p f).power = s.power := rfl
@[simp] theorem State.onPart_drays (p : Fin 8) (f : Part → Part) : (s.onPart p f).drays = s.drays := rfl
@[simp] theorem State.onPart_guard (p : Fin 8) (f : Part → Part) : (s.onPart p f).guard = s.guard := rfl
@[simp] theorem State.onPart_master (p : Fin 8) (f : Part → Part) : (s.onPart p f).master = s.master := rfl
@[simp] theorem State.onPart_module (p : Fin 8) (f : Part → Part) : (s.onPart p f).module = s.module := rfl
@[simp] theorem State.onPart_sync (p : Fin 8) (f : Part → Part) : (s.onPart p f).sync = s.sync := rfl
@[simp] theorem State.onPart_drift (p : Fin 8) (f : Part → Part) : (s.onPart p f).drift = s.drift := rfl
@[simp] theorem State.onPart_fenced (p : Fin 8) (f : Part → Part) : (s.onPart p f).fenced = s.fenced := rfl
@[simp] theorem State.onPart_stacksOut (p : Fin 8) (f : Part → Part) : (s.onPart p f).stacksOut = s.stacksOut := rfl
@[simp] theorem State.onPart_measM (p : Fin 8) (f : Part → Part) : (s.onPart p f).measM = s.measM := rfl
@[simp] theorem State.onPart_measured (p : Fin 8) (f : Part → Part) : (s.onPart p f).measured = s.measured := rfl
@[simp] theorem State.onPart_credit (p : Fin 8) (f : Part → Part) : (s.onPart p f).credit = s.credit := rfl
@[simp] theorem State.onPart_answer (p : Fin 8) (f : Part → Part) : (s.onPart p f).answer = s.answer := rfl
@[simp] theorem State.onPart_mgmt (p : Fin 8) (f : Part → Part) : (s.onPart p f).mgmt = s.mgmt := rfl
@[simp] theorem State.onPart_turn (p : Fin 8) (f : Part → Part) : (s.onPart p f).turn = s.turn := rfl
@[simp] theorem State.onPart_cur (p : Fin 8) (f : Part → Part) : (s.onPart p f).cur = s.cur := rfl
@[simp] theorem State.onPart_elem (p : Fin 8) (f : Part → Part) : (s.onPart p f).elem = s.elem := rfl
@[simp] theorem State.onPart_agenda (p : Fin 8) (f : Part → Part) : (s.onPart p f).agenda = s.agenda := rfl
@[simp] theorem State.onPart_later (p : Fin 8) (f : Part → Part) : (s.onPart p f).later = s.later := rfl
@[simp] theorem State.onPart_tick (p : Fin 8) (f : Part → Part) : (s.onPart p f).tick = s.tick := rfl
@[simp] theorem State.onPart_nextId (p : Fin 8) (f : Part → Part) : (s.onPart p f).nextId = s.nextId := rfl
@[simp] theorem State.onPart_freeCtr (p : Fin 8) (f : Part → Part) : (s.onPart p f).freeCtr = s.freeCtr := rfl

/-! `State.bump` writes `parts` alone. -/
@[simp] theorem State.bump_threads (p : Fin 8) (off hi lo n : Nat) : (s.bump p off hi lo n).threads = s.threads := rfl
@[simp] theorem State.bump_cores (p : Fin 8) (off hi lo n : Nat) : (s.bump p off hi lo n).cores = s.cores := rfl
@[simp] theorem State.bump_dies (p : Fin 8) (off hi lo n : Nat) : (s.bump p off hi lo n).dies = s.dies := rfl
@[simp] theorem State.bump_regions (p : Fin 8) (off hi lo n : Nat) : (s.bump p off hi lo n).regions = s.regions := rfl
@[simp] theorem State.bump_mem (p : Fin 8) (off hi lo n : Nat) : (s.bump p off hi lo n).mem = s.mem := rfl
@[simp] theorem State.bump_poison (p : Fin 8) (off hi lo n : Nat) : (s.bump p off hi lo n).poison = s.poison := rfl
@[simp] theorem State.bump_flight (p : Fin 8) (off hi lo n : Nat) : (s.bump p off hi lo n).flight = s.flight := rfl
@[simp] theorem State.bump_homes (p : Fin 8) (off hi lo n : Nat) : (s.bump p off hi lo n).homes = s.homes := rfl
@[simp] theorem State.bump_l2 (p : Fin 8) (off hi lo n : Nat) : (s.bump p off hi lo n).l2 = s.l2 := rfl
@[simp] theorem State.bump_rimTlb (p : Fin 8) (off hi lo n : Nat) : (s.bump p off hi lo n).rimTlb = s.rimTlb := rfl
@[simp] theorem State.bump_rimWalks (p : Fin 8) (off hi lo n : Nat) : (s.bump p off hi lo n).rimWalks = s.rimWalks := rfl
@[simp] theorem State.bump_rimLast (p : Fin 8) (off hi lo n : Nat) : (s.bump p off hi lo n).rimLast = s.rimLast := rfl
@[simp] theorem State.bump_links (p : Fin 8) (off hi lo n : Nat) : (s.bump p off hi lo n).links = s.links := rfl
@[simp] theorem State.bump_couplers (p : Fin 8) (off hi lo n : Nat) : (s.bump p off hi lo n).couplers = s.couplers := rfl
@[simp] theorem State.bump_boot (p : Fin 8) (off hi lo n : Nat) : (s.bump p off hi lo n).boot = s.boot := rfl
@[simp] theorem State.bump_power (p : Fin 8) (off hi lo n : Nat) : (s.bump p off hi lo n).power = s.power := rfl
@[simp] theorem State.bump_drays (p : Fin 8) (off hi lo n : Nat) : (s.bump p off hi lo n).drays = s.drays := rfl
@[simp] theorem State.bump_guard (p : Fin 8) (off hi lo n : Nat) : (s.bump p off hi lo n).guard = s.guard := rfl
@[simp] theorem State.bump_master (p : Fin 8) (off hi lo n : Nat) : (s.bump p off hi lo n).master = s.master := rfl
@[simp] theorem State.bump_module (p : Fin 8) (off hi lo n : Nat) : (s.bump p off hi lo n).module = s.module := rfl
@[simp] theorem State.bump_sync (p : Fin 8) (off hi lo n : Nat) : (s.bump p off hi lo n).sync = s.sync := rfl
@[simp] theorem State.bump_drift (p : Fin 8) (off hi lo n : Nat) : (s.bump p off hi lo n).drift = s.drift := rfl
@[simp] theorem State.bump_fenced (p : Fin 8) (off hi lo n : Nat) : (s.bump p off hi lo n).fenced = s.fenced := rfl
@[simp] theorem State.bump_stacksOut (p : Fin 8) (off hi lo n : Nat) : (s.bump p off hi lo n).stacksOut = s.stacksOut := rfl
@[simp] theorem State.bump_measM (p : Fin 8) (off hi lo n : Nat) : (s.bump p off hi lo n).measM = s.measM := rfl
@[simp] theorem State.bump_measured (p : Fin 8) (off hi lo n : Nat) : (s.bump p off hi lo n).measured = s.measured := rfl
@[simp] theorem State.bump_credit (p : Fin 8) (off hi lo n : Nat) : (s.bump p off hi lo n).credit = s.credit := rfl
@[simp] theorem State.bump_answer (p : Fin 8) (off hi lo n : Nat) : (s.bump p off hi lo n).answer = s.answer := rfl
@[simp] theorem State.bump_mgmt (p : Fin 8) (off hi lo n : Nat) : (s.bump p off hi lo n).mgmt = s.mgmt := rfl
@[simp] theorem State.bump_turn (p : Fin 8) (off hi lo n : Nat) : (s.bump p off hi lo n).turn = s.turn := rfl
@[simp] theorem State.bump_cur (p : Fin 8) (off hi lo n : Nat) : (s.bump p off hi lo n).cur = s.cur := rfl
@[simp] theorem State.bump_elem (p : Fin 8) (off hi lo n : Nat) : (s.bump p off hi lo n).elem = s.elem := rfl
@[simp] theorem State.bump_agenda (p : Fin 8) (off hi lo n : Nat) : (s.bump p off hi lo n).agenda = s.agenda := rfl
@[simp] theorem State.bump_later (p : Fin 8) (off hi lo n : Nat) : (s.bump p off hi lo n).later = s.later := rfl
@[simp] theorem State.bump_tick (p : Fin 8) (off hi lo n : Nat) : (s.bump p off hi lo n).tick = s.tick := rfl
@[simp] theorem State.bump_nextId (p : Fin 8) (off hi lo n : Nat) : (s.bump p off hi lo n).nextId = s.nextId := rfl
@[simp] theorem State.bump_freeCtr (p : Fin 8) (off hi lo n : Nat) : (s.bump p off hi lo n).freeCtr = s.freeCtr := rfl

/-! `State.setRegion` writes `regions` alone. -/
@[simp] theorem State.setRegion_threads (k : Nat) (r : Region) : (s.setRegion k r).threads = s.threads := rfl
@[simp] theorem State.setRegion_cores (k : Nat) (r : Region) : (s.setRegion k r).cores = s.cores := rfl
@[simp] theorem State.setRegion_dies (k : Nat) (r : Region) : (s.setRegion k r).dies = s.dies := rfl
@[simp] theorem State.setRegion_parts (k : Nat) (r : Region) : (s.setRegion k r).parts = s.parts := rfl
@[simp] theorem State.setRegion_mem (k : Nat) (r : Region) : (s.setRegion k r).mem = s.mem := rfl
@[simp] theorem State.setRegion_poison (k : Nat) (r : Region) : (s.setRegion k r).poison = s.poison := rfl
@[simp] theorem State.setRegion_flight (k : Nat) (r : Region) : (s.setRegion k r).flight = s.flight := rfl
@[simp] theorem State.setRegion_homes (k : Nat) (r : Region) : (s.setRegion k r).homes = s.homes := rfl
@[simp] theorem State.setRegion_l2 (k : Nat) (r : Region) : (s.setRegion k r).l2 = s.l2 := rfl
@[simp] theorem State.setRegion_rimTlb (k : Nat) (r : Region) : (s.setRegion k r).rimTlb = s.rimTlb := rfl
@[simp] theorem State.setRegion_rimWalks (k : Nat) (r : Region) : (s.setRegion k r).rimWalks = s.rimWalks := rfl
@[simp] theorem State.setRegion_rimLast (k : Nat) (r : Region) : (s.setRegion k r).rimLast = s.rimLast := rfl
@[simp] theorem State.setRegion_links (k : Nat) (r : Region) : (s.setRegion k r).links = s.links := rfl
@[simp] theorem State.setRegion_couplers (k : Nat) (r : Region) : (s.setRegion k r).couplers = s.couplers := rfl
@[simp] theorem State.setRegion_boot (k : Nat) (r : Region) : (s.setRegion k r).boot = s.boot := rfl
@[simp] theorem State.setRegion_power (k : Nat) (r : Region) : (s.setRegion k r).power = s.power := rfl
@[simp] theorem State.setRegion_drays (k : Nat) (r : Region) : (s.setRegion k r).drays = s.drays := rfl
@[simp] theorem State.setRegion_guard (k : Nat) (r : Region) : (s.setRegion k r).guard = s.guard := rfl
@[simp] theorem State.setRegion_master (k : Nat) (r : Region) : (s.setRegion k r).master = s.master := rfl
@[simp] theorem State.setRegion_module (k : Nat) (r : Region) : (s.setRegion k r).module = s.module := rfl
@[simp] theorem State.setRegion_sync (k : Nat) (r : Region) : (s.setRegion k r).sync = s.sync := rfl
@[simp] theorem State.setRegion_drift (k : Nat) (r : Region) : (s.setRegion k r).drift = s.drift := rfl
@[simp] theorem State.setRegion_fenced (k : Nat) (r : Region) : (s.setRegion k r).fenced = s.fenced := rfl
@[simp] theorem State.setRegion_stacksOut (k : Nat) (r : Region) : (s.setRegion k r).stacksOut = s.stacksOut := rfl
@[simp] theorem State.setRegion_measM (k : Nat) (r : Region) : (s.setRegion k r).measM = s.measM := rfl
@[simp] theorem State.setRegion_measured (k : Nat) (r : Region) : (s.setRegion k r).measured = s.measured := rfl
@[simp] theorem State.setRegion_credit (k : Nat) (r : Region) : (s.setRegion k r).credit = s.credit := rfl
@[simp] theorem State.setRegion_answer (k : Nat) (r : Region) : (s.setRegion k r).answer = s.answer := rfl
@[simp] theorem State.setRegion_mgmt (k : Nat) (r : Region) : (s.setRegion k r).mgmt = s.mgmt := rfl
@[simp] theorem State.setRegion_turn (k : Nat) (r : Region) : (s.setRegion k r).turn = s.turn := rfl
@[simp] theorem State.setRegion_cur (k : Nat) (r : Region) : (s.setRegion k r).cur = s.cur := rfl
@[simp] theorem State.setRegion_elem (k : Nat) (r : Region) : (s.setRegion k r).elem = s.elem := rfl
@[simp] theorem State.setRegion_agenda (k : Nat) (r : Region) : (s.setRegion k r).agenda = s.agenda := rfl
@[simp] theorem State.setRegion_later (k : Nat) (r : Region) : (s.setRegion k r).later = s.later := rfl
@[simp] theorem State.setRegion_tick (k : Nat) (r : Region) : (s.setRegion k r).tick = s.tick := rfl
@[simp] theorem State.setRegion_nextId (k : Nat) (r : Region) : (s.setRegion k r).nextId = s.nextId := rfl
@[simp] theorem State.setRegion_freeCtr (k : Nat) (r : Region) : (s.setRegion k r).freeCtr = s.freeCtr := rfl

/-! `State.onLink` writes `links` alone. -/
@[simp] theorem State.onLink_threads (n : Nat) (f : Link → Link) : (s.onLink n f).threads = s.threads := rfl
@[simp] theorem State.onLink_cores (n : Nat) (f : Link → Link) : (s.onLink n f).cores = s.cores := rfl
@[simp] theorem State.onLink_dies (n : Nat) (f : Link → Link) : (s.onLink n f).dies = s.dies := rfl
@[simp] theorem State.onLink_parts (n : Nat) (f : Link → Link) : (s.onLink n f).parts = s.parts := rfl
@[simp] theorem State.onLink_regions (n : Nat) (f : Link → Link) : (s.onLink n f).regions = s.regions := rfl
@[simp] theorem State.onLink_mem (n : Nat) (f : Link → Link) : (s.onLink n f).mem = s.mem := rfl
@[simp] theorem State.onLink_poison (n : Nat) (f : Link → Link) : (s.onLink n f).poison = s.poison := rfl
@[simp] theorem State.onLink_flight (n : Nat) (f : Link → Link) : (s.onLink n f).flight = s.flight := rfl
@[simp] theorem State.onLink_homes (n : Nat) (f : Link → Link) : (s.onLink n f).homes = s.homes := rfl
@[simp] theorem State.onLink_l2 (n : Nat) (f : Link → Link) : (s.onLink n f).l2 = s.l2 := rfl
@[simp] theorem State.onLink_rimTlb (n : Nat) (f : Link → Link) : (s.onLink n f).rimTlb = s.rimTlb := rfl
@[simp] theorem State.onLink_rimWalks (n : Nat) (f : Link → Link) : (s.onLink n f).rimWalks = s.rimWalks := rfl
@[simp] theorem State.onLink_rimLast (n : Nat) (f : Link → Link) : (s.onLink n f).rimLast = s.rimLast := rfl
@[simp] theorem State.onLink_couplers (n : Nat) (f : Link → Link) : (s.onLink n f).couplers = s.couplers := rfl
@[simp] theorem State.onLink_boot (n : Nat) (f : Link → Link) : (s.onLink n f).boot = s.boot := rfl
@[simp] theorem State.onLink_power (n : Nat) (f : Link → Link) : (s.onLink n f).power = s.power := rfl
@[simp] theorem State.onLink_drays (n : Nat) (f : Link → Link) : (s.onLink n f).drays = s.drays := rfl
@[simp] theorem State.onLink_guard (n : Nat) (f : Link → Link) : (s.onLink n f).guard = s.guard := rfl
@[simp] theorem State.onLink_master (n : Nat) (f : Link → Link) : (s.onLink n f).master = s.master := rfl
@[simp] theorem State.onLink_module (n : Nat) (f : Link → Link) : (s.onLink n f).module = s.module := rfl
@[simp] theorem State.onLink_sync (n : Nat) (f : Link → Link) : (s.onLink n f).sync = s.sync := rfl
@[simp] theorem State.onLink_drift (n : Nat) (f : Link → Link) : (s.onLink n f).drift = s.drift := rfl
@[simp] theorem State.onLink_fenced (n : Nat) (f : Link → Link) : (s.onLink n f).fenced = s.fenced := rfl
@[simp] theorem State.onLink_stacksOut (n : Nat) (f : Link → Link) : (s.onLink n f).stacksOut = s.stacksOut := rfl
@[simp] theorem State.onLink_measM (n : Nat) (f : Link → Link) : (s.onLink n f).measM = s.measM := rfl
@[simp] theorem State.onLink_measured (n : Nat) (f : Link → Link) : (s.onLink n f).measured = s.measured := rfl
@[simp] theorem State.onLink_credit (n : Nat) (f : Link → Link) : (s.onLink n f).credit = s.credit := rfl
@[simp] theorem State.onLink_answer (n : Nat) (f : Link → Link) : (s.onLink n f).answer = s.answer := rfl
@[simp] theorem State.onLink_mgmt (n : Nat) (f : Link → Link) : (s.onLink n f).mgmt = s.mgmt := rfl
@[simp] theorem State.onLink_turn (n : Nat) (f : Link → Link) : (s.onLink n f).turn = s.turn := rfl
@[simp] theorem State.onLink_cur (n : Nat) (f : Link → Link) : (s.onLink n f).cur = s.cur := rfl
@[simp] theorem State.onLink_elem (n : Nat) (f : Link → Link) : (s.onLink n f).elem = s.elem := rfl
@[simp] theorem State.onLink_agenda (n : Nat) (f : Link → Link) : (s.onLink n f).agenda = s.agenda := rfl
@[simp] theorem State.onLink_later (n : Nat) (f : Link → Link) : (s.onLink n f).later = s.later := rfl
@[simp] theorem State.onLink_tick (n : Nat) (f : Link → Link) : (s.onLink n f).tick = s.tick := rfl
@[simp] theorem State.onLink_nextId (n : Nat) (f : Link → Link) : (s.onLink n f).nextId = s.nextId := rfl
@[simp] theorem State.onLink_freeCtr (n : Nat) (f : Link → Link) : (s.onLink n f).freeCtr = s.freeCtr := rfl

/-! `State.onCoupler` writes `couplers` alone. -/
@[simp] theorem State.onCoupler_threads (k : Nat) (f : Coupler → Coupler) : (s.onCoupler k f).threads = s.threads := rfl
@[simp] theorem State.onCoupler_cores (k : Nat) (f : Coupler → Coupler) : (s.onCoupler k f).cores = s.cores := rfl
@[simp] theorem State.onCoupler_dies (k : Nat) (f : Coupler → Coupler) : (s.onCoupler k f).dies = s.dies := rfl
@[simp] theorem State.onCoupler_parts (k : Nat) (f : Coupler → Coupler) : (s.onCoupler k f).parts = s.parts := rfl
@[simp] theorem State.onCoupler_regions (k : Nat) (f : Coupler → Coupler) : (s.onCoupler k f).regions = s.regions := rfl
@[simp] theorem State.onCoupler_mem (k : Nat) (f : Coupler → Coupler) : (s.onCoupler k f).mem = s.mem := rfl
@[simp] theorem State.onCoupler_poison (k : Nat) (f : Coupler → Coupler) : (s.onCoupler k f).poison = s.poison := rfl
@[simp] theorem State.onCoupler_flight (k : Nat) (f : Coupler → Coupler) : (s.onCoupler k f).flight = s.flight := rfl
@[simp] theorem State.onCoupler_homes (k : Nat) (f : Coupler → Coupler) : (s.onCoupler k f).homes = s.homes := rfl
@[simp] theorem State.onCoupler_l2 (k : Nat) (f : Coupler → Coupler) : (s.onCoupler k f).l2 = s.l2 := rfl
@[simp] theorem State.onCoupler_rimTlb (k : Nat) (f : Coupler → Coupler) : (s.onCoupler k f).rimTlb = s.rimTlb := rfl
@[simp] theorem State.onCoupler_rimWalks (k : Nat) (f : Coupler → Coupler) : (s.onCoupler k f).rimWalks = s.rimWalks := rfl
@[simp] theorem State.onCoupler_rimLast (k : Nat) (f : Coupler → Coupler) : (s.onCoupler k f).rimLast = s.rimLast := rfl
@[simp] theorem State.onCoupler_links (k : Nat) (f : Coupler → Coupler) : (s.onCoupler k f).links = s.links := rfl
@[simp] theorem State.onCoupler_boot (k : Nat) (f : Coupler → Coupler) : (s.onCoupler k f).boot = s.boot := rfl
@[simp] theorem State.onCoupler_power (k : Nat) (f : Coupler → Coupler) : (s.onCoupler k f).power = s.power := rfl
@[simp] theorem State.onCoupler_drays (k : Nat) (f : Coupler → Coupler) : (s.onCoupler k f).drays = s.drays := rfl
@[simp] theorem State.onCoupler_guard (k : Nat) (f : Coupler → Coupler) : (s.onCoupler k f).guard = s.guard := rfl
@[simp] theorem State.onCoupler_master (k : Nat) (f : Coupler → Coupler) : (s.onCoupler k f).master = s.master := rfl
@[simp] theorem State.onCoupler_module (k : Nat) (f : Coupler → Coupler) : (s.onCoupler k f).module = s.module := rfl
@[simp] theorem State.onCoupler_sync (k : Nat) (f : Coupler → Coupler) : (s.onCoupler k f).sync = s.sync := rfl
@[simp] theorem State.onCoupler_drift (k : Nat) (f : Coupler → Coupler) : (s.onCoupler k f).drift = s.drift := rfl
@[simp] theorem State.onCoupler_fenced (k : Nat) (f : Coupler → Coupler) : (s.onCoupler k f).fenced = s.fenced := rfl
@[simp] theorem State.onCoupler_stacksOut (k : Nat) (f : Coupler → Coupler) : (s.onCoupler k f).stacksOut = s.stacksOut := rfl
@[simp] theorem State.onCoupler_measM (k : Nat) (f : Coupler → Coupler) : (s.onCoupler k f).measM = s.measM := rfl
@[simp] theorem State.onCoupler_measured (k : Nat) (f : Coupler → Coupler) : (s.onCoupler k f).measured = s.measured := rfl
@[simp] theorem State.onCoupler_credit (k : Nat) (f : Coupler → Coupler) : (s.onCoupler k f).credit = s.credit := rfl
@[simp] theorem State.onCoupler_answer (k : Nat) (f : Coupler → Coupler) : (s.onCoupler k f).answer = s.answer := rfl
@[simp] theorem State.onCoupler_mgmt (k : Nat) (f : Coupler → Coupler) : (s.onCoupler k f).mgmt = s.mgmt := rfl
@[simp] theorem State.onCoupler_turn (k : Nat) (f : Coupler → Coupler) : (s.onCoupler k f).turn = s.turn := rfl
@[simp] theorem State.onCoupler_cur (k : Nat) (f : Coupler → Coupler) : (s.onCoupler k f).cur = s.cur := rfl
@[simp] theorem State.onCoupler_elem (k : Nat) (f : Coupler → Coupler) : (s.onCoupler k f).elem = s.elem := rfl
@[simp] theorem State.onCoupler_agenda (k : Nat) (f : Coupler → Coupler) : (s.onCoupler k f).agenda = s.agenda := rfl
@[simp] theorem State.onCoupler_later (k : Nat) (f : Coupler → Coupler) : (s.onCoupler k f).later = s.later := rfl
@[simp] theorem State.onCoupler_tick (k : Nat) (f : Coupler → Coupler) : (s.onCoupler k f).tick = s.tick := rfl
@[simp] theorem State.onCoupler_nextId (k : Nat) (f : Coupler → Coupler) : (s.onCoupler k f).nextId = s.nextId := rfl
@[simp] theorem State.onCoupler_freeCtr (k : Nat) (f : Coupler → Coupler) : (s.onCoupler k f).freeCtr = s.freeCtr := rfl

/-! `State.onDray` writes `drays` alone. -/
@[simp] theorem State.onDray_threads (n : Nat) (f : Dray → Dray) : (s.onDray n f).threads = s.threads := rfl
@[simp] theorem State.onDray_cores (n : Nat) (f : Dray → Dray) : (s.onDray n f).cores = s.cores := rfl
@[simp] theorem State.onDray_dies (n : Nat) (f : Dray → Dray) : (s.onDray n f).dies = s.dies := rfl
@[simp] theorem State.onDray_parts (n : Nat) (f : Dray → Dray) : (s.onDray n f).parts = s.parts := rfl
@[simp] theorem State.onDray_regions (n : Nat) (f : Dray → Dray) : (s.onDray n f).regions = s.regions := rfl
@[simp] theorem State.onDray_mem (n : Nat) (f : Dray → Dray) : (s.onDray n f).mem = s.mem := rfl
@[simp] theorem State.onDray_poison (n : Nat) (f : Dray → Dray) : (s.onDray n f).poison = s.poison := rfl
@[simp] theorem State.onDray_flight (n : Nat) (f : Dray → Dray) : (s.onDray n f).flight = s.flight := rfl
@[simp] theorem State.onDray_homes (n : Nat) (f : Dray → Dray) : (s.onDray n f).homes = s.homes := rfl
@[simp] theorem State.onDray_l2 (n : Nat) (f : Dray → Dray) : (s.onDray n f).l2 = s.l2 := rfl
@[simp] theorem State.onDray_rimTlb (n : Nat) (f : Dray → Dray) : (s.onDray n f).rimTlb = s.rimTlb := rfl
@[simp] theorem State.onDray_rimWalks (n : Nat) (f : Dray → Dray) : (s.onDray n f).rimWalks = s.rimWalks := rfl
@[simp] theorem State.onDray_rimLast (n : Nat) (f : Dray → Dray) : (s.onDray n f).rimLast = s.rimLast := rfl
@[simp] theorem State.onDray_links (n : Nat) (f : Dray → Dray) : (s.onDray n f).links = s.links := rfl
@[simp] theorem State.onDray_couplers (n : Nat) (f : Dray → Dray) : (s.onDray n f).couplers = s.couplers := rfl
@[simp] theorem State.onDray_boot (n : Nat) (f : Dray → Dray) : (s.onDray n f).boot = s.boot := rfl
@[simp] theorem State.onDray_power (n : Nat) (f : Dray → Dray) : (s.onDray n f).power = s.power := rfl
@[simp] theorem State.onDray_guard (n : Nat) (f : Dray → Dray) : (s.onDray n f).guard = s.guard := rfl
@[simp] theorem State.onDray_master (n : Nat) (f : Dray → Dray) : (s.onDray n f).master = s.master := rfl
@[simp] theorem State.onDray_module (n : Nat) (f : Dray → Dray) : (s.onDray n f).module = s.module := rfl
@[simp] theorem State.onDray_sync (n : Nat) (f : Dray → Dray) : (s.onDray n f).sync = s.sync := rfl
@[simp] theorem State.onDray_drift (n : Nat) (f : Dray → Dray) : (s.onDray n f).drift = s.drift := rfl
@[simp] theorem State.onDray_fenced (n : Nat) (f : Dray → Dray) : (s.onDray n f).fenced = s.fenced := rfl
@[simp] theorem State.onDray_stacksOut (n : Nat) (f : Dray → Dray) : (s.onDray n f).stacksOut = s.stacksOut := rfl
@[simp] theorem State.onDray_measM (n : Nat) (f : Dray → Dray) : (s.onDray n f).measM = s.measM := rfl
@[simp] theorem State.onDray_measured (n : Nat) (f : Dray → Dray) : (s.onDray n f).measured = s.measured := rfl
@[simp] theorem State.onDray_credit (n : Nat) (f : Dray → Dray) : (s.onDray n f).credit = s.credit := rfl
@[simp] theorem State.onDray_answer (n : Nat) (f : Dray → Dray) : (s.onDray n f).answer = s.answer := rfl
@[simp] theorem State.onDray_mgmt (n : Nat) (f : Dray → Dray) : (s.onDray n f).mgmt = s.mgmt := rfl
@[simp] theorem State.onDray_turn (n : Nat) (f : Dray → Dray) : (s.onDray n f).turn = s.turn := rfl
@[simp] theorem State.onDray_cur (n : Nat) (f : Dray → Dray) : (s.onDray n f).cur = s.cur := rfl
@[simp] theorem State.onDray_elem (n : Nat) (f : Dray → Dray) : (s.onDray n f).elem = s.elem := rfl
@[simp] theorem State.onDray_agenda (n : Nat) (f : Dray → Dray) : (s.onDray n f).agenda = s.agenda := rfl
@[simp] theorem State.onDray_later (n : Nat) (f : Dray → Dray) : (s.onDray n f).later = s.later := rfl
@[simp] theorem State.onDray_tick (n : Nat) (f : Dray → Dray) : (s.onDray n f).tick = s.tick := rfl
@[simp] theorem State.onDray_nextId (n : Nat) (f : Dray → Dray) : (s.onDray n f).nextId = s.nextId := rfl
@[simp] theorem State.onDray_freeCtr (n : Nat) (f : Dray → Dray) : (s.onDray n f).freeCtr = s.freeCtr := rfl

/-! `State.post` writes `agenda` alone. -/
@[simp] theorem State.post_threads (es : List Event) : (s.post es).threads = s.threads := rfl
@[simp] theorem State.post_cores (es : List Event) : (s.post es).cores = s.cores := rfl
@[simp] theorem State.post_dies (es : List Event) : (s.post es).dies = s.dies := rfl
@[simp] theorem State.post_parts (es : List Event) : (s.post es).parts = s.parts := rfl
@[simp] theorem State.post_regions (es : List Event) : (s.post es).regions = s.regions := rfl
@[simp] theorem State.post_mem (es : List Event) : (s.post es).mem = s.mem := rfl
@[simp] theorem State.post_poison (es : List Event) : (s.post es).poison = s.poison := rfl
@[simp] theorem State.post_flight (es : List Event) : (s.post es).flight = s.flight := rfl
@[simp] theorem State.post_homes (es : List Event) : (s.post es).homes = s.homes := rfl
@[simp] theorem State.post_l2 (es : List Event) : (s.post es).l2 = s.l2 := rfl
@[simp] theorem State.post_rimTlb (es : List Event) : (s.post es).rimTlb = s.rimTlb := rfl
@[simp] theorem State.post_rimWalks (es : List Event) : (s.post es).rimWalks = s.rimWalks := rfl
@[simp] theorem State.post_rimLast (es : List Event) : (s.post es).rimLast = s.rimLast := rfl
@[simp] theorem State.post_links (es : List Event) : (s.post es).links = s.links := rfl
@[simp] theorem State.post_couplers (es : List Event) : (s.post es).couplers = s.couplers := rfl
@[simp] theorem State.post_boot (es : List Event) : (s.post es).boot = s.boot := rfl
@[simp] theorem State.post_power (es : List Event) : (s.post es).power = s.power := rfl
@[simp] theorem State.post_drays (es : List Event) : (s.post es).drays = s.drays := rfl
@[simp] theorem State.post_guard (es : List Event) : (s.post es).guard = s.guard := rfl
@[simp] theorem State.post_master (es : List Event) : (s.post es).master = s.master := rfl
@[simp] theorem State.post_module (es : List Event) : (s.post es).module = s.module := rfl
@[simp] theorem State.post_sync (es : List Event) : (s.post es).sync = s.sync := rfl
@[simp] theorem State.post_drift (es : List Event) : (s.post es).drift = s.drift := rfl
@[simp] theorem State.post_fenced (es : List Event) : (s.post es).fenced = s.fenced := rfl
@[simp] theorem State.post_stacksOut (es : List Event) : (s.post es).stacksOut = s.stacksOut := rfl
@[simp] theorem State.post_measM (es : List Event) : (s.post es).measM = s.measM := rfl
@[simp] theorem State.post_measured (es : List Event) : (s.post es).measured = s.measured := rfl
@[simp] theorem State.post_credit (es : List Event) : (s.post es).credit = s.credit := rfl
@[simp] theorem State.post_answer (es : List Event) : (s.post es).answer = s.answer := rfl
@[simp] theorem State.post_mgmt (es : List Event) : (s.post es).mgmt = s.mgmt := rfl
@[simp] theorem State.post_turn (es : List Event) : (s.post es).turn = s.turn := rfl
@[simp] theorem State.post_cur (es : List Event) : (s.post es).cur = s.cur := rfl
@[simp] theorem State.post_elem (es : List Event) : (s.post es).elem = s.elem := rfl
@[simp] theorem State.post_later (es : List Event) : (s.post es).later = s.later := rfl
@[simp] theorem State.post_tick (es : List Event) : (s.post es).tick = s.tick := rfl
@[simp] theorem State.post_nextId (es : List Event) : (s.post es).nextId = s.nextId := rfl
@[simp] theorem State.post_freeCtr (es : List Event) : (s.post es).freeCtr = s.freeCtr := rfl

/-! `State.postAt` writes `later` alone. -/
@[simp] theorem State.postAt_threads (dt : Nat) (e : Event) : (s.postAt dt e).threads = s.threads := rfl
@[simp] theorem State.postAt_cores (dt : Nat) (e : Event) : (s.postAt dt e).cores = s.cores := rfl
@[simp] theorem State.postAt_dies (dt : Nat) (e : Event) : (s.postAt dt e).dies = s.dies := rfl
@[simp] theorem State.postAt_parts (dt : Nat) (e : Event) : (s.postAt dt e).parts = s.parts := rfl
@[simp] theorem State.postAt_regions (dt : Nat) (e : Event) : (s.postAt dt e).regions = s.regions := rfl
@[simp] theorem State.postAt_mem (dt : Nat) (e : Event) : (s.postAt dt e).mem = s.mem := rfl
@[simp] theorem State.postAt_poison (dt : Nat) (e : Event) : (s.postAt dt e).poison = s.poison := rfl
@[simp] theorem State.postAt_flight (dt : Nat) (e : Event) : (s.postAt dt e).flight = s.flight := rfl
@[simp] theorem State.postAt_homes (dt : Nat) (e : Event) : (s.postAt dt e).homes = s.homes := rfl
@[simp] theorem State.postAt_l2 (dt : Nat) (e : Event) : (s.postAt dt e).l2 = s.l2 := rfl
@[simp] theorem State.postAt_rimTlb (dt : Nat) (e : Event) : (s.postAt dt e).rimTlb = s.rimTlb := rfl
@[simp] theorem State.postAt_rimWalks (dt : Nat) (e : Event) : (s.postAt dt e).rimWalks = s.rimWalks := rfl
@[simp] theorem State.postAt_rimLast (dt : Nat) (e : Event) : (s.postAt dt e).rimLast = s.rimLast := rfl
@[simp] theorem State.postAt_links (dt : Nat) (e : Event) : (s.postAt dt e).links = s.links := rfl
@[simp] theorem State.postAt_couplers (dt : Nat) (e : Event) : (s.postAt dt e).couplers = s.couplers := rfl
@[simp] theorem State.postAt_boot (dt : Nat) (e : Event) : (s.postAt dt e).boot = s.boot := rfl
@[simp] theorem State.postAt_power (dt : Nat) (e : Event) : (s.postAt dt e).power = s.power := rfl
@[simp] theorem State.postAt_drays (dt : Nat) (e : Event) : (s.postAt dt e).drays = s.drays := rfl
@[simp] theorem State.postAt_guard (dt : Nat) (e : Event) : (s.postAt dt e).guard = s.guard := rfl
@[simp] theorem State.postAt_master (dt : Nat) (e : Event) : (s.postAt dt e).master = s.master := rfl
@[simp] theorem State.postAt_module (dt : Nat) (e : Event) : (s.postAt dt e).module = s.module := rfl
@[simp] theorem State.postAt_sync (dt : Nat) (e : Event) : (s.postAt dt e).sync = s.sync := rfl
@[simp] theorem State.postAt_drift (dt : Nat) (e : Event) : (s.postAt dt e).drift = s.drift := rfl
@[simp] theorem State.postAt_fenced (dt : Nat) (e : Event) : (s.postAt dt e).fenced = s.fenced := rfl
@[simp] theorem State.postAt_stacksOut (dt : Nat) (e : Event) : (s.postAt dt e).stacksOut = s.stacksOut := rfl
@[simp] theorem State.postAt_measM (dt : Nat) (e : Event) : (s.postAt dt e).measM = s.measM := rfl
@[simp] theorem State.postAt_measured (dt : Nat) (e : Event) : (s.postAt dt e).measured = s.measured := rfl
@[simp] theorem State.postAt_credit (dt : Nat) (e : Event) : (s.postAt dt e).credit = s.credit := rfl
@[simp] theorem State.postAt_answer (dt : Nat) (e : Event) : (s.postAt dt e).answer = s.answer := rfl
@[simp] theorem State.postAt_mgmt (dt : Nat) (e : Event) : (s.postAt dt e).mgmt = s.mgmt := rfl
@[simp] theorem State.postAt_turn (dt : Nat) (e : Event) : (s.postAt dt e).turn = s.turn := rfl
@[simp] theorem State.postAt_cur (dt : Nat) (e : Event) : (s.postAt dt e).cur = s.cur := rfl
@[simp] theorem State.postAt_elem (dt : Nat) (e : Event) : (s.postAt dt e).elem = s.elem := rfl
@[simp] theorem State.postAt_agenda (dt : Nat) (e : Event) : (s.postAt dt e).agenda = s.agenda := rfl
@[simp] theorem State.postAt_tick (dt : Nat) (e : Event) : (s.postAt dt e).tick = s.tick := rfl
@[simp] theorem State.postAt_nextId (dt : Nat) (e : Event) : (s.postAt dt e).nextId = s.nextId := rfl
@[simp] theorem State.postAt_freeCtr (dt : Nat) (e : Event) : (s.postAt dt e).freeCtr = s.freeCtr := rfl

/-! Drawing a free value moves the counter alone. -/
@[simp] theorem State.fresh_threads : s.fresh.2.threads = s.threads := rfl
@[simp] theorem State.fresh_cores : s.fresh.2.cores = s.cores := rfl
@[simp] theorem State.fresh_dies : s.fresh.2.dies = s.dies := rfl
@[simp] theorem State.fresh_parts : s.fresh.2.parts = s.parts := rfl
@[simp] theorem State.fresh_regions : s.fresh.2.regions = s.regions := rfl
@[simp] theorem State.fresh_mem : s.fresh.2.mem = s.mem := rfl
@[simp] theorem State.fresh_poison : s.fresh.2.poison = s.poison := rfl
@[simp] theorem State.fresh_flight : s.fresh.2.flight = s.flight := rfl
@[simp] theorem State.fresh_homes : s.fresh.2.homes = s.homes := rfl
@[simp] theorem State.fresh_l2 : s.fresh.2.l2 = s.l2 := rfl
@[simp] theorem State.fresh_rimTlb : s.fresh.2.rimTlb = s.rimTlb := rfl
@[simp] theorem State.fresh_rimWalks : s.fresh.2.rimWalks = s.rimWalks := rfl
@[simp] theorem State.fresh_rimLast : s.fresh.2.rimLast = s.rimLast := rfl
@[simp] theorem State.fresh_links : s.fresh.2.links = s.links := rfl
@[simp] theorem State.fresh_couplers : s.fresh.2.couplers = s.couplers := rfl
@[simp] theorem State.fresh_boot : s.fresh.2.boot = s.boot := rfl
@[simp] theorem State.fresh_power : s.fresh.2.power = s.power := rfl
@[simp] theorem State.fresh_drays : s.fresh.2.drays = s.drays := rfl
@[simp] theorem State.fresh_guard : s.fresh.2.guard = s.guard := rfl
@[simp] theorem State.fresh_master : s.fresh.2.master = s.master := rfl
@[simp] theorem State.fresh_module : s.fresh.2.module = s.module := rfl
@[simp] theorem State.fresh_sync : s.fresh.2.sync = s.sync := rfl
@[simp] theorem State.fresh_drift : s.fresh.2.drift = s.drift := rfl
@[simp] theorem State.fresh_fenced : s.fresh.2.fenced = s.fenced := rfl
@[simp] theorem State.fresh_stacksOut : s.fresh.2.stacksOut = s.stacksOut := rfl
@[simp] theorem State.fresh_measM : s.fresh.2.measM = s.measM := rfl
@[simp] theorem State.fresh_measured : s.fresh.2.measured = s.measured := rfl
@[simp] theorem State.fresh_credit : s.fresh.2.credit = s.credit := rfl
@[simp] theorem State.fresh_answer : s.fresh.2.answer = s.answer := rfl
@[simp] theorem State.fresh_mgmt : s.fresh.2.mgmt = s.mgmt := rfl
@[simp] theorem State.fresh_turn : s.fresh.2.turn = s.turn := rfl
@[simp] theorem State.fresh_cur : s.fresh.2.cur = s.cur := rfl
@[simp] theorem State.fresh_elem : s.fresh.2.elem = s.elem := rfl
@[simp] theorem State.fresh_agenda : s.fresh.2.agenda = s.agenda := rfl
@[simp] theorem State.fresh_later : s.fresh.2.later = s.later := rfl
@[simp] theorem State.fresh_tick : s.fresh.2.tick = s.tick := rfl
@[simp] theorem State.fresh_nextId : s.fresh.2.nextId = s.nextId := rfl

/-! A region that is absent is not written. -/
@[simp] theorem State.onRegion_threads (k : Nat) (f : Region → Region) : (s.onRegion k f).threads = s.threads := by unfold State.onRegion; split <;> rfl
@[simp] theorem State.onRegion_cores (k : Nat) (f : Region → Region) : (s.onRegion k f).cores = s.cores := by unfold State.onRegion; split <;> rfl
@[simp] theorem State.onRegion_dies (k : Nat) (f : Region → Region) : (s.onRegion k f).dies = s.dies := by unfold State.onRegion; split <;> rfl
@[simp] theorem State.onRegion_parts (k : Nat) (f : Region → Region) : (s.onRegion k f).parts = s.parts := by unfold State.onRegion; split <;> rfl
@[simp] theorem State.onRegion_mem (k : Nat) (f : Region → Region) : (s.onRegion k f).mem = s.mem := by unfold State.onRegion; split <;> rfl
@[simp] theorem State.onRegion_poison (k : Nat) (f : Region → Region) : (s.onRegion k f).poison = s.poison := by unfold State.onRegion; split <;> rfl
@[simp] theorem State.onRegion_flight (k : Nat) (f : Region → Region) : (s.onRegion k f).flight = s.flight := by unfold State.onRegion; split <;> rfl
@[simp] theorem State.onRegion_homes (k : Nat) (f : Region → Region) : (s.onRegion k f).homes = s.homes := by unfold State.onRegion; split <;> rfl
@[simp] theorem State.onRegion_l2 (k : Nat) (f : Region → Region) : (s.onRegion k f).l2 = s.l2 := by unfold State.onRegion; split <;> rfl
@[simp] theorem State.onRegion_rimTlb (k : Nat) (f : Region → Region) : (s.onRegion k f).rimTlb = s.rimTlb := by unfold State.onRegion; split <;> rfl
@[simp] theorem State.onRegion_rimWalks (k : Nat) (f : Region → Region) : (s.onRegion k f).rimWalks = s.rimWalks := by unfold State.onRegion; split <;> rfl
@[simp] theorem State.onRegion_rimLast (k : Nat) (f : Region → Region) : (s.onRegion k f).rimLast = s.rimLast := by unfold State.onRegion; split <;> rfl
@[simp] theorem State.onRegion_links (k : Nat) (f : Region → Region) : (s.onRegion k f).links = s.links := by unfold State.onRegion; split <;> rfl
@[simp] theorem State.onRegion_couplers (k : Nat) (f : Region → Region) : (s.onRegion k f).couplers = s.couplers := by unfold State.onRegion; split <;> rfl
@[simp] theorem State.onRegion_boot (k : Nat) (f : Region → Region) : (s.onRegion k f).boot = s.boot := by unfold State.onRegion; split <;> rfl
@[simp] theorem State.onRegion_power (k : Nat) (f : Region → Region) : (s.onRegion k f).power = s.power := by unfold State.onRegion; split <;> rfl
@[simp] theorem State.onRegion_drays (k : Nat) (f : Region → Region) : (s.onRegion k f).drays = s.drays := by unfold State.onRegion; split <;> rfl
@[simp] theorem State.onRegion_guard (k : Nat) (f : Region → Region) : (s.onRegion k f).guard = s.guard := by unfold State.onRegion; split <;> rfl
@[simp] theorem State.onRegion_master (k : Nat) (f : Region → Region) : (s.onRegion k f).master = s.master := by unfold State.onRegion; split <;> rfl
@[simp] theorem State.onRegion_module (k : Nat) (f : Region → Region) : (s.onRegion k f).module = s.module := by unfold State.onRegion; split <;> rfl
@[simp] theorem State.onRegion_sync (k : Nat) (f : Region → Region) : (s.onRegion k f).sync = s.sync := by unfold State.onRegion; split <;> rfl
@[simp] theorem State.onRegion_drift (k : Nat) (f : Region → Region) : (s.onRegion k f).drift = s.drift := by unfold State.onRegion; split <;> rfl
@[simp] theorem State.onRegion_fenced (k : Nat) (f : Region → Region) : (s.onRegion k f).fenced = s.fenced := by unfold State.onRegion; split <;> rfl
@[simp] theorem State.onRegion_stacksOut (k : Nat) (f : Region → Region) : (s.onRegion k f).stacksOut = s.stacksOut := by unfold State.onRegion; split <;> rfl
@[simp] theorem State.onRegion_measM (k : Nat) (f : Region → Region) : (s.onRegion k f).measM = s.measM := by unfold State.onRegion; split <;> rfl
@[simp] theorem State.onRegion_measured (k : Nat) (f : Region → Region) : (s.onRegion k f).measured = s.measured := by unfold State.onRegion; split <;> rfl
@[simp] theorem State.onRegion_credit (k : Nat) (f : Region → Region) : (s.onRegion k f).credit = s.credit := by unfold State.onRegion; split <;> rfl
@[simp] theorem State.onRegion_answer (k : Nat) (f : Region → Region) : (s.onRegion k f).answer = s.answer := by unfold State.onRegion; split <;> rfl
@[simp] theorem State.onRegion_mgmt (k : Nat) (f : Region → Region) : (s.onRegion k f).mgmt = s.mgmt := by unfold State.onRegion; split <;> rfl
@[simp] theorem State.onRegion_turn (k : Nat) (f : Region → Region) : (s.onRegion k f).turn = s.turn := by unfold State.onRegion; split <;> rfl
@[simp] theorem State.onRegion_cur (k : Nat) (f : Region → Region) : (s.onRegion k f).cur = s.cur := by unfold State.onRegion; split <;> rfl
@[simp] theorem State.onRegion_elem (k : Nat) (f : Region → Region) : (s.onRegion k f).elem = s.elem := by unfold State.onRegion; split <;> rfl
@[simp] theorem State.onRegion_agenda (k : Nat) (f : Region → Region) : (s.onRegion k f).agenda = s.agenda := by unfold State.onRegion; split <;> rfl
@[simp] theorem State.onRegion_later (k : Nat) (f : Region → Region) : (s.onRegion k f).later = s.later := by unfold State.onRegion; split <;> rfl
@[simp] theorem State.onRegion_tick (k : Nat) (f : Region → Region) : (s.onRegion k f).tick = s.tick := by unfold State.onRegion; split <;> rfl
@[simp] theorem State.onRegion_nextId (k : Nat) (f : Region → Region) : (s.onRegion k f).nextId = s.nextId := by unfold State.onRegion; split <;> rfl
@[simp] theorem State.onRegion_freeCtr (k : Nat) (f : Region → Region) : (s.onRegion k f).freeCtr = s.freeCtr := by unfold State.onRegion; split <;> rfl

end StateUpdates

section ThreadUpdates
variable (th : Thread)

/-! `Thread.setX`. -/
@[simp] theorem Thread.setX_st (r : Fin 32) (v : Word) : (th.setX r v).st = th.st := by unfold Thread.setX; split <;> rfl
@[simp] theorem Thread.setX_a (r : Fin 32) (v : Word) : (th.setX r v).a = th.a := by unfold Thread.setX; split <;> rfl
@[simp] theorem Thread.setX_v (r : Fin 32) (v : Word) : (th.setX r v).v = th.v := by unfold Thread.setX; split <;> rfl
@[simp] theorem Thread.setX_m (r : Fin 32) (v : Word) : (th.setX r v).m = th.m := by unfold Thread.setX; split <;> rfl
@[simp] theorem Thread.setX_pc (r : Fin 32) (v : Word) : (th.setX r v).pc = th.pc := by unfold Thread.setX; split <;> rfl
@[simp] theorem Thread.setX_cur (r : Fin 32) (v : Word) : (th.setX r v).cur = th.cur := by unfold Thread.setX; split <;> rfl
@[simp] theorem Thread.setX_prev (r : Fin 32) (v : Word) : (th.setX r v).prev = th.prev := by unfold Thread.setX; split <;> rfl
@[simp] theorem Thread.setX_hold (r : Fin 32) (v : Word) : (th.setX r v).hold = th.hold := by unfold Thread.setX; split <;> rfl
@[simp] theorem Thread.setX_phold (r : Fin 32) (v : Word) : (th.setX r v).phold = th.phold := by unfold Thread.setX; split <;> rfl
@[simp] theorem Thread.setX_epc (r : Fin 32) (v : Word) : (th.setX r v).epc = th.epc := by unfold Thread.setX; split <;> rfl
@[simp] theorem Thread.setX_tval (r : Fin 32) (v : Word) : (th.setX r v).tval = th.tval := by unfold Thread.setX; split <;> rfl
@[simp] theorem Thread.setX_asy (r : Fin 32) (v : Word) : (th.setX r v).asy = th.asy := by unfold Thread.setX; split <;> rfl
@[simp] theorem Thread.setX_code (r : Fin 32) (v : Word) : (th.setX r v).code = th.code := by unfold Thread.setX; split <;> rfl
@[simp] theorem Thread.setX_en (r : Fin 32) (v : Word) : (th.setX r v).en = th.en := by unfold Thread.setX; split <;> rfl
@[simp] theorem Thread.setX_flags (r : Fin 32) (v : Word) : (th.setX r v).flags = th.flags := by unfold Thread.setX; split <;> rfl
@[simp] theorem Thread.setX_frm (r : Fin 32) (v : Word) : (th.setX r v).frm = th.frm := by unfold Thread.setX; split <;> rfl
@[simp] theorem Thread.setX_gen (r : Fin 32) (v : Word) : (th.setX r v).gen = th.gen := by unfold Thread.setX; split <;> rfl
@[simp] theorem Thread.setX_rwait (r : Fin 32) (v : Word) : (th.setX r v).rwait = th.rwait := by unfold Thread.setX; split <;> rfl
@[simp] theorem Thread.setX_qwatch (r : Fin 32) (v : Word) : (th.setX r v).qwatch = th.qwatch := by unfold Thread.setX; split <;> rfl
@[simp] theorem Thread.setX_cap (r : Fin 32) (v : Word) : (th.setX r v).cap = th.cap := by unfold Thread.setX; split <;> rfl
@[simp] theorem Thread.setX_prio (r : Fin 32) (v : Word) : (th.setX r v).prio = th.prio := by unfold Thread.setX; split <;> rfl
@[simp] theorem Thread.setX_dclk (r : Fin 32) (v : Word) : (th.setX r v).dclk = th.dclk := by unfold Thread.setX; split <;> rfl
@[simp] theorem Thread.setX_ev (r : Fin 32) (v : Word) : (th.setX r v).ev = th.ev := by unfold Thread.setX; split <;> rfl
@[simp] theorem Thread.setX_passed (r : Fin 32) (v : Word) : (th.setX r v).passed = th.passed := by unfold Thread.setX; split <;> rfl
@[simp] theorem Thread.setX_pend (r : Fin 32) (v : Word) : (th.setX r v).pend = th.pend := by unfold Thread.setX; split <;> rfl
@[simp] theorem Thread.setX_path (r : Fin 32) (v : Word) : (th.setX r v).path = th.path := by unfold Thread.setX; split <;> rfl
@[simp] theorem Thread.setX_wait (r : Fin 32) (v : Word) : (th.setX r v).wait = th.wait := by unfold Thread.setX; split <;> rfl
@[simp] theorem Thread.setX_ahead (r : Fin 32) (v : Word) : (th.setX r v).ahead = th.ahead := by unfold Thread.setX; split <;> rfl
@[simp] theorem Thread.setX_left (r : Fin 32) (v : Word) : (th.setX r v).left = th.left := by unfold Thread.setX; split <;> rfl
@[simp] theorem Thread.setX_relBar (r : Fin 32) (v : Word) : (th.setX r v).relBar = th.relBar := by unfold Thread.setX; split <;> rfl
@[simp] theorem Thread.setX_acqBar (r : Fin 32) (v : Word) : (th.setX r v).acqBar = th.acqBar := by unfold Thread.setX; split <;> rfl
@[simp] theorem Thread.setX_seen (r : Fin 32) (v : Word) : (th.setX r v).seen = th.seen := by unfold Thread.setX; split <;> rfl
@[simp] theorem Thread.setX_qs (r : Fin 32) (v : Word) : (th.setX r v).qs = th.qs := by unfold Thread.setX; split <;> rfl
@[simp] theorem Thread.setX_bq (r : Fin 32) (v : Word) : (th.setX r v).bq = th.bq := by unfold Thread.setX; split <;> rfl
@[simp] theorem Thread.setX_ss (r : Fin 32) (v : Word) : (th.setX r v).ss = th.ss := by unfold Thread.setX; split <;> rfl
@[simp] theorem Thread.setX_pools (r : Fin 32) (v : Word) : (th.setX r v).pools = th.pools := by unfold Thread.setX; split <;> rfl
@[simp] theorem Thread.setX_copies (r : Fin 32) (v : Word) : (th.setX r v).copies = th.copies := by unfold Thread.setX; split <;> rfl
@[simp] theorem Thread.setX_claims (r : Fin 32) (v : Word) : (th.setX r v).claims = th.claims := by unfold Thread.setX; split <;> rfl
@[simp] theorem Thread.setX_reply (r : Fin 32) (v : Word) : (th.setX r v).reply = th.reply := by unfold Thread.setX; split <;> rfl
@[simp] theorem Thread.setX_walked (r : Fin 32) (v : Word) : (th.setX r v).walked = th.walked := by unfold Thread.setX; split <;> rfl

/-! `Thread.setA`. -/
@[simp] theorem Thread.setA_st (r : Fin 16) (v : Addr) : (th.setA r v).st = th.st := rfl
@[simp] theorem Thread.setA_x (r : Fin 16) (v : Addr) : (th.setA r v).x = th.x := rfl
@[simp] theorem Thread.setA_v (r : Fin 16) (v : Addr) : (th.setA r v).v = th.v := rfl
@[simp] theorem Thread.setA_m (r : Fin 16) (v : Addr) : (th.setA r v).m = th.m := rfl
@[simp] theorem Thread.setA_pc (r : Fin 16) (v : Addr) : (th.setA r v).pc = th.pc := rfl
@[simp] theorem Thread.setA_cur (r : Fin 16) (v : Addr) : (th.setA r v).cur = th.cur := rfl
@[simp] theorem Thread.setA_prev (r : Fin 16) (v : Addr) : (th.setA r v).prev = th.prev := rfl
@[simp] theorem Thread.setA_hold (r : Fin 16) (v : Addr) : (th.setA r v).hold = th.hold := rfl
@[simp] theorem Thread.setA_phold (r : Fin 16) (v : Addr) : (th.setA r v).phold = th.phold := rfl
@[simp] theorem Thread.setA_epc (r : Fin 16) (v : Addr) : (th.setA r v).epc = th.epc := rfl
@[simp] theorem Thread.setA_tval (r : Fin 16) (v : Addr) : (th.setA r v).tval = th.tval := rfl
@[simp] theorem Thread.setA_asy (r : Fin 16) (v : Addr) : (th.setA r v).asy = th.asy := rfl
@[simp] theorem Thread.setA_code (r : Fin 16) (v : Addr) : (th.setA r v).code = th.code := rfl
@[simp] theorem Thread.setA_en (r : Fin 16) (v : Addr) : (th.setA r v).en = th.en := rfl
@[simp] theorem Thread.setA_flags (r : Fin 16) (v : Addr) : (th.setA r v).flags = th.flags := rfl
@[simp] theorem Thread.setA_frm (r : Fin 16) (v : Addr) : (th.setA r v).frm = th.frm := rfl
@[simp] theorem Thread.setA_gen (r : Fin 16) (v : Addr) : (th.setA r v).gen = th.gen := rfl
@[simp] theorem Thread.setA_rwait (r : Fin 16) (v : Addr) : (th.setA r v).rwait = th.rwait := rfl
@[simp] theorem Thread.setA_qwatch (r : Fin 16) (v : Addr) : (th.setA r v).qwatch = th.qwatch := rfl
@[simp] theorem Thread.setA_cap (r : Fin 16) (v : Addr) : (th.setA r v).cap = th.cap := rfl
@[simp] theorem Thread.setA_prio (r : Fin 16) (v : Addr) : (th.setA r v).prio = th.prio := rfl
@[simp] theorem Thread.setA_dclk (r : Fin 16) (v : Addr) : (th.setA r v).dclk = th.dclk := rfl
@[simp] theorem Thread.setA_ev (r : Fin 16) (v : Addr) : (th.setA r v).ev = th.ev := rfl
@[simp] theorem Thread.setA_passed (r : Fin 16) (v : Addr) : (th.setA r v).passed = th.passed := rfl
@[simp] theorem Thread.setA_pend (r : Fin 16) (v : Addr) : (th.setA r v).pend = th.pend := rfl
@[simp] theorem Thread.setA_path (r : Fin 16) (v : Addr) : (th.setA r v).path = th.path := rfl
@[simp] theorem Thread.setA_wait (r : Fin 16) (v : Addr) : (th.setA r v).wait = th.wait := rfl
@[simp] theorem Thread.setA_ahead (r : Fin 16) (v : Addr) : (th.setA r v).ahead = th.ahead := rfl
@[simp] theorem Thread.setA_left (r : Fin 16) (v : Addr) : (th.setA r v).left = th.left := rfl
@[simp] theorem Thread.setA_relBar (r : Fin 16) (v : Addr) : (th.setA r v).relBar = th.relBar := rfl
@[simp] theorem Thread.setA_acqBar (r : Fin 16) (v : Addr) : (th.setA r v).acqBar = th.acqBar := rfl
@[simp] theorem Thread.setA_seen (r : Fin 16) (v : Addr) : (th.setA r v).seen = th.seen := rfl
@[simp] theorem Thread.setA_qs (r : Fin 16) (v : Addr) : (th.setA r v).qs = th.qs := rfl
@[simp] theorem Thread.setA_bq (r : Fin 16) (v : Addr) : (th.setA r v).bq = th.bq := rfl
@[simp] theorem Thread.setA_ss (r : Fin 16) (v : Addr) : (th.setA r v).ss = th.ss := rfl
@[simp] theorem Thread.setA_pools (r : Fin 16) (v : Addr) : (th.setA r v).pools = th.pools := rfl
@[simp] theorem Thread.setA_copies (r : Fin 16) (v : Addr) : (th.setA r v).copies = th.copies := rfl
@[simp] theorem Thread.setA_claims (r : Fin 16) (v : Addr) : (th.setA r v).claims = th.claims := rfl
@[simp] theorem Thread.setA_reply (r : Fin 16) (v : Addr) : (th.setA r v).reply = th.reply := rfl
@[simp] theorem Thread.setA_walked (r : Fin 16) (v : Addr) : (th.setA r v).walked = th.walked := rfl

/-! `Thread.setV`. -/
@[simp] theorem Thread.setV_st (r : Fin 16) (v : Vector Word 8) : (th.setV r v).st = th.st := rfl
@[simp] theorem Thread.setV_x (r : Fin 16) (v : Vector Word 8) : (th.setV r v).x = th.x := rfl
@[simp] theorem Thread.setV_a (r : Fin 16) (v : Vector Word 8) : (th.setV r v).a = th.a := rfl
@[simp] theorem Thread.setV_m (r : Fin 16) (v : Vector Word 8) : (th.setV r v).m = th.m := rfl
@[simp] theorem Thread.setV_pc (r : Fin 16) (v : Vector Word 8) : (th.setV r v).pc = th.pc := rfl
@[simp] theorem Thread.setV_cur (r : Fin 16) (v : Vector Word 8) : (th.setV r v).cur = th.cur := rfl
@[simp] theorem Thread.setV_prev (r : Fin 16) (v : Vector Word 8) : (th.setV r v).prev = th.prev := rfl
@[simp] theorem Thread.setV_hold (r : Fin 16) (v : Vector Word 8) : (th.setV r v).hold = th.hold := rfl
@[simp] theorem Thread.setV_phold (r : Fin 16) (v : Vector Word 8) : (th.setV r v).phold = th.phold := rfl
@[simp] theorem Thread.setV_epc (r : Fin 16) (v : Vector Word 8) : (th.setV r v).epc = th.epc := rfl
@[simp] theorem Thread.setV_tval (r : Fin 16) (v : Vector Word 8) : (th.setV r v).tval = th.tval := rfl
@[simp] theorem Thread.setV_asy (r : Fin 16) (v : Vector Word 8) : (th.setV r v).asy = th.asy := rfl
@[simp] theorem Thread.setV_code (r : Fin 16) (v : Vector Word 8) : (th.setV r v).code = th.code := rfl
@[simp] theorem Thread.setV_en (r : Fin 16) (v : Vector Word 8) : (th.setV r v).en = th.en := rfl
@[simp] theorem Thread.setV_flags (r : Fin 16) (v : Vector Word 8) : (th.setV r v).flags = th.flags := rfl
@[simp] theorem Thread.setV_frm (r : Fin 16) (v : Vector Word 8) : (th.setV r v).frm = th.frm := rfl
@[simp] theorem Thread.setV_gen (r : Fin 16) (v : Vector Word 8) : (th.setV r v).gen = th.gen := rfl
@[simp] theorem Thread.setV_rwait (r : Fin 16) (v : Vector Word 8) : (th.setV r v).rwait = th.rwait := rfl
@[simp] theorem Thread.setV_qwatch (r : Fin 16) (v : Vector Word 8) : (th.setV r v).qwatch = th.qwatch := rfl
@[simp] theorem Thread.setV_cap (r : Fin 16) (v : Vector Word 8) : (th.setV r v).cap = th.cap := rfl
@[simp] theorem Thread.setV_prio (r : Fin 16) (v : Vector Word 8) : (th.setV r v).prio = th.prio := rfl
@[simp] theorem Thread.setV_dclk (r : Fin 16) (v : Vector Word 8) : (th.setV r v).dclk = th.dclk := rfl
@[simp] theorem Thread.setV_ev (r : Fin 16) (v : Vector Word 8) : (th.setV r v).ev = th.ev := rfl
@[simp] theorem Thread.setV_passed (r : Fin 16) (v : Vector Word 8) : (th.setV r v).passed = th.passed := rfl
@[simp] theorem Thread.setV_pend (r : Fin 16) (v : Vector Word 8) : (th.setV r v).pend = th.pend := rfl
@[simp] theorem Thread.setV_path (r : Fin 16) (v : Vector Word 8) : (th.setV r v).path = th.path := rfl
@[simp] theorem Thread.setV_wait (r : Fin 16) (v : Vector Word 8) : (th.setV r v).wait = th.wait := rfl
@[simp] theorem Thread.setV_ahead (r : Fin 16) (v : Vector Word 8) : (th.setV r v).ahead = th.ahead := rfl
@[simp] theorem Thread.setV_left (r : Fin 16) (v : Vector Word 8) : (th.setV r v).left = th.left := rfl
@[simp] theorem Thread.setV_relBar (r : Fin 16) (v : Vector Word 8) : (th.setV r v).relBar = th.relBar := rfl
@[simp] theorem Thread.setV_acqBar (r : Fin 16) (v : Vector Word 8) : (th.setV r v).acqBar = th.acqBar := rfl
@[simp] theorem Thread.setV_seen (r : Fin 16) (v : Vector Word 8) : (th.setV r v).seen = th.seen := rfl
@[simp] theorem Thread.setV_qs (r : Fin 16) (v : Vector Word 8) : (th.setV r v).qs = th.qs := rfl
@[simp] theorem Thread.setV_bq (r : Fin 16) (v : Vector Word 8) : (th.setV r v).bq = th.bq := rfl
@[simp] theorem Thread.setV_ss (r : Fin 16) (v : Vector Word 8) : (th.setV r v).ss = th.ss := rfl
@[simp] theorem Thread.setV_pools (r : Fin 16) (v : Vector Word 8) : (th.setV r v).pools = th.pools := rfl
@[simp] theorem Thread.setV_copies (r : Fin 16) (v : Vector Word 8) : (th.setV r v).copies = th.copies := rfl
@[simp] theorem Thread.setV_claims (r : Fin 16) (v : Vector Word 8) : (th.setV r v).claims = th.claims := rfl
@[simp] theorem Thread.setV_reply (r : Fin 16) (v : Vector Word 8) : (th.setV r v).reply = th.reply := rfl
@[simp] theorem Thread.setV_walked (r : Fin 16) (v : Vector Word 8) : (th.setV r v).walked = th.walked := rfl

/-! `Thread.setM`. -/
@[simp] theorem Thread.setM_st (r : Fin 8) (v : BitVec 8) : (th.setM r v).st = th.st := rfl
@[simp] theorem Thread.setM_x (r : Fin 8) (v : BitVec 8) : (th.setM r v).x = th.x := rfl
@[simp] theorem Thread.setM_a (r : Fin 8) (v : BitVec 8) : (th.setM r v).a = th.a := rfl
@[simp] theorem Thread.setM_v (r : Fin 8) (v : BitVec 8) : (th.setM r v).v = th.v := rfl
@[simp] theorem Thread.setM_pc (r : Fin 8) (v : BitVec 8) : (th.setM r v).pc = th.pc := rfl
@[simp] theorem Thread.setM_cur (r : Fin 8) (v : BitVec 8) : (th.setM r v).cur = th.cur := rfl
@[simp] theorem Thread.setM_prev (r : Fin 8) (v : BitVec 8) : (th.setM r v).prev = th.prev := rfl
@[simp] theorem Thread.setM_hold (r : Fin 8) (v : BitVec 8) : (th.setM r v).hold = th.hold := rfl
@[simp] theorem Thread.setM_phold (r : Fin 8) (v : BitVec 8) : (th.setM r v).phold = th.phold := rfl
@[simp] theorem Thread.setM_epc (r : Fin 8) (v : BitVec 8) : (th.setM r v).epc = th.epc := rfl
@[simp] theorem Thread.setM_tval (r : Fin 8) (v : BitVec 8) : (th.setM r v).tval = th.tval := rfl
@[simp] theorem Thread.setM_asy (r : Fin 8) (v : BitVec 8) : (th.setM r v).asy = th.asy := rfl
@[simp] theorem Thread.setM_code (r : Fin 8) (v : BitVec 8) : (th.setM r v).code = th.code := rfl
@[simp] theorem Thread.setM_en (r : Fin 8) (v : BitVec 8) : (th.setM r v).en = th.en := rfl
@[simp] theorem Thread.setM_flags (r : Fin 8) (v : BitVec 8) : (th.setM r v).flags = th.flags := rfl
@[simp] theorem Thread.setM_frm (r : Fin 8) (v : BitVec 8) : (th.setM r v).frm = th.frm := rfl
@[simp] theorem Thread.setM_gen (r : Fin 8) (v : BitVec 8) : (th.setM r v).gen = th.gen := rfl
@[simp] theorem Thread.setM_rwait (r : Fin 8) (v : BitVec 8) : (th.setM r v).rwait = th.rwait := rfl
@[simp] theorem Thread.setM_qwatch (r : Fin 8) (v : BitVec 8) : (th.setM r v).qwatch = th.qwatch := rfl
@[simp] theorem Thread.setM_cap (r : Fin 8) (v : BitVec 8) : (th.setM r v).cap = th.cap := rfl
@[simp] theorem Thread.setM_prio (r : Fin 8) (v : BitVec 8) : (th.setM r v).prio = th.prio := rfl
@[simp] theorem Thread.setM_dclk (r : Fin 8) (v : BitVec 8) : (th.setM r v).dclk = th.dclk := rfl
@[simp] theorem Thread.setM_ev (r : Fin 8) (v : BitVec 8) : (th.setM r v).ev = th.ev := rfl
@[simp] theorem Thread.setM_passed (r : Fin 8) (v : BitVec 8) : (th.setM r v).passed = th.passed := rfl
@[simp] theorem Thread.setM_pend (r : Fin 8) (v : BitVec 8) : (th.setM r v).pend = th.pend := rfl
@[simp] theorem Thread.setM_path (r : Fin 8) (v : BitVec 8) : (th.setM r v).path = th.path := rfl
@[simp] theorem Thread.setM_wait (r : Fin 8) (v : BitVec 8) : (th.setM r v).wait = th.wait := rfl
@[simp] theorem Thread.setM_ahead (r : Fin 8) (v : BitVec 8) : (th.setM r v).ahead = th.ahead := rfl
@[simp] theorem Thread.setM_left (r : Fin 8) (v : BitVec 8) : (th.setM r v).left = th.left := rfl
@[simp] theorem Thread.setM_relBar (r : Fin 8) (v : BitVec 8) : (th.setM r v).relBar = th.relBar := rfl
@[simp] theorem Thread.setM_acqBar (r : Fin 8) (v : BitVec 8) : (th.setM r v).acqBar = th.acqBar := rfl
@[simp] theorem Thread.setM_seen (r : Fin 8) (v : BitVec 8) : (th.setM r v).seen = th.seen := rfl
@[simp] theorem Thread.setM_qs (r : Fin 8) (v : BitVec 8) : (th.setM r v).qs = th.qs := rfl
@[simp] theorem Thread.setM_bq (r : Fin 8) (v : BitVec 8) : (th.setM r v).bq = th.bq := rfl
@[simp] theorem Thread.setM_ss (r : Fin 8) (v : BitVec 8) : (th.setM r v).ss = th.ss := rfl
@[simp] theorem Thread.setM_pools (r : Fin 8) (v : BitVec 8) : (th.setM r v).pools = th.pools := rfl
@[simp] theorem Thread.setM_copies (r : Fin 8) (v : BitVec 8) : (th.setM r v).copies = th.copies := rfl
@[simp] theorem Thread.setM_claims (r : Fin 8) (v : BitVec 8) : (th.setM r v).claims = th.claims := rfl
@[simp] theorem Thread.setM_reply (r : Fin 8) (v : BitVec 8) : (th.setM r v).reply = th.reply := rfl
@[simp] theorem Thread.setM_walked (r : Fin 8) (v : BitVec 8) : (th.setM r v).walked = th.walked := rfl

/-! `Thread.goTo`. -/
@[simp] theorem Thread.goTo_st (pc : Addr) : (th.goTo pc).st = th.st := rfl
@[simp] theorem Thread.goTo_x (pc : Addr) : (th.goTo pc).x = th.x := rfl
@[simp] theorem Thread.goTo_a (pc : Addr) : (th.goTo pc).a = th.a := rfl
@[simp] theorem Thread.goTo_v (pc : Addr) : (th.goTo pc).v = th.v := rfl
@[simp] theorem Thread.goTo_m (pc : Addr) : (th.goTo pc).m = th.m := rfl
@[simp] theorem Thread.goTo_cur (pc : Addr) : (th.goTo pc).cur = th.cur := rfl
@[simp] theorem Thread.goTo_prev (pc : Addr) : (th.goTo pc).prev = th.prev := rfl
@[simp] theorem Thread.goTo_hold (pc : Addr) : (th.goTo pc).hold = th.hold := rfl
@[simp] theorem Thread.goTo_phold (pc : Addr) : (th.goTo pc).phold = th.phold := rfl
@[simp] theorem Thread.goTo_epc (pc : Addr) : (th.goTo pc).epc = th.epc := rfl
@[simp] theorem Thread.goTo_tval (pc : Addr) : (th.goTo pc).tval = th.tval := rfl
@[simp] theorem Thread.goTo_asy (pc : Addr) : (th.goTo pc).asy = th.asy := rfl
@[simp] theorem Thread.goTo_code (pc : Addr) : (th.goTo pc).code = th.code := rfl
@[simp] theorem Thread.goTo_en (pc : Addr) : (th.goTo pc).en = th.en := rfl
@[simp] theorem Thread.goTo_flags (pc : Addr) : (th.goTo pc).flags = th.flags := rfl
@[simp] theorem Thread.goTo_frm (pc : Addr) : (th.goTo pc).frm = th.frm := rfl
@[simp] theorem Thread.goTo_gen (pc : Addr) : (th.goTo pc).gen = th.gen := rfl
@[simp] theorem Thread.goTo_rwait (pc : Addr) : (th.goTo pc).rwait = th.rwait := rfl
@[simp] theorem Thread.goTo_qwatch (pc : Addr) : (th.goTo pc).qwatch = th.qwatch := rfl
@[simp] theorem Thread.goTo_cap (pc : Addr) : (th.goTo pc).cap = th.cap := rfl
@[simp] theorem Thread.goTo_prio (pc : Addr) : (th.goTo pc).prio = th.prio := rfl
@[simp] theorem Thread.goTo_dclk (pc : Addr) : (th.goTo pc).dclk = th.dclk := rfl
@[simp] theorem Thread.goTo_ev (pc : Addr) : (th.goTo pc).ev = th.ev := rfl
@[simp] theorem Thread.goTo_passed (pc : Addr) : (th.goTo pc).passed = th.passed := rfl
@[simp] theorem Thread.goTo_pend (pc : Addr) : (th.goTo pc).pend = th.pend := rfl
@[simp] theorem Thread.goTo_path (pc : Addr) : (th.goTo pc).path = th.path := rfl
@[simp] theorem Thread.goTo_ahead (pc : Addr) : (th.goTo pc).ahead = th.ahead := rfl
@[simp] theorem Thread.goTo_left (pc : Addr) : (th.goTo pc).left = th.left := rfl
@[simp] theorem Thread.goTo_relBar (pc : Addr) : (th.goTo pc).relBar = th.relBar := rfl
@[simp] theorem Thread.goTo_acqBar (pc : Addr) : (th.goTo pc).acqBar = th.acqBar := rfl
@[simp] theorem Thread.goTo_seen (pc : Addr) : (th.goTo pc).seen = th.seen := rfl
@[simp] theorem Thread.goTo_qs (pc : Addr) : (th.goTo pc).qs = th.qs := rfl
@[simp] theorem Thread.goTo_bq (pc : Addr) : (th.goTo pc).bq = th.bq := rfl
@[simp] theorem Thread.goTo_ss (pc : Addr) : (th.goTo pc).ss = th.ss := rfl
@[simp] theorem Thread.goTo_pools (pc : Addr) : (th.goTo pc).pools = th.pools := rfl
@[simp] theorem Thread.goTo_copies (pc : Addr) : (th.goTo pc).copies = th.copies := rfl
@[simp] theorem Thread.goTo_claims (pc : Addr) : (th.goTo pc).claims = th.claims := rfl

/-! `Thread.advance`. -/
@[simp] theorem Thread.advance_st : (th.advance).st = th.st := rfl
@[simp] theorem Thread.advance_x : (th.advance).x = th.x := rfl
@[simp] theorem Thread.advance_a : (th.advance).a = th.a := rfl
@[simp] theorem Thread.advance_v : (th.advance).v = th.v := rfl
@[simp] theorem Thread.advance_m : (th.advance).m = th.m := rfl
@[simp] theorem Thread.advance_cur : (th.advance).cur = th.cur := rfl
@[simp] theorem Thread.advance_prev : (th.advance).prev = th.prev := rfl
@[simp] theorem Thread.advance_hold : (th.advance).hold = th.hold := rfl
@[simp] theorem Thread.advance_phold : (th.advance).phold = th.phold := rfl
@[simp] theorem Thread.advance_epc : (th.advance).epc = th.epc := rfl
@[simp] theorem Thread.advance_tval : (th.advance).tval = th.tval := rfl
@[simp] theorem Thread.advance_asy : (th.advance).asy = th.asy := rfl
@[simp] theorem Thread.advance_code : (th.advance).code = th.code := rfl
@[simp] theorem Thread.advance_en : (th.advance).en = th.en := rfl
@[simp] theorem Thread.advance_flags : (th.advance).flags = th.flags := rfl
@[simp] theorem Thread.advance_frm : (th.advance).frm = th.frm := rfl
@[simp] theorem Thread.advance_gen : (th.advance).gen = th.gen := rfl
@[simp] theorem Thread.advance_rwait : (th.advance).rwait = th.rwait := rfl
@[simp] theorem Thread.advance_qwatch : (th.advance).qwatch = th.qwatch := rfl
@[simp] theorem Thread.advance_cap : (th.advance).cap = th.cap := rfl
@[simp] theorem Thread.advance_prio : (th.advance).prio = th.prio := rfl
@[simp] theorem Thread.advance_dclk : (th.advance).dclk = th.dclk := rfl
@[simp] theorem Thread.advance_ev : (th.advance).ev = th.ev := rfl
@[simp] theorem Thread.advance_passed : (th.advance).passed = th.passed := rfl
@[simp] theorem Thread.advance_pend : (th.advance).pend = th.pend := rfl
@[simp] theorem Thread.advance_path : (th.advance).path = th.path := rfl
@[simp] theorem Thread.advance_ahead : (th.advance).ahead = th.ahead := rfl
@[simp] theorem Thread.advance_left : (th.advance).left = th.left := rfl
@[simp] theorem Thread.advance_relBar : (th.advance).relBar = th.relBar := rfl
@[simp] theorem Thread.advance_acqBar : (th.advance).acqBar = th.acqBar := rfl
@[simp] theorem Thread.advance_seen : (th.advance).seen = th.seen := rfl
@[simp] theorem Thread.advance_qs : (th.advance).qs = th.qs := rfl
@[simp] theorem Thread.advance_bq : (th.advance).bq = th.bq := rfl
@[simp] theorem Thread.advance_ss : (th.advance).ss = th.ss := rfl
@[simp] theorem Thread.advance_pools : (th.advance).pools = th.pools := rfl
@[simp] theorem Thread.advance_copies : (th.advance).copies = th.copies := rfl
@[simp] theorem Thread.advance_claims : (th.advance).claims = th.claims := rfl

/-! `Thread.waitFor`. -/
@[simp] theorem Thread.waitFor_st (k : WaitKind) : (th.waitFor k).st = th.st := by unfold Thread.waitFor; split <;> (try split) <;> rfl
@[simp] theorem Thread.waitFor_x (k : WaitKind) : (th.waitFor k).x = th.x := by unfold Thread.waitFor; split <;> (try split) <;> rfl
@[simp] theorem Thread.waitFor_a (k : WaitKind) : (th.waitFor k).a = th.a := by unfold Thread.waitFor; split <;> (try split) <;> rfl
@[simp] theorem Thread.waitFor_v (k : WaitKind) : (th.waitFor k).v = th.v := by unfold Thread.waitFor; split <;> (try split) <;> rfl
@[simp] theorem Thread.waitFor_m (k : WaitKind) : (th.waitFor k).m = th.m := by unfold Thread.waitFor; split <;> (try split) <;> rfl
@[simp] theorem Thread.waitFor_pc (k : WaitKind) : (th.waitFor k).pc = th.pc := by unfold Thread.waitFor; split <;> (try split) <;> rfl
@[simp] theorem Thread.waitFor_cur (k : WaitKind) : (th.waitFor k).cur = th.cur := by unfold Thread.waitFor; split <;> (try split) <;> rfl
@[simp] theorem Thread.waitFor_prev (k : WaitKind) : (th.waitFor k).prev = th.prev := by unfold Thread.waitFor; split <;> (try split) <;> rfl
@[simp] theorem Thread.waitFor_hold (k : WaitKind) : (th.waitFor k).hold = th.hold := by unfold Thread.waitFor; split <;> (try split) <;> rfl
@[simp] theorem Thread.waitFor_phold (k : WaitKind) : (th.waitFor k).phold = th.phold := by unfold Thread.waitFor; split <;> (try split) <;> rfl
@[simp] theorem Thread.waitFor_epc (k : WaitKind) : (th.waitFor k).epc = th.epc := by unfold Thread.waitFor; split <;> (try split) <;> rfl
@[simp] theorem Thread.waitFor_tval (k : WaitKind) : (th.waitFor k).tval = th.tval := by unfold Thread.waitFor; split <;> (try split) <;> rfl
@[simp] theorem Thread.waitFor_asy (k : WaitKind) : (th.waitFor k).asy = th.asy := by unfold Thread.waitFor; split <;> (try split) <;> rfl
@[simp] theorem Thread.waitFor_code (k : WaitKind) : (th.waitFor k).code = th.code := by unfold Thread.waitFor; split <;> (try split) <;> rfl
@[simp] theorem Thread.waitFor_en (k : WaitKind) : (th.waitFor k).en = th.en := by unfold Thread.waitFor; split <;> (try split) <;> rfl
@[simp] theorem Thread.waitFor_flags (k : WaitKind) : (th.waitFor k).flags = th.flags := by unfold Thread.waitFor; split <;> (try split) <;> rfl
@[simp] theorem Thread.waitFor_frm (k : WaitKind) : (th.waitFor k).frm = th.frm := by unfold Thread.waitFor; split <;> (try split) <;> rfl
@[simp] theorem Thread.waitFor_gen (k : WaitKind) : (th.waitFor k).gen = th.gen := by unfold Thread.waitFor; split <;> (try split) <;> rfl
@[simp] theorem Thread.waitFor_rwait (k : WaitKind) : (th.waitFor k).rwait = th.rwait := by unfold Thread.waitFor; split <;> (try split) <;> rfl
@[simp] theorem Thread.waitFor_qwatch (k : WaitKind) : (th.waitFor k).qwatch = th.qwatch := by unfold Thread.waitFor; split <;> (try split) <;> rfl
@[simp] theorem Thread.waitFor_cap (k : WaitKind) : (th.waitFor k).cap = th.cap := by unfold Thread.waitFor; split <;> (try split) <;> rfl
@[simp] theorem Thread.waitFor_prio (k : WaitKind) : (th.waitFor k).prio = th.prio := by unfold Thread.waitFor; split <;> (try split) <;> rfl
@[simp] theorem Thread.waitFor_dclk (k : WaitKind) : (th.waitFor k).dclk = th.dclk := by unfold Thread.waitFor; split <;> (try split) <;> rfl
@[simp] theorem Thread.waitFor_ev (k : WaitKind) : (th.waitFor k).ev = th.ev := by unfold Thread.waitFor; split <;> (try split) <;> rfl
@[simp] theorem Thread.waitFor_passed (k : WaitKind) : (th.waitFor k).passed = th.passed := by unfold Thread.waitFor; split <;> (try split) <;> rfl
@[simp] theorem Thread.waitFor_pend (k : WaitKind) : (th.waitFor k).pend = th.pend := by unfold Thread.waitFor; split <;> (try split) <;> rfl
@[simp] theorem Thread.waitFor_path (k : WaitKind) : (th.waitFor k).path = th.path := by unfold Thread.waitFor; split <;> (try split) <;> rfl
@[simp] theorem Thread.waitFor_ahead (k : WaitKind) : (th.waitFor k).ahead = th.ahead := by unfold Thread.waitFor; split <;> (try split) <;> rfl
@[simp] theorem Thread.waitFor_left (k : WaitKind) : (th.waitFor k).left = th.left := by unfold Thread.waitFor; split <;> (try split) <;> rfl
@[simp] theorem Thread.waitFor_relBar (k : WaitKind) : (th.waitFor k).relBar = th.relBar := by unfold Thread.waitFor; split <;> (try split) <;> rfl
@[simp] theorem Thread.waitFor_acqBar (k : WaitKind) : (th.waitFor k).acqBar = th.acqBar := by unfold Thread.waitFor; split <;> (try split) <;> rfl
@[simp] theorem Thread.waitFor_seen (k : WaitKind) : (th.waitFor k).seen = th.seen := by unfold Thread.waitFor; split <;> (try split) <;> rfl
@[simp] theorem Thread.waitFor_qs (k : WaitKind) : (th.waitFor k).qs = th.qs := by unfold Thread.waitFor; split <;> (try split) <;> rfl
@[simp] theorem Thread.waitFor_bq (k : WaitKind) : (th.waitFor k).bq = th.bq := by unfold Thread.waitFor; split <;> (try split) <;> rfl
@[simp] theorem Thread.waitFor_ss (k : WaitKind) : (th.waitFor k).ss = th.ss := by unfold Thread.waitFor; split <;> (try split) <;> rfl
@[simp] theorem Thread.waitFor_pools (k : WaitKind) : (th.waitFor k).pools = th.pools := by unfold Thread.waitFor; split <;> (try split) <;> rfl
@[simp] theorem Thread.waitFor_copies (k : WaitKind) : (th.waitFor k).copies = th.copies := by unfold Thread.waitFor; split <;> (try split) <;> rfl
@[simp] theorem Thread.waitFor_claims (k : WaitKind) : (th.waitFor k).claims = th.claims := by unfold Thread.waitFor; split <;> (try split) <;> rfl
@[simp] theorem Thread.waitFor_reply (k : WaitKind) : (th.waitFor k).reply = th.reply := by unfold Thread.waitFor; split <;> (try split) <;> rfl
@[simp] theorem Thread.waitFor_walked (k : WaitKind) : (th.waitFor k).walked = th.walked := by unfold Thread.waitFor; split <;> (try split) <;> rfl

@[simp] theorem Thread.goTo_pc (pc : Addr) : (th.goTo pc).pc = pc := rfl
@[simp] theorem Thread.advance_pc : th.advance.pc = th.pc + 4 := rfl
@[simp] theorem Thread.advance_wait : th.advance.wait = none := rfl

end ThreadUpdates

end Sys2Proof.Machine
end

