-- ==== Sys2Proof/Laws/Tables.lean ====
section
/-!
SUPPORT. Tables: what is read after an entry is set or removed, that setting and removing keep the keys rising, and what this says of
the threads, parts and regions of the machine.
-/
namespace Sys2Proof.Machine

section Tables
variable {β : Type}

@[simp] theorem tget_nil (k : Nat) : tget ([] : Tbl β) k = none := rfl

/-- What is read after an entry has been set. -/
theorem tget_tput (t : Tbl β) (k j : Nat) (v : β) : tget (tput t k v) j = if j = k then some v else tget t j := by
  fun_induction tput t k v <;> grind [tget]

/-- An entry reads back as it was set. -/
@[simp] theorem tget_tput_same (t : Tbl β) (k : Nat) (v : β) : tget (tput t k v) k = some v := by simp [tget_tput]

/-- Setting an entry leaves the others alone. -/
theorem tget_tput_other (t : Tbl β) {k j : Nat} (v : β) (h : j ≠ k) : tget (tput t k v) j = tget t j := by simp [tget_tput, h]

@[simp] theorem tgetD_tput_same (t : Tbl β) (k : Nat) (v d : β) : tgetD (tput t k v) k d = v := by simp [tgetD]

theorem tgetD_tput_other (t : Tbl β) {k j : Nat} (v d : β) (h : j ≠ k) : tgetD (tput t k v) j d = tgetD t j d := by
  simp [tgetD, tget_tput_other t v h]

/-- Removing an entry leaves the others alone. -/
theorem tget_tdel_other (t : Tbl β) {k j : Nat} (h : j ≠ k) : tget (tdel t k) j = tget t j := by
  fun_induction tdel t k <;> grind [tget]

/-- Every key of the tail of a table with rising keys lies above its first key. -/
theorem sortedKeys_cons {e : Nat × β} {r : Tbl β} : sortedKeys (e :: r) = true ↔ (∀ x ∈ r, e.1 < x.1) ∧ sortedKeys r = true := by
  induction r generalizing e <;> grind [sortedKeys]

theorem mem_tput {t : Tbl β} {k : Nat} {v : β} {x : Nat × β} (h : x ∈ tput t k v) : x = (k, v) ∨ x ∈ t := by
  fun_induction tput t k v <;> grind

theorem mem_tdel {t : Tbl β} {k : Nat} {x : Nat × β} (h : x ∈ tdel t k) : x ∈ t := by
  fun_induction tdel t k <;> grind

theorem sortedKeys_tput {t : Tbl β} (h : sortedKeys t = true) (k : Nat) (v : β) : sortedKeys (tput t k v) = true := by
  fun_induction tput t k v <;> grind [sortedKeys_cons, → mem_tput, sortedKeys]

theorem sortedKeys_tdel {t : Tbl β} (h : sortedKeys t = true) (k : Nat) : sortedKeys (tdel t k) = true := by
  fun_induction tdel t k <;> grind [sortedKeys_cons, → mem_tdel]

/-- A key below every key of a table is not in it. -/
theorem tget_eq_none_of_lt {t : Tbl β} {k : Nat} (h : ∀ x ∈ t, k < x.1) : tget t k = none := by
  fun_induction tget t k <;> simp_all

/-- With rising keys a removed entry is gone. -/
theorem tget_tdel_same {t : Tbl β} (h : sortedKeys t = true) (k : Nat) : tget (tdel t k) k = none := by
  fun_induction tdel t k <;> grind [sortedKeys_cons, tget_eq_none_of_lt, tget]

/-- Setting the value an entry has changes nothing. -/
theorem tput_of_tget {t : Tbl β} (h : sortedKeys t = true) {k : Nat} {v : β} (hv : tget t k = some v) : tput t k v = t := by
  fun_induction tput t k v <;> grind [sortedKeys_cons, tget_eq_none_of_lt, tget]

end Tables

/-- A fixed file of like things: what is read after one is written. -/
theorem Vector.get_set_fin {α : Type} {n : Nat} (v : Vector α n) (i j : Fin n) (x : α) :
    (v.set i.val x i.isLt).get j = if j = i then x else v.get j := by
  have e : ∀ w : Vector α n, w.get j = w[j.val] := fun _ => rfl
  rw [e, e, Vector.getElem_set]
  by_cases h : j = i
  · subst h; simp
  · have : i.val ≠ j.val := fun hv => h (Fin.ext hv).symm
    simp [h, this]

/-! ### Threads, cores, dies, partitions, regions -/

section Parts
variable (s : State)

@[simp] theorem State.thread_setThread_same (t : Nat) (th : Thread) : (s.setThread t th).thread t = th := by
  simp [State.thread, State.setThread]

theorem State.thread_setThread_other {t u : Nat} (th : Thread) (h : u ≠ t) : (s.setThread t th).thread u = s.thread u := by
  simp [State.thread, State.setThread, tgetD_tput_other _ _ _ h]

@[simp] theorem State.thread_onThread_same (t : Nat) (f : Thread → Thread) : (s.onThread t f).thread t = f (s.thread t) := by
  simp [State.onThread]

theorem State.thread_onThread_other {t u : Nat} (f : Thread → Thread) (h : u ≠ t) : (s.onThread t f).thread u = s.thread u := by
  simp [State.onThread, State.thread_setThread_other s _ h]

@[simp] theorem State.me_onMe (f : Thread → Thread) : (s.onMe f).me = f s.me := by
  simp [State.me, State.onMe, State.onThread]

theorem State.me_def : s.me = s.thread s.cur := rfl

@[simp] theorem State.core_onCore_same (c : Nat) (f : Core → Core) : (s.onCore c f).core c = f (s.core c) := by
  simp [State.core, State.onCore]

@[simp] theorem State.part_onPart_same (p : Fin 8) (f : Part → Part) : (s.onPart p f).part p = f (s.part p) := by
  simp [State.part, State.onPart, Vector.get_set_fin]

theorem State.part_onPart_other {p q : Fin 8} (f : Part → Part) (h : q ≠ p) : (s.onPart p f).part q = s.part q := by
  simp [State.part, State.onPart, Vector.get_set_fin, h]

@[simp] theorem State.die_onDie_same (d : Fin 4) (f : Die → Die) : (s.onDie d f).die d = f (s.die d) := by
  simp [State.die, State.onDie, Vector.get_set_fin]

@[simp] theorem State.region_setRegion_same (k : Nat) (r : Region) : (s.setRegion k r).region k = some r := by
  simp [State.region, State.setRegion]

theorem State.region_setRegion_other {k j : Nat} (r : Region) (h : j ≠ k) : (s.setRegion k r).region j = s.region j := by
  simp [State.region, State.setRegion, tget_tput_other _ _ h]

@[simp] theorem State.link_onLink_same (n : Nat) (f : Link → Link) : (s.onLink n f).link n = f (s.link n) := by
  simp [State.link, State.onLink]

/-- Two writes of one thread are the second one. -/
theorem tput_tput {β : Type} (t : Tbl β) (k : Nat) (v w : β) : tput (tput t k v) k w = tput t k w := by
  fun_induction tput t k v <;> grind [tput]

@[simp] theorem State.setThread_setThread (t : Nat) (a b : Thread) : (s.setThread t a).setThread t b = s.setThread t b := by
  simp [State.setThread, tput_tput]

@[simp] theorem State.onThread_onThread (t : Nat) (f g : Thread → Thread) : (s.onThread t f).onThread t g = s.onThread t (fun th => g (f th)) := by
  simp [State.onThread]

@[simp] theorem State.onMe_onMe (f g : Thread → Thread) : (s.onMe f).onMe g = s.onMe (fun th => g (f th)) := by
  simp [State.onMe]

/-- An update of the executing thread leaves the rest of the machine alone. -/
theorem State.sameButMe_onMe (f : Thread → Thread) : s.sameButMe (s.onMe f) := by
  simp [State.sameButMe, State.onMe, State.onThread]

end Parts

/-! ### Registers -/

section Registers
variable (th : Thread)

@[simp] theorem Thread.getX_zero : th.getX 0 = 0 := rfl

@[simp] theorem Thread.setX_zero (v : Word) : th.setX 0 v = th := rfl

/-- x0 reads as zero; a register reads back as it was written (R81). -/
theorem Thread.getX_setX (d r : Fin 32) (v : Word) : (th.setX d v).getX r = if r = d ∧ r ≠ 0 then v else th.getX r := by
  unfold Thread.setX Thread.getX
  by_cases hr : r = 0
  · simp [hr]
  · by_cases hd : d = 0
    · subst hd; simp [hr]
    · simp [hd, hr, Vector.get_set_fin]

theorem Thread.getA_setA (d r : Fin 16) (v : Addr) : (th.setA d v).getA r = if r = d then v else th.getA r := by
  unfold Thread.setA Thread.getA
  simp [Vector.get_set_fin]

theorem Thread.getV_setV (d r : Fin 16) (v : Vector Word 8) : (th.setV d v).getV r = if r = d then v else th.getV r := by
  unfold Thread.setV Thread.getV
  simp [Vector.get_set_fin]

theorem Thread.getM_setM (d r : Fin 8) (v : BitVec 8) : (th.setM d v).getM r = if r = d then v else th.getM r := by
  unfold Thread.setM Thread.getM
  simp [Vector.get_set_fin]

end Registers

end Sys2Proof.Machine
end

