-- ==== Sys2Proof/Laws/Memory.lean ====
section
/-!
SUPPORT. Memory: every operation keeps the canonical form, a written byte reads back, and the other bytes read as before.
-/
namespace Sys2Proof.Machine

theorem Memory.wf_iff (m : Memory) : m.wf = true ↔ sortedKeys m = true ∧ ∀ c ∈ m, c.2 ≠ Memory.unlisted := by
  simp [Memory.wf, List.all_eq_true]

theorem Memory.wf_nil : Memory.wf [] = true := rfl

/-- Writing a byte keeps the canonical form. -/
theorem memPut_wf {m : Memory} (h : m.wf = true) (a : Nat) (b : Byte) : (memPut m a b).wf = true := by
  obtain ⟨h1, h2⟩ := (Memory.wf_iff m).mp h
  unfold memPut
  split
  · exact (Memory.wf_iff _).mpr ⟨sortedKeys_tdel h1 a, fun c hc => h2 c (mem_tdel hc)⟩
  · rename_i hb
    refine (Memory.wf_iff _).mpr ⟨sortedKeys_tput h1 a b, fun c hc => ?_⟩
    rcases mem_tput hc with rfl | hc
    · exact hb
    · exact h2 c hc

/-- Writing bytes keeps the canonical form. -/
theorem memWrite_wf {m : Memory} (h : m.wf = true) (a : Nat) (bs : List Byte) : (memWrite m a bs).wf = true := by
  induction bs generalizing m a with
  | nil => exact h
  | cons b r ih => exact ih (memPut_wf h a b) (a + 1)

/-- A byte reads back as it was written. -/
theorem memByte_memPut_same {m : Memory} (h : m.wf = true) (a : Nat) (b : Byte) : memByte (memPut m a b) a = b := by
  obtain ⟨h1, -⟩ := (Memory.wf_iff m).mp h
  unfold memPut memByte
  split
  · rename_i hb; simp [tgetD, tget_tdel_same h1, hb]
  · simp

/-- The other bytes read as before. -/
theorem memByte_memPut_other (m : Memory) {a c : Nat} (b : Byte) (h : c ≠ a) : memByte (memPut m a b) c = memByte m c := by
  unfold memPut memByte tgetD
  split
  · rw [tget_tdel_other m h]
  · rw [tget_tput_other m b h]

/-- Outside the bytes written, memory reads as before. -/
theorem memByte_memWrite_other (m : Memory) (a : Nat) (bs : List Byte) {c : Nat} (h : c < a ∨ a + bs.length ≤ c) :
    memByte (memWrite m a bs) c = memByte m c := by
  induction bs generalizing m a with
  | nil => rfl
  | cons b r ih =>
    simp only [List.length_cons] at h
    rw [memWrite, ih _ _ (by omega), memByte_memPut_other m b (by omega)]

/-- The bytes written read back. -/
theorem memByte_memWrite {m : Memory} (h : m.wf = true) (a : Nat) (bs : List Byte) (i : Nat) (hi : i < bs.length) :
    memByte (memWrite m a bs) (a + i) = bs[i] := by
  induction bs generalizing m a i with
  | nil => simp at hi
  | cons b r ih =>
    cases i with
    | zero => rw [memWrite, memByte_memWrite_other _ _ _ (by omega)]; simpa using memByte_memPut_same h a b
    | succ i =>
      rw [memWrite, show a + (i + 1) = a + 1 + i by omega, ih (memPut_wf h a b) (a + 1) i (by simpa using hi)]
      rfl

theorem memBytes_length (m : Memory) (a n : Nat) : (memBytes m a n).length = n := by
  induction n generalizing a with
  | zero => rfl
  | succ n ih => simp [memBytes, ih]

@[simp] theorem leBytes_length (v n : Nat) : (leBytes v n).length = n := by
  induction n generalizing v with
  | zero => rfl
  | succ n ih => simp [leBytes, ih]

/-- A value of n bytes, laid out lowest byte first, reads back modulo 256^n (R2). -/
theorem leNat_leBytes (v n : Nat) : leNat (leBytes v n) = v % 256 ^ n := by
  induction n generalizing v with
  | zero => simp [leBytes, leNat, Nat.mod_one]
  | succ n ih =>
    have h : leNat (leBytes v (n + 1)) = v % 256 + 256 * leNat (leBytes (v / 256) n) := by
      simp [leBytes, leNat]
    rw [h, ih, Nat.pow_succ', Nat.mod_mul]

/-- The value written reads back (R2). -/
theorem memRead_memWrite {m : Memory} (h : m.wf = true) (a v n : Nat) : memRead (memWrite m a (leBytes v n)) a n = v % 256 ^ n := by
  have key : memBytes (memWrite m a (leBytes v n)) a n = leBytes v n := by
    apply List.ext_getElem
    · simp [memBytes_length]
    · intro i h1 h2
      have : ∀ (m : Memory) (a n i : Nat) (hi : i < (memBytes m a n).length), (memBytes m a n)[i] = memByte m (a + i) := by
        intro m a n
        induction n generalizing a with
        | zero => intro i hi; simp [memBytes] at hi
        | succ n ih =>
          intro i hi
          cases i with
          | zero => rfl
          | succ i => simp only [memBytes, List.getElem_cons_succ]; rw [ih]; congr 1; omega
      rw [this, memByte_memWrite h _ _ _ h2]
  rw [memRead, key, leNat_leBytes]

end Sys2Proof.Machine
end

