-- ==== Sys2Proof/Laws/Steps.lean ====
section
/-!
SUPPORT. What the shared operations of access-thread instructions do: writing one register and going on, taking a trap, going to a target.
-/
namespace Sys2Proof.Machine

variable {s : State}


theorem State.sameMemory_onMe (f : Thread → Thread) : s.sameMemory (s.onMe f) := fun _ => rfl

@[simp] theorem Thread.advance_getX (th : Thread) (r : Fin 32) : th.advance.getX r = th.getX r := rfl
@[simp] theorem Thread.advance_getA (th : Thread) (r : Fin 16) : th.advance.getA r = th.getA r := rfl
@[simp] theorem Thread.advance_getV (th : Thread) (r : Fin 16) : th.advance.getV r = th.getV r := rfl
@[simp] theorem Thread.advance_getM (th : Thread) (r : Fin 8) : th.advance.getM r = th.getM r := rfl
@[simp] theorem Thread.goTo_wait (th : Thread) (pc : Addr) : (th.goTo pc).wait = none := rfl
@[simp] theorem Thread.goTo_getA (th : Thread) (pc : Addr) (r : Fin 16) : (th.goTo pc).getA r = th.getA r := rfl

theorem Thread.sameButX_setX (th : Thread) (d : Fin 32) (v : Word) : th.sameButX (th.setX d v).advance := by
  unfold Thread.setX
  split <;> rfl

/-- writeX gives its value and nothing else. -/
theorem State.givesX_of {i : Instr} {d : Fin 32} {f : Thread → Word} (h : exec i s = writeX d f s) : s.givesX i d (f s.me) :=
  ⟨s.onMe (fun th => (th.setX d (f th)).advance), h, s.sameButMe_onMe _, s.sameMemory_onMe _, by
    rw [s.me_onMe]
    exact s.me.sameButX_setX d _, by simp, by simp, by simp [Thread.getX_setX]⟩

/-- writeA gives its value and nothing else. -/
theorem State.givesA_of {i : Instr} {d : Fin 16} {f : Thread → Addr} (h : exec i s = writeA d f s) : s.givesA i d (f s.me) :=
  ⟨s.onMe (fun th => (th.setA d (f th)).advance), h, s.sameButMe_onMe _, s.sameMemory_onMe _, by
    rw [s.me_onMe]
    rfl, by
    rw [s.me_onMe]
    rfl, by simp, by simp [Thread.getA_setA]⟩

end Sys2Proof.Machine
end

