-- ==== Sys2Proof/Tests/Slice0.lean ====
section
/-!
SUPPORT. Tests: an ill-formed term for each check, words of each family written out from the spec's encodings, single steps whose results the spec
states, and for each statement a state and operands that meet its hypotheses.
-/
namespace Sys2Proof.Tests
set_option Elab.async false
open Sys2Proof.Machine

/-! ### Well-formedness: a term that each check refuses -/

theorem test_illformed_pointer_register : (Instr.ld 16 0 .a .normal 0).wellFormed = false := by decide
theorem test_illformed_store_size : (Instr.st 1 0 .wu .normal 0).wellFormed = false := by decide
theorem test_illformed_store_pointer : (Instr.strel 17 0 .a .normal 0).wellFormed = false := by decide
theorem test_illformed_atomic_fadd : (Instr.amo 1 0 2 .fadd .thr .relaxed .wu).wellFormed = false := by decide
theorem test_illformed_cas_size : (Instr.cas 1 0 2 .thr .relaxed .b).wellFormed = false := by decide
theorem test_illformed_fcvt_type : (Instr.fcvt 1 2 .fp16 true .rne .f64).wellFormed = false := by decide
theorem test_illformed_qstat_clear : (Instr.qstat 1 0 true false 0).wellFormed = false := by decide
theorem test_illformed_qbind_bq_depth : (Instr.qbind 1 0 false true 1).wellFormed = false := by decide
theorem test_illformed_qunbind_bq_queue : (Instr.qunbind 1 true).wellFormed = false := by decide

/-- An element word with an operand type, fields and no target. -/
def ew (k : Bool) (p : EPred) (w : Fin 8) (t1 t2 : Target) : EWord := ⟨k, p, w, t1, t2⟩

theorem test_illformed_element_type : (Instr.imad (ew false .none 2 .none .none)).wellFormed = false := by decide
theorem test_illformed_element_constant : (Instr.inot (ew true .none 0 .none .none)).wellFormed = false := by decide
theorem test_illformed_element_needs_constant : (Instr.mma (ew false .none 0 .none .none)).wellFormed = false := by decide
theorem test_illformed_element_predicate : (Instr.accz (ew true .pos 0 .none .none)).wellFormed = false := by decide
theorem test_illformed_element_target : (Instr.push (ew true .none 0 (.to 1 .l) .none)).wellFormed = false := by decide
theorem test_illformed_element_targets_equal : (Instr.iadd (ew false .none 0 (.to 1 .l) (.to 1 .l))).wellFormed = false := by decide
theorem test_illformed_element_target_127t : (Instr.iadd (ew false .none 0 (.to 127 .t) .none)).wellFormed = false := by decide

/-! ### Words of each family, from the encodings of R55 to R63 and of each group's rule -/

theorem test_word_alu : decodeA (0b000001 * 2 ^ 26 + 3 * 2 ^ 21 + 4 * 2 ^ 16 + 5 * 2 ^ 11 + 1) = .ok (.sub 3 4 5) := by decide
theorem test_word_muldiv : decodeA (0b000010 * 2 ^ 26 + 31 * 2 ^ 21 + 1 * 2 ^ 16 + 2 * 2 ^ 11 + 6) = .ok (.remu 31 1 2) := by decide
theorem test_word_bits : decodeA (0b000011 * 2 ^ 26 + 7 * 2 ^ 21 + 8 * 2 ^ 16 + 3) = .ok (.bswap 7 8) := by decide
theorem test_word_immediate : decodeA (0b000100 * 2 ^ 26 + 1 * 2 ^ 21 + 2 * 2 ^ 16 + 0xFFFF) = .ok (.addi 1 2 0xFFFF) := by decide
theorem test_word_shift : decodeA (0b001010 * 2 ^ 26 + 1 * 2 ^ 21 + 2 * 2 ^ 16 + 0b10 * 2 ^ 14 + 63) = .ok (.srai 1 2 63) := by decide
theorem test_word_address : decodeA (0b001100 * 2 ^ 26 + 15 * 2 ^ 21 + 3 * 2 ^ 16 + 31 * 2 ^ 11 + 5) = .ok (.asethi 15 3 31) := by decide
theorem test_word_fp : decodeA 0x3CC741D5 = .ok (.fma 6 7 8 .dyn .f64) := by decide
theorem test_word_fcvt : decodeA 0x3C222059 = .ok (.fcvt 1 2 .i32 false .rtz .f64) := by decide
theorem test_word_store : decodeA 0x44A4C026 = .ok (.st 5 2 .d .normal 38) := by decide
theorem test_word_branch : decodeA 0x68640005 = .ok (.blt 3 4 5) := by decide
theorem test_word_branch_queue : decodeA 0x84A10003 = .ok (.bqbLk 5 3) := by decide
theorem test_word_vector : decodeA (0b100010 * 2 ^ 26 + 1 * 2 ^ 21 + 2 * 2 ^ 16 + 3 * 2 ^ 11 + 2) = .ok (.vadd 1 2 3) := by decide
theorem test_word_queue : decodeA (0x90000300 + 4 * 2 ^ 21 + 9 * 2 ^ 16 + 0b00010101) = .ok (.qpop 4 9 true 5) := by decide
theorem test_word_queue_clear_state : ∃ r, decodeA (0x90000480 + 4 * 2 ^ 21) = .error r := ⟨.reservedCombination, by decide⟩
theorem test_word_stream : decodeA (0x98000003 + 5 * 2 ^ 21 + 6 * 2 ^ 16) = .ok (.swait 5 6) := by decide
theorem test_word_sync : decodeA (0x9C000004 + 1 * 2 ^ 21 + 2 * 2 ^ 16 + 3 * 2 ^ 11) = .ok (.bwait 1 2 3) := by decide
theorem test_word_fabric : decodeA (0xA0000002 + 1 * 2 ^ 21 + 2 * 2 ^ 16 + 15 * 2 ^ 11) = .ok (.cfgld 1 2 15) := by decide
theorem test_word_swap_forced : decodeA (0xA0000003 + 1 * 2 ^ 21 + 2 * 2 ^ 16 + 1 * 2 ^ 11) = .ok (.cfgswapForce 1 2 1) := by decide
theorem test_word_tier : decodeA (0xA4000003 + 1 * 2 ^ 21 + 2 * 2 ^ 16 + 3 * 2 ^ 11) = .ok (.copydl 1 2 3) := by decide
theorem test_word_round : decodeA 0xA8450000 = .ok (.fence .die true .rel) := by decide
theorem test_word_work : decodeA (0xAC000001 + 1 * 2 ^ 21 + 2 * 2 ^ 16 + 3 * 2 ^ 11) = .ok (.wdone 1 2 3) := by decide
theorem test_word_context : decodeA 0xB0A63801 = .ok (.ctxrstRegion 5 6 7) := by decide
theorem test_word_link : decodeA 0xB4A60001 = .ok (.lnkstat 5 6) := by decide
theorem test_word_system : decodeA 0xFC082004 = .ok (.tlbinvPg 4 .module) := by decide
theorem test_word_reserved_major : ∃ r, decodeA 0 = .error r := ⟨.reservedOpcode, by decide⟩
theorem test_word_element_integer : decodeE (0x01 * 2 ^ 24 + 0b0_00_001 * 2 ^ 18 + (5 * 4 + 1) * 2 ^ 9 + 0x1FF) = .ok (.iadd (ew false .none 1 (.to 5 .r) .none)) := by decide
theorem test_word_element_float : decodeE (0x23 * 2 ^ 24 + 0b1_01_010 * 2 ^ 18 + 0x1FF * 2 ^ 9 + (126 * 4 + 3)) = .ok (.eFma (ew true .pos 2 .none (.to 126 .t))) := by decide
theorem test_word_element_convert : decodeE 0xDC0039FF = .ok (.cvtSat .e4m3 (ew false .none 0 (.to 7 .l) .none)) := by decide
theorem test_word_element_matrix : decodeE (0x88 * 2 ^ 24 + 2 ^ 23 + 0x3FFFF) = .ok (.mma (ew true .none 0 .none .none)) := by decide
theorem test_word_element_lane : decodeE (0x50 * 2 ^ 24 + 0x3FFFF) = .ok (.lperm (ew false .none 0 .none .none)) := by decide
theorem test_word_element_tile : decodeE (0x83 * 2 ^ 24 + 2 ^ 23 + 0x3FFFF) = .ok (.mtamo (ew true .none 0 .none .none)) := by decide
theorem test_word_element_gate : decodeE (0x95 * 2 ^ 24 + 0x3FFFF) = .ok (.topk (ew false .none 0 .none .none)) := by decide
theorem test_word_element_reserved : ∃ r, decodeE (0x47 * 2 ^ 24) = .error r := ⟨.reservedOpcode, by decide⟩

/-- Thread 0 of partition 0 runs on core 0, its page mapped to granule 0, with a word at its program counter. -/
def base : State := State.reset.withFetchWord 32 0x04000000

/-- The same with its thread as a function makes it. -/
def my (f : Thread → Thread) : State := base.onMe f

/-- What an instruction's next state satisfies. -/
def gives (i : Instr) (s : State) (p : State → Bool) : Bool :=
  match exec i s with
  | .next t => p t
  | _ => false

/-! ### States and operands that meet the hypotheses of the statements -/

/-- A branch queue with some entries; a likely path opened at an address. -/
def bqOf (l : List Word) : Bq := ⟨1, 0, 0, false, false, l, 0, 0, 0⟩
def pathAt (pc : Addr) (rd : Fin 32) : Path :=
  ⟨Vector.replicate 32 0, Vector.replicate 16 0, Vector.replicate 16 (Vector.replicate 8 0), Vector.replicate 8 0, [], pc, rd, false, [], 0, 0, false⟩

theorem test_meets_muldiv_corner : let s := my (fun th => (th.setX 1 (BitVec.ofInt 64 (-2 ^ 63))).setX 2 (-1)); (s.me.getX 1).toInt = -2 ^ 63 ∧ (s.me.getX 2).toInt = -1 := by decide +kernel

/-- 1.0 over 0 with DZ enabled traps; with nothing enabled it retires. -/
theorem test_meets_fp_traps : let s := my (fun th => { th.setX 1 0x3FF0000000000000 with en := 0x7F })
    fpMode .rne s.me.frm = some .rne ∧ (s.me.en ≠ 0 → s.me.path = none ∧ s.me.ahead = []) ∧ (Fmt.fp64.div .rne .zero (FpFmt.f64.operand (s.me.getX 1)) (FpFmt.f64.operand (s.me.getX 0))).flags &&& s.me.en ≠ 0 := by decide +kernel
theorem test_meets_fp_retires : let s := my (fun th => th.setX 1 0x3FF0000000000000)
    fpMode .dyn s.me.frm = some .rne ∧ (s.me.en ≠ 0 → s.me.path = none ∧ s.me.ahead = []) ∧ (Fmt.fp64.div .rne .zero (FpFmt.f64.operand (s.me.getX 1)) (FpFmt.f64.operand (s.me.getX 0))).flags &&& s.me.en = 0 := by decide +kernel
theorem test_meets_reserved_rounding : let s := my (fun th => { th with frm := 5 }); 5 ≤ s.me.frm.toNat ∧ s.me.path = none ∧ fcvtOk .i32 false = true ∧ 0x3C642940 < 2 ^ 32 ∧ 0x3C642940 / 2 ^ 26 = 0x0F ∧ 0x3C642940 / 2 ^ 6 % 8 = 5 := by decide +kernel
/-- A signalling NaN and a number, a number and a quiet NaN, two numbers, two NaNs. -/
theorem test_meets_fp_compare : base.me.en = 0 ∧ (Fmt.fp32.decode 0x7F800001).isSig = true ∧ (Fmt.fp32.decode 0x7FC00000).isNan = true ∧ (Fmt.fp32.decode 0x7FC00000).isSig = false ∧
    (Fmt.fp32.decode 0x80000000).isNan = false ∧ (Fmt.fp32.decode 0).isNan = false := by decide +kernel
/-- The smallest subnormal pattern and the largest finite one. -/
theorem test_meets_rounding : Fmt.fp64 ∈ allFmts ∧ Fmt.fp64.decode 1 = .fin false 1 (-1074) ∧ 1 < 2 ^ Fmt.fp64.width ∧ (Fmt.fp64.round .rtz .zero false ⟨false, 1, 3, false⟩).bits ≤ Fmt.fp64.maxMag ∧
    (Fmt.fp64.round .rne .zero false ⟨false, 1, 3, false⟩).bits ≤ Fmt.fp64.maxMag ∧ Fmt.fp64.top ≠ .e4m3 := by decide +kernel

/-- A target below 2^64 and aligned, one at 2^64, one misaligned. -/
theorem test_meets_targets : goodTarget (2 ^ 64 - 4) ∧ ¬ goodTarget (2 ^ 64) ∧ ¬ goodTarget 2 ∧ base.me.path = none ∧ (my (fun th => { th with path := some (pathAt 8 1) })).me.path.isSome = true := by
  unfold goodTarget; decide +kernel
theorem test_meets_branch_queue : let s := my (fun th => { th with bq := some (bqOf [5]) })
    s.me.bq = some (bqOf [5]) ∧ (bqOf [5]).entries = 5 :: [] ∧ (bqOf []).entries = [] ∧ goodTarget (s.me.pc + 4) := by unfold goodTarget; decide +kernel
theorem test_meets_unbound_branch_queue : base.me.bq = none ∧ base.me.path = none := by decide +kernel
theorem test_meets_likely_path : let s := my (fun th => { th with bq := some (bqOf []), pc := 8 }); s.me.bq = some (bqOf []) ∧ s.me.path = none ∧ goodTarget (BitVec.ofInt 80 (s.me.pc.toNat + 4 * (-2))) := by
  unfold goodTarget; decide +kernel
theorem test_meets_likely_resolution : let s := my (fun th => { th with bq := some (bqOf [0, 1]), path := some (pathAt 8 1) })
    (s.thread 0).path = some (pathAt 8 1) ∧ (s.thread 0).bq = some (bqOf [0, 1]) ∧ goodTarget ((pathAt 8 1).pc + 4) := by unfold goodTarget; decide +kernel
theorem test_meets_eret : base.me.cur ≠ .worker ∧ base.me.prev ≠ 2 ∧ (my (fun th => { th with cur := .worker })).me.cur = .worker := by decide +kernel
theorem test_meets_srw : let s := my (fun th => { th.setX 1 12 with cur := .supervisor }); s.me.cur = .supervisor ∧ (s.me.getX 1).toNat / 4 % 4 = 3 ∧ s.me.path = none ∧ ¬ (s.me.cur = .worker ∧ SrNum.prio = .mode) := by decide +kernel
theorem test_meets_wfe : (my (fun th => { th with ev := true })).me.ev = true ∧ base.me.ev = false ∧ base.me.ahead = [] ∧ (my (fun th => { th with ahead := [(1, .none)] })).me.ahead ≠ [] := by decide +kernel
theorem test_meets_wfe_limit : let s := my (fun th => { th with wait := some ⟨.wfe 5, 5, false⟩ }); (s.thread 0).wait = some ⟨.wfe 5, 5, false⟩ ∧ (s.thread 0).ev = false ∧ 0 < 5 ∧ 5 ≤ 5 := by decide +kernel
theorem test_meets_privilege : let s := my (fun th => { th.setX 1 (2 ^ 30) with cur := .worker }); s.me.cur = .worker ∧ s.me.path = none ∧ (s.me.getX 1).getLsbD 30 = true := by decide +kernel

/-- The translation of thread 0's page, with a memory type and D as given; the machine with that translation alone. -/
def page0 (mt : Nat) (d : Bool) : TlbEntry := { placeEntry false 0 with mt := mt, d := d }
def mapped (mt : Nat) (d : Bool) (f : Thread → Thread) : State := (my f).onCore 0 (fun c => { c with tlb := [page0 mt d] })

/-- A request of thread 0, due, and the machine with it on its way. -/
def reqOf (kind : ReqKind) (pa size : Nat) : Req := ⟨1, .thread 0, kind, BitVec.ofNat 80 pa, pa, size, 0, 0, .x 3 .d, false, false, false, 0, (5, 0), .sent, false, 0, 0, 0⟩
def flying (r : Req) : State := { base with flight := [r], nextId := 2 }

theorem test_meets_access_checks : let s := my (fun th => { th.setA 1 0x4000 with walked := [(8, 1)] })
    s.me.path = none ∧ s.awaitsReply = false ∧ (s.me.getA 1).toNat % 8 = 0 ∧ tlbFind (s.core 0).tlb 0 false (s.me.getA 1) = none ∧ (s.die 0).tlbFind 0 false (s.me.getA 1) = none ∧
    (walkKey (s.me.getA 1) .load false, 1) ∈ s.me.walked := by decide +kernel
theorem test_meets_access_permission : let s := (my (fun th => { th with walked := [(4, 0)] })).onCore 0 (fun c => { c with tlb := [{ page0 0 true with w := false }] })
    tlbFind (s.core 0).tlb 0 false 0 = some { page0 0 true with w := false } ∧ permOk .store false 8 { page0 0 true with w := false } = false ∧ (walkKey 0 .store false, 0) ∈ s.me.walked ∧ (walkKey 0 .store false, 1) ∉ s.me.walked := by decide +kernel
theorem test_meets_access_home_lost : let s := base.onDie 0 (fun d => { d with lost := true }); permOk .load false 8 (page0 0 true) = true ∧ s.homeLost (leafPa (page0 0 true) 8) = true := by decide +kernel
theorem test_meets_reaches : base.reaches 0x100 .load 8 0x100 (page0 0 true) ∧ base.reaches 0x100 .store 8 0x100 (page0 0 true) ∧ base.reaches 0x100 .atomic 8 0x100 (page0 0 true) := by
  unfold State.reaches; decide +kernel
theorem test_meets_load_sent : base.awaitsReply = false ∧ base.me.aheadCount < 64 ∧ (base.part 0).domainOf 0x100 = none ∧ (page0 0 true).mt < 3 ∧ l1Find (base.core 0).l1 (0x100 / 128) = none := by decide +kernel
theorem test_meets_load_from_copy : let s := base.onCore 0 (fun c => { c with l1 := [⟨2, List.replicate 128 7, .lease 9, false, 0, 0⟩] })
    ((l1Find (s.core 0).l1 (0x100 / 128)).filter (fun c => copyCurrent (s.core 0) 0 c && (match c.kind with | .lease rts => decide (s.me.seen ≤ rts) | _ => true))).isSome = true ∧ s.overlap 0 0x100 8 = false ∧ s.owesAcq 0 s.me.acqBar = false := by decide +kernel
theorem test_meets_device_access : let s := mapped 4 true id; s.reaches 0x100 .store 8 0x100 (page0 4 true) ∧ s.owes 0 s.nextId = false ∧ s.owesAcq 0 s.me.acqBar = false := by unfold State.reaches; decide +kernel
theorem test_meets_load_at_home : let r := reqOf (.load false false) 0x100 8; (flying r).findReq 1 = some r ∧ (flying r).mayPerform r = true := by decide +kernel
theorem test_meets_load_reply : let r := { reqOf (.load false false) 0x100 8 with stage := .replied (leBytes 7 8) false .dir 0 [] }
    let s := { flying r with threads := tput base.threads 0 { base.me with ahead := [(1, .x 3 .d)] } }
    s.findReq 1 = some r ∧ r.due ≤ s.tick ∧ s.inTurn r = true ∧ (s.thread 0).ahead.any (fun e => e.1 == 1) = true ∧ (s.thread 0).path = none ∧ (s.thread 0).wait = none := by decide +kernel
theorem test_meets_store_at_home : let r := reqOf (.store 0x55) 0x100 8; (flying r).mem.wf = true ∧ (flying r).findReq 1 = some r ∧ (flying r).mayPerform r = true ∧ (flying r).writable r := by
  refine ⟨by decide +kernel, by decide +kernel, by decide +kernel, ?_, ?_⟩
  · intro e h
    have : dirFind ((flying (reqOf (.store 0x55) 0x100 8)).die (homeDie 0x100)).dir (lineOf 0x100) = none := by decide +kernel
    exact absurd (this ▸ h) (by simp)
  · intro _; exact ⟨.inl (by decide), by decide +kernel⟩
/-- The store is performed, and then a load of the same bytes may be. -/
theorem test_meets_load_after_store : let r := reqOf (.store 0x55) 0x100 8
    let q := { reqOf (.load false false) 0x100 8 with id := 2, by' := .thread 1 }
    let s := { base with flight := [r, q], nextId := 3 }
    gives (.storeAtHome 1) s (fun t => t.findReq 2 == some q && t.mayPerform q && gives (.loadAtHome 2) t (fun w => (w.findReq 2).any (fun q' => match q'.stage with
      | .replied b _ _ _ _ => leNat b == 0x55
      | _ => false))) = true := by decide +kernel

/-- A directory entry for the line at 0x100, and the machine with it at the home's die; a home's timestamps. -/
def tracked (dies : List Nat) (host : Bool) (s : State) : State := s.onDie (homeDie 0x100) (fun d => { d with dir := [⟨0, 2, dies, host⟩] })
def homed (h : LineHome) (s : State) : State := { s with homes := tput s.homes 2 h }

/-- Partition 0 declares round domain 0 over the page of thread 0. -/
def domained (s : State) : State := s.onPart 0 (fun p => { p with domains := [(0, ⟨0, 0x4000, 0, Vector.replicate 4 0⟩)] })

theorem test_meets_prefetch : base.me.path = none ∧ tlbFind (base.core 0).tlb 0 false 0x100 = some (page0 0 true) ∧ permOk .load false 8 (page0 0 true) = true ∧ base.homeLost 0x100 = false ∧
    (base.part 0).domainOf 0x100 = none ∧ l1Find (base.core 0).l1 2 = none ∧ (let s := my (fun th => { th.setA 1 0x4000 with walked := [(8, 1)] }); tlbFind (s.core 0).tlb 0 false 0x4000 = none ∧ (s.die 0).tlbFind 0 false 0x4000 = none ∧ (walkKey (s.me.getA 1) .load false, 1) ∈ s.me.walked) := by decide +kernel
/-- Lane 7 alone active, at an aligned address; lane 0 active, at a misaligned one; every lane masked. -/
theorem test_meets_vld : (my (fun th => th.setM 0 0x80)).reaches 0x100 .load 8 0x100 (page0 0 true) ∧ ((my (fun th => th.setM 0 0x80)).me.getM 0).getLsbD 7 = true ∧ base.me.aheadCount < 64 ∧
    (base.part 0).domainOf 0x100 = none ∧ (∀ l : Fin 8, (base.me.getM 0).getLsbD l.val = false) ∧ ((my (fun th => th.setA 1 0x101)).me.getA 1).toNat % 8 ≠ 0 := by unfold State.reaches; decide +kernel
/-- Lane 7 alone active, its line in the L1 by a lease that stands; no page for it, and a page that may not be read. -/
theorem test_meets_vld_copies : let c : L1Line := ⟨2, List.replicate 128 7, .lease 9, false, 0, 0⟩
    let s := (my (fun th => th.setM 0 0x80)).onCore 0 (fun k => { k with l1 := [c] })
    l1Find (s.core 0).l1 (0x100 / 128) = some c ∧ s.copyUsable 0 c = true ∧ s.overlap 0 0x100 8 = false ∧ s.owesAcq 0 s.me.acqBar = false ∧ s.flight = [] ∧
    (let u := my (fun th => { th.setA 1 0x4000 with walked := [(8, 1)] }); tlbFind (u.core 0).tlb 0 false 0x4000 = none ∧ (u.die 0).tlbFind 0 false 0x4000 = none ∧ (walkKey 0x4000 .load false, 1) ∈ u.me.walked) ∧
    permOk .load false 8 { page0 0 true with r := false } = false := by decide +kernel
theorem test_meets_vld_reply : let r := { reqOf (.load false false) 0x100 8 with dst := .lane 2 3, stage := .replied (leBytes 7 8) false .dir 0 [] }
    let q := { reqOf (.load false false) 0x108 8 with id := 2, dst := .lane 2 4, stage := .arrived (leBytes 9 8) false }
    let s := { base with flight := [r, q], nextId := 3 }
    s.findReq 1 = some r ∧ r.due ≤ s.tick ∧ s.inTurn r = true ∧ (s.thread 0).path = none ∧ (∀ x ∈ s.flight, x.id = 1 → x = r) ∧ q ∈ s.flight ∧ q.id ≠ 1 ∧ q.stage = .arrived (leBytes 9 8) false := by decide +kernel
theorem test_meets_maintenance : base.me.cur ≠ .worker ∧ base.me.path = none ∧ tlbFind (base.core 0).tlb 0 false (base.me.getA 1) = some (page0 0 true) ∧ (∀ d : Fin 4, (base.die d).misses = []) ∧ base.flight = [] ∧ (∀ e ∈ base.threads, e.2.ss = [] ∧ e.2.wait = none) ∧ base.regions = [] := by decide +kernel
theorem test_meets_maintenance_waits : ∃ q ∈ (flying (reqOf (.store 1) 0x100 8)).flight, q.by' = .thread 0 ∧ q.isStore = true ∧ q.performed = false := ⟨reqOf (.store 1) 0x100 8, by decide +kernel, rfl, rfl, rfl⟩
theorem test_meets_tracked_write : let r := reqOf (.store 7) 0x100 8
    (tracked [1, 3] true (flying r)).findReq 1 = some r ∧ (tracked [1, 3] true (flying r)).mayPerform r = true ∧ dirFind ((tracked [1, 3] true (flying r)).die (homeDie 0x100)).dir (lineOf 0x100) = some ⟨0, 2, [1, 3], true⟩ := by decide +kernel
theorem test_meets_last_answer : let r := { reqOf (.store 7) 0x100 8 with stage := .inval [3] false }
    (tracked [3] false (flying r)).mem.wf = true ∧ (tracked [3] false (flying r)).findReq 1 = some r ∧ (r.mt ≠ 2 ∧ hostLine (lineOf r.pa) = false) ∧ ([3] : List Nat).filter (fun n => n != (3 : Fin 4).val) = [] := by decide +kernel
theorem test_meets_acknowledged_store : let r := { reqOf (.store 7) 0x100 8 with stage := .acked 5 }; (flying r).findReq 1 = some r ∧ r.due ≤ (flying r).tick ∧ (flying r).inTurn r = true ∧ r.by' = .thread 0 := by decide +kernel
theorem test_meets_far_write : let r := { reqOf (.store 7) 0x100 8 with mt := 2 }
    let s := homed ⟨0, 0, 9⟩ (flying r)
    s.findReq 1 = some r ∧ s.mayPerform r = true ∧ dirFind (s.die (homeDie r.pa)).dir (lineOf r.pa) = none ∧ 0 < (s.home (lineOf r.pa)).gmax ∧ s.gtime (homeDie r.pa) ≤ (s.home (lineOf r.pa)).gmax + s.guardBand := by decide +kernel
theorem test_meets_lease_wait : let r := { reqOf (.store 7) 0x100 8 with stage := .lease 9 }
    (flying r).findReq 1 = some r ∧ hostLine (lineOf r.pa) = false ∧ (flying r).gtime (homeDie r.pa) ≤ 9 ∧ 9 < ((flying r).onDie (homeDie 0x100) (fun d => { d with gtime := 10 })).gtime (homeDie r.pa) := by decide +kernel
theorem test_meets_lease : let r := reqOf (.load true false) 0x100 8
    (flying r).findReq 1 = some r ∧ (flying r).mayPerform r = true ∧ r.mt < 2 ∧ dieOf 0 = homeDie r.pa ∧ (flying r).writePending (lineOf r.pa) = false ∧ (flying r).isPoisoned r.pa = false := by decide +kernel
theorem test_meets_domain_read : let s := domained base
    s.awaitsReply = false ∧ s.me.aheadCount < 64 ∧ s.reaches 0x100 .load 8 0x100 (page0 0 true) ∧ (s.part 0).domainOf 0x100 = some 0 ∧ s.fillAwaited 0 0x100 = false ∧
    (let t := s.onCore 0 (fun c => { c with l1 := [⟨2, List.replicate 128 7, .tag 0, false, 0, 0⟩] }); (l1Find (t.core 0).l1 2).any (fun c => c.kind == .tag 0) = true ∧ t.overlap 0 0x100 8 = false ∧ t.owesAcq 0 t.me.acqBar = false) := by
  unfold State.reaches; decide +kernel
theorem test_meets_domain_home : let r := reqOf (.domain 0 0 1 0 0 false false) 0x100 8
    (domained (flying r)).findReq 1 = some r ∧ (domained (flying r)).mayPerform r = true ∧ max (((domained (flying r)).part 0).view 0 (homeDie r.pa)) 0 < 1 ∧ ((domained (flying r)).die 0).lost = false := by decide +kernel
theorem test_meets_stale_wait : let r := { reqOf (.domain 0 0 1 0 0 false false) 0x100 8 with stalled := true }
    (flying r).findReq 1 = some r ∧ 0 + ((flying r).thread 0).rwait.toNat < ((flying r).onDie 0 (fun d => { d with gtime := 1000001 })).gtimeOf 0 ∧ (flying r).gtimeOf 0 ≤ 0 + ((flying r).thread 0).rwait.toNat := by decide +kernel
theorem test_meets_host : base.mem.wf = true ∧ prange 0x100 = .hbm ∧ 0x100 % 128 + 128 ≤ 128 ∧ base.writePending (lineOf 0x100) = false ∧ dirFind (base.die (homeDie 0x100)).dir (lineOf 0x100) = none ∧ base.homeLost 0x100 = false ∧ base.flight = [] ∧
    dirFind ((tracked [1] false base).die (homeDie 0x100)).dir (lineOf 0x100) = some ⟨0, 2, [1], false⟩ := by decide +kernel
theorem test_meets_host_snoop : 0 < ((homed ⟨0, 0, 9⟩ base).home 2).gmax ∧ (homed ⟨0, 0, 9⟩ base).gtime (homeDie (2 * 128)) ≤ 9 ∧ (base.home 2).gmax = 0 ∧ (homeTile (2 * 128)).isSome = true := by decide +kernel
theorem test_meets_page_walk : let m : Miss := ⟨.thread 0, 0, false, 0x4000, .load, some 0, none, some 0⟩
    let s := base.onDie 0 (fun d => { d with misses := [m] })
    (s.die 0).misses.find? (s.walkReady 0) = some m ∧ m.who = .thread 0 := by decide +kernel
/-- A table whose entry at index 0 is a leaf of level 5, readable, writable and dirty; beside it an entry that is not present. -/
theorem test_meets_walk : let s := { base with mem := memWrite [] 0x8000 (leBytes (2 ^ 14 * 5 + 0b1001111) 8) }
    memRead s.mem 0x8000 8 % 2 = 1 ∧ s.malformed [(0, 2 ^ 40)] 5 (memRead s.mem 0x8000 8) = false ∧ memRead s.mem 0x8000 8 / 2 % 2 = 1 ∧ memRead s.mem 0x8008 8 % 2 = 0 := by decide +kernel
theorem test_meets_drift : sortedKeys base.threads = true ∧ tget base.threads 0 = some base.me ∧ base.me.st = .active ∧ dieOf 0 = 0 := by decide +kernel
/-- A line of CXL memory that the host's port says is host memory: an opaque fact, so the witness takes it as given. -/
theorem test_meets_host_memory (h : Config.hostMemory ((cxlBase 0) / 128 / 128) = true) : let r := { reqOf (.store 7) (cxlBase 0) 8 with mt := 2 }
    (flying r).mem.wf = true ∧ (flying r).findReq 1 = some r ∧ hostLine (lineOf r.pa) = true ∧ r.by' ≠ .other ∧ (flying r).mayPerform r = true ∧ dirFind ((flying r).die (homeDie r.pa)).dir (lineOf r.pa) = none ∧
    ((flying r).home (lineOf r.pa)).gmax = 0 := by
  refine ⟨by decide +kernel, by decide +kernel, ?_, by decide +kernel⟩
  have e : prange (lineOf (cxlBase 0) * 128) = .cxl 0 := by decide +kernel
  simp only [hostLine, reqOf, e]; exact h

/-- A fetch from page 0 by a thread that has nothing on its way, of a line that the instruction cache does not hold, and of one that it holds. -/
theorem fetches_base (s : State) (w : Nat) (hf : s.flight = []) (hw : s.me.walked = []) (hl : s.codeBehind 0 = false) (hc : l1Find (s.core (coreOf s.cur)).l1i (0 / 128) = none)
    (h : (tlbFind (s.core (coreOf s.cur)).tlb (s.partOf s.cur) (s.me.cur == .firmware) s.me.pc = some (page0 0 true) ∧ permOk .fetch (s.me.cur == .worker) 4 (page0 0 true) = true ∧ leafPa (page0 0 true) s.me.pc = 0) ∧
      s.homeLost 0 = false ∧ w = memRead s.mem 0 4) : s.fetches w (s.bringCode 0 (page0 0 true)) :=
  ⟨0, page0 0 true, h.1.1, h.1.2.1, h.1.2.2, (by rw [hw]; exact List.not_mem_nil), rfl, h.2.1, (by rw [hf]; intro q hq; cases hq), hl, .inr ⟨fun c e => absurd (hc.symm.trans e) nofun, h.2.2, rfl⟩⟩

theorem test_meets_step : let s := base.turnOf 0
    base.power.removed = none ∧ base.boot.off = false ∧ base.turn = .thread 0 ∧ s.fetches 0x04000000 (s.bringCode 0 (page0 0 true)) ∧ decodeA 0x04000000 = .ok (.add 0 0 0) ∧ s.me.hazard (.add 0 0 0) = false ∧ Instr.slow (.add 0 0 0) = false ∧ s.me.pc ≠ 0xFFFFFFFFFFFFFFFC ∧ s.me.path = none :=
  ⟨by decide +kernel, by decide +kernel, by decide +kernel, fetches_base _ _ rfl (by decide +kernel) (by decide +kernel) (by decide +kernel) (by decide +kernel), by decide +kernel⟩
theorem test_meets_step_from_cache : let s := (base.turnOf 0).onCore 0 (fun c => { c with l1i := [⟨0, leBytes 0x04000000 4 ++ List.replicate 124 0, .dir, false, 0, 0⟩] })
    s.fetches 0x04000000 s := by
  refine ⟨0, page0 0 true, by decide +kernel, by decide +kernel, by decide +kernel, by decide +kernel, rfl, by decide +kernel, (fun q hq => by cases hq), by decide +kernel, .inl ⟨⟨0, leBytes 0x04000000 4 ++ List.replicate 124 0, .dir, false, 0, 0⟩, ?_⟩⟩
  decide +kernel
theorem test_meets_step_on_path : let s := my (fun th => { th with path := some (pathAt 8 1) }); s.me.path = some (pathAt 8 1) ∧ Instr.onPath (.add 0 0 0) = true ∧ (pathAt 8 1).issued < 64 ∧ gives (.add 0 0 0) s (fun _ => true) = true := by decide +kernel
/-- An element instruction's turn, with the placed round. -/
theorem test_meets_element_step : let s := State.reset.withFetchWord 32 0x0103FFFF
    s.power.removed = none ∧ s.boot.off = false ∧ (match s.turn with | .elem e => s.elemInstr e == some (.iadd ⟨false, .none, 0, .none, .none⟩) | _ => false) = true := by decide +kernel
theorem test_meets_agenda : (Event.selectThread 0).names (.selectThread 0) ∧ State.reset.power.removed = none ∧ State.reset.boot.off = false ∧ State.reset.turn = .idle ∧ State.reset.agenda = [] ∧ ({ State.reset with agenda := [.selectThread 0] } : State).agenda = .selectThread 0 :: [] :=
  ⟨rfl, rfl, rfl, rfl, rfl, rfl⟩
/-- After a power-off with other events listed before and behind the start that has been asked for, and with none asked for; a module that stays off. -/
theorem test_meets_dark (o : BootOutcome) : let s : State := { State.reset with power := { Power.reset with removed := some 2 }, agenda := [.selectThread 0], later := [(9, .moduleStart o)] }
    s.power.removed.isSome ∧ s.agenda ++ s.later.map (fun e => e.2) = [.selectThread 0] ++ .moduleStart o :: [] ∧ (∀ e ∈ [Event.selectThread 0], ∀ b, e ≠ .moduleStart b) ∧
    (∀ e ∈ ([] : List Event), ∀ b, e ≠ .moduleStart b) ∧ ({ State.reset with boot := { State.reset.boot with off := true } } : State).boot.off = true :=
  ⟨rfl, rfl, by simp, fun e h => absurd h List.not_mem_nil, rfl⟩
theorem test_meets_reserved_encoding : let s := State.reset.withFetchWord 32 0; s.power.removed = none ∧ s.boot.off = false ∧ s.turn = .thread 0 ∧
    (s.turnOf 0).fetches 0 ((s.turnOf 0).bringCode 0 (page0 0 true)) ∧ decodeA 0 = .error .reservedOpcode ∧ ((s.turnOf 0).bringCode 0 (page0 0 true)).me.path = none :=
  ⟨by decide +kernel, by decide +kernel, by decide +kernel, fetches_base _ _ rfl (by decide +kernel) (by decide +kernel) (by decide +kernel) (by decide +kernel), by decide +kernel⟩
/-- A register that is owed; a full run-ahead; the last word of the space; a path with 64 instructions. -/
theorem test_meets_issue_waits : (my (fun th => { th with ahead := [(1, .x 3 .d)] })).me.hazard (.add 1 3 0) = true ∧ 64 ≤ (my (fun th => { th with ahead := (List.range 64).map (fun n => (n, .none)) })).me.aheadCount ∧ Instr.slow (.mul 1 2 3) = true ∧
    (({ State.reset with threads := [(0, { Thread.reset with pc := 0xFFFFFFFFFFFFFFFC })] } : State).withFetchWord 32 0x04000000).me.pc = 0xFFFFFFFFFFFFFFFC ∧ Instr.isTransfer (.add 0 0 0) = false ∧ Instr.onPath .eret = false ∧ 64 ≤ ({ pathAt 8 1 with issued := 64 } : Path).issued := by decide +kernel
theorem test_meets_fetch_fault : let s := (my (fun th => { th with pc := 0x4000, walked := [(10, 1)] })).turnOf 0
    tlbFind (s.core 0).tlb 0 false s.me.pc = none ∧ (s.die 0).tlbFind 0 false s.me.pc = none ∧ (walkKey s.me.pc .fetch false, 1) ∈ s.me.walked ∧ permOk .fetch false 4 { page0 0 true with x := false } = false ∧
    (base.onDie 0 (fun d => { d with lost := true })).homeLost (leafPa (page0 0 true) 0) = true := by decide +kernel
/-- Thread 3 has been passed over 64 times, thread 1 has just yielded. -/
theorem test_meets_selection : let s := (base.onThread 3 (fun th => { th with passed := 64 })).onThread 1 (fun th => { th with prio := 3 })
    (∀ t ∈ [0, 1, 3], t / 8 = 0) ∧ ([0, 1, 3] : List Nat) ≠ [] ∧ (∃ u ∈ [0, 3], 64 ≤ (s.thread u).passed) ∧ ([0, 1, 3] : List Nat).filter (fun t => some 1 != some (t % 8)) = [0, 3] ∧ decodeA 0x04000000 = .ok (.add 0 0 0) := by decide +kernel
theorem test_meets_asynchronous : let s := my (fun th => { th with pend := [⟨0x12, 1⟩], path := some (pathAt 8 1) }); (s.thread 0).pend = ⟨0x12, 1⟩ :: [] ∧ (s.thread 0).st = .active ∧ (s.thread 0).hold = false ∧ s.committed 0 = false ∧ State.reset.turn = .idle := by decide +kernel
theorem test_meets_pending : ([⟨0x0A, 0⟩, ⟨0x12, 1⟩] : List Pending).Pairwise (fun a b => a.code ≤ b.code) ∧ ((0x0A : Nat) ≠ 0x0B ∧ (0x0A : Nat) ≠ 0x14) := by decide

/-- A queue port of region 1 with a direction, a fill and tokens; thread 0 with it as q2. -/
def queueOf (out : Bool) (fill : Nat) (toks : List (Token × Nat × Bool)) : Queue := ⟨1, 0, 0, out, .i32, 4, false, false, toks, Vector.replicate 16 0, 0, fill, 0, 0, 0, 0, none⟩
def queued (x : Queue) : State := my (fun th => { th with qs := [(2, x)] })
def chained (x : Queue) (send : Bool) : Queue := { x with remote := some ⟨send, 0, 2048, 1, 0, 0, true, false, false, 0, 0, 0, 0, []⟩ }

theorem test_meets_push : let x := queueOf false 15 []; tget (queued x).me.qs (2 : Fin 32).val = some x ∧ x.out = false ∧ x.remote = none ∧ x.fill < 16 ∧ x.fill = 15 ∧ x.toks.length + 1 ≤ x.cap ∧ ¬ (x.fill = 0 ∨ x.fill = 8) := by decide +kernel
theorem test_meets_push_full : let x := queueOf false 8 (List.replicate 4 (Token.empty, 0, false)); tget (queued x).me.qs (2 : Fin 32).val = some x ∧ x.cap < x.toks.length + 1 ∧ (x.fill = 0 ∨ x.fill = 8) := by decide +kernel
theorem test_meets_pop : let x := queueOf true 0 [({ Token.empty with valid := 0x8000 }, 0, false)]
    tget (queued x).me.qs (2 : Fin 32).val = some x ∧ x.out = true ∧ x.remote = none ∧ x.toks = ({ Token.empty with valid := 0x8000 }, 0, false) :: [] ∧ (queueOf true 0 []).toks = [] := by decide +kernel
theorem test_meets_qstat : tget (queued (queueOf true 0 [])).me.qs (2 : Fin 32).val = some (queueOf true 0 []) ∧ (my (fun th => { th with bq := some (bqOf []) })).me.bq = some (bqOf []) ∧ tget base.me.qs (2 : Fin 32).val = none ∧ base.me.bq = none ∧ (3 : Fin 4) ≠ 0 := by decide +kernel
theorem test_meets_queue_misuse : tget base.me.qs (2 : Fin 32).val = none ∧ base.me.path = none ∧ base.me.cur ≠ .worker ∧ (chained (queueOf true 0 []) true).remote.isSome = true ∧ (queueOf true 0 []).out = (RqEnd.send == .send) ∧ (queueOf false 1 []).fill ≠ 0 ∧
    (my (fun th => { th with bq := some (bqOf []) })).me.bq.isSome = true := by decide +kernel

/-- A region of one bogie under number 1 with an image of one task, an input port, an output port and an output port that its BQW feeds; the machine with it. -/
def imageOf (code : List Instr) : Image :=
  ⟨7, [⟨0, 0, code, [0], [], 0, 0, 0, [0], .rne, 0, 0, 0, 0, []⟩], [⟨.port 0, .block 0 0, 0, .i32, 4⟩, ⟨.block 0 1, .port 1, 0, .i32, 4⟩, ⟨.block 0 2, .port 2, 0, .i32, 4⟩], [⟨false, .i32⟩, ⟨true, .i32⟩, ⟨true, .i32⟩]⟩
def regionOf (code : List Instr) : Region := { Region.new 0 1 0 0 0 0 1 1 with slots := Vector.replicate 4 (some (imageOf code)), active := some 0 }
def placed (g : Region) (f : Thread → Thread) : State := (my f).setRegion g.key g

theorem test_meets_qbind : let s := placed (regionOf []) (fun th => th.setX 1 (2 ^ 32 + 1))
    let w := s.me.getX 1
    tget s.me.qs (2 : Fin 32).val = none ∧ w.toNat / 2 ^ 48 = 0 ∧ w.toNat / 2 ^ 18 % 2 ^ 14 = 0 ∧ w.toNat / 2 ^ 6 % 2 ^ 10 = 0 ∧ s.myRegion (w.toNat / 2 ^ 32 % 2 ^ 16) = some (regionOf []) ∧ (regionOf []).image = some (imageOf []) ∧ 1 < (imageOf []).ports.length ∧
    (imageOf []).runs 0 = true ∧ (regionOf []).die = dieOf s.cur ∧ s.bindingAt (regionOf []) 1 0 = none ∧ (imageOf []).bqwPort 1 = false ∧ 4 * (3 + 1) ≤ s.freeSlots (coreOf s.cur) := by decide +kernel
theorem test_meets_queue_release : let x := queueOf true 0 []
    tget (queued x).me.qs (2 : Fin 32).val = some x ∧ x.remote = none ∧ (queued x).acceptQueue (queued x).cur 2 x = none ∧ sortedKeys (queued x).me.qs = true ∧ (my (fun th => { th with bq := some (bqOf []) })).acceptBq 0 (bqOf []) = none := by decide +kernel

/-! Queue ports, chained queues, links, chains and streams -/

def tok7 : Token := { Token.empty with valid := 1 }
def stop7 (l : Fin 8) : Token := { Token.empty with stop := l }
/-- The placed region with a token in the buffer of a channel. -/
def fed (c : Nat) (toks : List Token) : Region := { regionOf [] with chans := [(c * 4, ⟨toks, 0, []⟩)] }
/-- The machine with the region and a slot of thread 0. -/
def slotted (g : Region) (x : SSlot) : State := placed g (fun th => { th with ss := [(3, x)] })
def linked (l : Link) (s : State) : State := { s with links := [(2, l)] }
def up2 : Link := { Link.reset with state := 2, peer := 1 }

theorem test_meets_queue_ports : let x := { queueOf false 0 [(tok7, 0, false)] with region := 1 }
    let s := placed (regionOf []) (fun th => { th with qs := [(2, x)] })
    tget (s.thread 0).qs 2 = some x ∧ s.region (rkey (s.partOf 0) x.region.toNat) = some (regionOf []) ∧ ((regionOf []).port 0).out = false ∧ (regionOf []).restored 0 0 = false ∧ (regionOf []).image.bind (fun i => i.portChan 0) = some 0 ∧
    (regionOf []).portClosed 0 0 = false ∧ (s.core 0).gave < 4 ∧ s.earlierDone 0 0 = true ∧ 0 < (regionOf []).chanFree 0 0 ∧ 1024 ≤ s.creditAt 0 (queuePoint 0 2) ∧
    ¬ 1024 ≤ ({ s with credit := [((queuePoint 0 2).key, 1023)] } : State).creditAt 0 (queuePoint 0 2) := by decide +kernel
theorem test_meets_queue_accept : let x := { queueOf true 0 [] with port := 1 }
    let b : Bq := { bqOf [] with port := 2 }
    let s := placed (fed 1 [tok7]) (fun th => { th with qs := [(2, x)], bq := some b })
    tget (s.thread 0).qs 2 = some x ∧ s.region (rkey (s.partOf 0) x.region.toNat) = some (fed 1 [tok7]) ∧ (fed 1 [tok7]).image.bind (fun i => i.portChan 1) = some 1 ∧ ((fed 1 [tok7]).chan 1 0).buf = [tok7] ∧ (s.core 0).took < 4 ∧
    x.toks.length < x.cap ∧ (fed 2 [tok7]).image.bind (fun i => i.portChan 2) = some 2 ∧ ((fed 2 [tok7]).chan 2 0).buf = [tok7] ∧ b.entries.length < 32 ∧ (s.thread 0).path = none ∧ (fed 2 [tok7]).portClosed 2 0 = false := by decide +kernel
theorem test_meets_stalls : let s := my (fun th => { th with qs := [(2, queueOf true 0 []), (3, { queueOf false 0 [] with region := 2 })], bq := some (bqOf []), wait := some ⟨.qEmpty 2, 9, false⟩, qwatch := 9 })
    (s.thread 0).path = none ∧ (s.thread 0).qwatch ≠ 0 ∧ (s.thread 0).qwatch.toNat ≤ 9 ∧ tget (s.thread 0).qs (2 : Fin 32).val = some (queueOf true 0 []) ∧ (s.thread 0).bq = some (bqOf []) ∧
    (∀ e ∈ (s.thread 0).qs, e.2.out = true ∨ e.2.region ≠ 1 ∨ e.2.ctx ≠ 0 ∨ (e.2.toks = [] ∧ e.2.fill = 0)) ∧ ¬ (∀ e ∈ ([(3, queueOf false 4 [])] : Tbl Queue), e.2.out = true ∨ e.2.region ≠ 1 ∨ e.2.ctx ≠ 0 ∨ (e.2.toks = [] ∧ e.2.fill = 0)) := by decide +kernel
theorem test_meets_remote : let m : RemoteQ := ⟨false, 0x1000, 16, 1, 2, 5, true, false, false, 0, 0, 0, 0, [0x1000]⟩
    let x := { queueOf true 0 [] with remote := some m }
    let s := linked up2 (queued x)
    tget (s.thread 0).qs 2 = some x ∧ x.remote = some m ∧ x.toks.length < x.cap ∧ m.ringLen = 0 ∧ m.ringLen < m.entries / 2 ∧ (let pa := ({ m with ringLen := 1 } : RemoteQ).entryPa (0 + 1); pa % 256 = 0 ∧ (∀ l ∈ [pa / 128, pa / 128 + 1], prange (l * 128) = .hbm ∧ s.homeLost (l * 128) = false ∧ dirFind (s.die (homeDie (l * 128))).dir l = none)) ∧ s.flight = [] ∧ s.mem.wf = true ∧
    s.busy (.ring 0 2) = false ∧ 16 ≤ (List.replicate 16 tok7).length ∧ m.dead = false ∧
    (s.link m.link.val).state = 2 ∧ (s.link m.link.val).peer = m.peer ∧ (s.part (s.partOf 0)).crossingOpen m.peer = true ∧ m.entries / 2 ≤ 8 ∧ 4 ≤ m.entries / 4 := by decide +kernel
theorem test_meets_flits : let f : Flit := ⟨0, 0, .empty, .empty⟩
    let s := linked { up2 with unacked := [(f, 3)], seq := 1, outbox := [.queue 5 tok7] } base
    (s.link 2).state = 2 ∧ (s.link 2).unacked.length < 256 ∧ (s.link 2).outbox = [.queue 5 tok7] ∧ (∀ b ∈ (s.link 2).outbox, s.beatShut 2 true b = false) ∧ (⟨0, 1, .queue 5 tok7, .empty⟩ : Flit).seq = (s.link 2).expect ∧ (⟨7, 1, .empty, .empty⟩ : Flit).seq ≠ (s.link 2).expect ∧
    s.beatShut 2 false (.queue 5 tok7) = false ∧ (s.link 2).inbox = [] ∧ (s.link 2).unacked ≠ [] ∧ (¬ ∃ g ∈ (s.link 2).unacked, 16 ≤ g.2) ∧ (∃ g ∈ [(f, 16)], 16 ≤ g.2) ∧ 256 ≤ (List.replicate 256 (f, 0)).length := by decide +kernel
/-- A crossing that is closed keeps its beats back on both sides. -/
theorem test_meets_flits_kept : let x (send : Bool) := { queueOf (!send) 0 [] with remote := some ⟨send, 0, 16, 1, 2, 5, true, false, false, 0, 0, 0, 0, []⟩ }
    let s (send : Bool) := (linked { up2 with outbox := [.queue 5 tok7] } (queued (x send))).onPart 0 (fun p => { p with page := [(0x39, 2)] })
    ((s true).part 0).crossingOpen 1 = false ∧ (∀ b ∈ ((s true).link 2).outbox, (s true).beatShut 2 true b = true) ∧ (s false).beatShut 2 false (.queue 5 tok7) = true := by decide +kernel
theorem test_meets_port_down : let m : RemoteQ := ⟨false, 0, 16, 1, 2, 5, true, false, false, 0, 3, 0, 0, []⟩
    let x := { queueOf true 0 [] with remote := some m }
    let s := linked { up2 with unacked := [(⟨0, 0, .empty, .empty⟩, 16)] } (queued x)
    (s.link 2).state = 2 ∧ (∃ g ∈ (s.link 2).unacked, 16 ≤ g.2) ∧ (¬ ∃ g ∈ (base.link 2).unacked, 16 ≤ g.2) ∧ (s.thread 0).qs = (2, x) :: [] ∧ x.remote = some m ∧ m.link = (2 : Fin 16) ∧ (s.thread 0).ss = [] ∧ (s.thread 0).st = .active ∧ tget s.threads 0 = some (s.thread 0) ∧ sortedKeys s.threads = true ∧
    (s.thread 1).qs.all (fun e => e.2.remote.all (fun m => m.link != 2)) = true ∧ (s.link 2).absent = false ∧ (s.link 2).state ≠ 1 ∧ (s.link 3).state = 0 ∧ (linked { up2 with state := 1 } base |>.link 2).state = 1 := by decide +kernel

/-- A reducing chain's descriptor at the first of two positions, on die 0; a chain of it. -/
def chainBytes (op : Nat) (ln : Nat) : List Byte := leBytes (op * 2 ^ 8 + 4 * 2 ^ 16 + 2 ^ 32 + 2 ^ 48 + 0xFF * 2 ^ 56 + 2 * 2 ^ 72 + chainOut 0 * 2 ^ 88 + ln * 2 ^ 96 + (2 ^ 128 - 1) * 2 ^ 256) 64
def chainAt (op : Nat) : Chain := chainOf (chainBytes op 0) 0
theorem test_meets_red : let s := placed (regionOf []) (fun th => th.setA 1 0x1000)
    (s.me.getX 3).toNat < 8 ∧ tget s.me.ss 0 = none ∧ (s.me.getA 1).toNat % 16 = 0 ∧ (chainBytes 0 0).length = 64 ∧ chainFields (chainBytes 0 0) = true ∧ s.chainTargets (chainAt 0) = none ∧ chainRules (chainAt 0) (dieOf s.cur).val = true ∧
    s.chainLinksOk (chainAt 0) = true ∧ chainFields (chainBytes 0 48) = false ∧ chainRules (chainAt 1) 0 = false ∧ s.chainTargets { chainAt 0 with region := 2 } = some 18 ∧ s.chainLinksOk { chainAt 0 with down := 0x82 } = false ∧
    ((my (fun th => th.setA 1 8)).me.getA 1).toNat % 16 ≠ 0 := by decide +kernel
/-- A descriptor that lies in memory under page 0. -/
theorem readable_base (s : State) (va : Addr) (bs : List Byte) (n : Nat) (hl : bs.length = 8 * n) (ho : s.owesAcq s.cur s.me.acqBar = false) (hw : s.me.walked = [])
    (h : ∀ i < n, ((va + BitVec.ofNat 80 (8 * i)).toNat % 8 = 0 ∧ tlbFind (s.core (coreOf s.cur)).tlb (s.partOf s.cur) (s.me.cur == .firmware) (va + BitVec.ofNat 80 (8 * i)) = some (page0 0 true) ∧
      permOk .load (s.me.cur == .worker) 8 (page0 0 true) = true ∧ s.homeLost (leafPa (page0 0 true) (va + BitVec.ofNat 80 (8 * i))) = false) ∧
      s.overlap s.cur (leafPa (page0 0 true) (va + BitVec.ofNat 80 (8 * i))) 8 = false ∧ s.isPoisoned (leafPa (page0 0 true) (va + BitVec.ofNat 80 (8 * i))) = false ∧
      (bs.drop (8 * i)).take 8 = memBytes s.mem (leafPa (page0 0 true) (va + BitVec.ofNat 80 (8 * i))) 8) : s.readable va bs := by
  refine ⟨by omega, ho, fun i hi => ⟨_, page0 0 true, ?_, by decide, (h i (by omega)).2⟩⟩
  obtain ⟨⟨h1, h2, h3, h4⟩, -⟩ := h i (by omega)
  exact ⟨h1, h2, h3, rfl, h4, fun h => by simp at h, by rw [hw]; exact List.not_mem_nil⟩
theorem test_meets_readable : let s := { placed (regionOf []) (fun th => th.setA 1 0x1000) with mem := memWrite [] 0x1000 (chainBytes 0 0) }
    s.readable (s.me.getA 1) (chainBytes 0 0) :=
  readable_base _ _ _ 8 (by decide +kernel) (by decide +kernel) (by decide +kernel) (by decide +kernel)
theorem test_meets_lnkstat : let s := (my (fun th => (th.setX 1 2).setX 2 (5 * 16 + 2 + 3 * 256))).onPart 0 (fun p => { p with page := [(0x1D, 4)] })
    (s.me.getX 1).toNat = (2 : Fin 16).val + 0 * 2 ^ 4 + 0 * 2 ^ 8 + false.toNat * 2 ^ 15 ∧ (s.me.getX 2).toNat = (2 : Fin 16).val + 5 * 2 ^ 4 + 3 * 2 ^ 8 + false.toNat * 2 ^ 15 ∧ (s.part (s.partOf s.cur)).fld 0x1D0 2 2 = 1 ∧
    neighbour (dieOf s.cur).val 1 = some 1 ∧ (s.part (s.partOf s.cur)).fld 0x1D0 3 3 ≠ 1 ∧ tget s.me.qs 3 = none := by decide +kernel
/-- Two positions on dies 0 and 1 (threads 0 and 8 × 48). -/
theorem test_meets_chain_hop : let c := chainAt 0
    let d := { chainAt 0 with pos := 1, up := (chainOut 0 + 2) % 4, down := 0, rport := 0 }
    let s := (slotted (fed 1 [tok7]) (.chain c)).onThread 384 (fun th => { th with ss := [(5, .chain d)] })
    tget (s.thread 0).ss 3 = some (.chain c) ∧ c.state = .run ∧ c.sport = 1 ∧ s.region (rkey (s.partOf 0) c.region.toNat) = some (fed 1 [tok7]) ∧ (fed 1 [tok7]).image.bind (fun i => i.portChan c.sport) = some 1 ∧ (fed 1 [tok7]).portClosed 1 0 = false ∧
    ((fed 1 [tok7]).chan 1 0).buf = tok7 :: [] ∧ c.pos = 0 ∧ c.npart ≠ 1 ∧ c.down < 128 ∧ s.chainBelow 0 c = some (384, 5, d) ∧ d.sentStop = false ∧ d.inbox.length < 64 ∧ d.pos ≠ 0 ∧ d.pos + 1 = d.npart ∧ d.route = false := by decide +kernel
theorem test_meets_chain_last : let c := { chainAt 0 with pos := 1, up := 3, down := 0, rport := 0, inbox := [stop7 7] }
    let s := slotted (fed 1 [tok7]) (.chain c)
    tget (s.thread 0).ss 3 = some (.chain c) ∧ c.outbox = [] ∧ c.transit = [] ∧ c.inbox = stop7 7 :: [] ∧ (stop7 7).stop ≠ tok7.stop ∧ (s.thread 0).st = .active ∧ (stop7 7).stop = (stop7 7).stop ∧ tok7.stop = 0 := by decide +kernel
theorem test_meets_ingress_selector : let c := { chainAt 0 with route := true, pos := 1, npart := 2, sport := 0xFF, map := [0xFF, 0, 0], inbox := [{ tok7 with lanes := tok7.lanes.set 0 1 }] }
    let s := slotted (regionOf []) (.chain c)
    let tok := { tok7 with lanes := tok7.lanes.set 0 1 }
    tget (s.thread 0).ss 3 = some (.chain c) ∧ c.inbox = tok :: [] ∧ tok.stop = 0 ∧ tok.valid.getLsbD c.keylane.val = true ∧ c.map[(tok.lanes.get c.keylane).toNat % 2 ^ 16]? = some 0 ∧ c.map[0]? = some 0xFF ∧ (stop7 3).stop ≠ 0 ∧
    s.region (rkey (s.partOf 0) c.region.toNat) = some (regionOf []) ∧ ((regionOf []).port 0).out = false ∧ (regionOf []).restored 0 0 = false ∧ (match s.tryEnter (regionOf []) 0 0 (c.point 0) tok7 with | .enters _ => true | _ => false) = true := by decide +kernel

/-- A stream's descriptor on port p of region 1 at rim column 0 with a control byte; the shape of 2 i32 elements, one after the other, at an address. -/
def streamBytes (p ctl : Nat) : List Byte := leBytes (0x1100 + 2 ^ 256 + p * 2 ^ 272 + ctl * 2 ^ 280 + 7 * 2 ^ 320) 64
def shapeBytes (base : Nat) : List Byte := leBytes (base + EType.i32.code * 2 ^ 80 + 2 * 2 ^ 128 + 4 * 2 ^ 192) 208
def streamAt (p ctl : Nat) : Stream := streamOf (streamBytes p ctl) (shapeBytes 0x2000) 0 .supervisor 0 1 []
theorem test_meets_sspec : let s := placed (regionOf []) (fun th => th.setA 1 0x1000)
    (s.me.getX 3).toNat < 8 ∧ tget s.me.ss 0 = none ∧ (streamBytes 0 0).length = 64 ∧ bytesAt (streamBytes 0 0) 0 10 % 16 = 0 ∧ (shapeBytes 0x2000).length = 208 ∧ streamFields (streamBytes 0 0) (shapeBytes 0x2000) = true ∧
    (match s.engineTarget 1 0 0 false .i32 with | .ok g => g == regionOf [] | .error _ => false) = true ∧ (regionOf []).die = dieOf s.cur ∧ 4 * (regionOf []).bx ≤ 0 ∧ 0 < 4 * ((regionOf []).bx + (regionOf []).w) ∧ streamRules (streamBytes 0 0) (streamAt 0 0) = true ∧
    streamRules (streamBytes 0 2) (streamAt 0 2) = false ∧ (match s.engineTarget 1 1 0 false .i32 with | .ok _ => 0 | .error e => e) = 18 ∧ streamFields (streamBytes 0 64) (shapeBytes 0) = false := by decide +kernel
theorem test_meets_sspec_reads : let s := { placed (regionOf []) (fun th => th.setA 1 0x1000) with mem := memWrite (memWrite [] 0x1000 (streamBytes 0 0)) 0x1100 (shapeBytes 0x2000) }
    s.readable 0x1000 (streamBytes 0 0) ∧ s.readable 0x1100 (shapeBytes 0x2000) := 
  ⟨readable_base _ _ _ 8 (by decide +kernel) (by decide +kernel) (by decide +kernel) (by decide +kernel), readable_base _ _ _ 26 (by decide +kernel) (by decide +kernel) (by decide +kernel) (by decide +kernel)⟩
theorem test_meets_stream_stop : let s (x : Stream) := placed (regionOf []) (fun th => { th.setX 2 1 with ss := [(0, .stream x), (1, .chain (chainAt 0))] })
    let x := streamAt 1 1
    tget (s x).me.ss ((s x).me.getX 3).toNat = some (.stream x) ∧ x.state = .run ∧ ((s x).me.getX 2).toNat = 1 ∧ ((s x).me.getX 3).toNat = 0 ∧ x.store = true ∧ x.finished = false ∧ x.taken = none ∧ (∀ i ∈ x.idx.dropLast, i = 0) ∧
    (∃ i ∈ ({ x with idx := [1, 0] } : Stream).idx.dropLast, i ≠ 0) ∧ tget (s x).me.ss ((s x).me.getX 2).toNat = some (.chain (chainAt 0)) ∧ (chainAt 0).state = .run ∧ (let y : Stream := { x with state := .fault, fkind := 3 }; 1 ≤ y.fkind ∧ y.fkind ≤ 6) := by decide +kernel
/-- A load stream whose delivery stands at a boundary with an element read beyond it, and one that has delivered all. -/
theorem test_meets_load_stream_pause : let x := { streamAt 0 0 with sent := 1, idx := [1], out := [tok7] }
    let per := x.exts.dropLast.foldl (· * ·) 1
    let b := (x.sent + per - 1) / per * per
    x.state = .run ∧ x.store = false ∧ x.sent = b ∧ b < x.total ∧ b ≤ posOf x.idx x.exts ∧ (∀ a, x.out.head? = some a → a.stop = 0 ∧ 0 < x.elements a) ∧
    (let y := { x with sent := 2 }; y.total ≤ (y.sent + per - 1) / per * per) := by
  refine ⟨rfl, rfl, by decide +kernel, by decide +kernel, by decide +kernel, fun a h => ?_, by decide +kernel⟩
  obtain rfl : tok7 = a := Option.some.inj h
  decide +kernel
theorem test_meets_swait : let s (x : Stream) := placed (regionOf []) (fun th => { th.setX 2 (16 * 4) with ss := [(0, .stream x)] })
    let x := { streamAt 1 1 with state := .done }
    tget (s x).me.ss ((s x).me.getX 3).toNat = some (.stream x) ∧ x.state = .done ∧ sortedKeys (s x).me.ss = true ∧ ((s x).me.getX 2).toNat = 0 + 4 * 16 ∧ tget base.me.ss 0 = none := by decide +kernel
/-- The last element of a load stream; a token that enters; a store stream's token and its last stop. -/
theorem test_meets_stream_read : let x := { streamAt 0 0 with idx := [1] }
    let s := { (slotted (regionOf []) (.stream x)) with rimTlb := [(0, [page0 0 true])] }
    tget (s.thread 0).ss 3 = some (.stream x) ∧ x.store = false ∧ x.beat = false ∧ x.closed = false ∧ x.held = false ∧ x.resumed = false ∧ x.pauseAsked = false ∧ x.stopping = false ∧ s.earlierDone 0 x.after = true ∧ s.hasGenerator 0 3 x = true ∧
    x.finished = false ∧ x.fault = none ∧ x.out = [] ∧ x.ahead = [] ∧ x.lanes.length < 15 ∧ x.idx.length = x.shape.dims.length ∧ x.idx ≠ [] ∧ (∀ e ∈ x.idx.zip x.shape.dims, e.1 + 1 = e.2.1) ∧
    (match { s with freeCtr := s.freeCtr + 1 }.engineRead ⟨.stream 0 3, x.rim, 0, x.mode, x.bound, x.dclk, x.since⟩ 0x2004 4 with | .ok v u => v == 0 && u.threads == s.threads | _ => false) = true := by decide +kernel
theorem test_meets_stream_deliver : let x := { streamAt 0 0 with idx := [0], finished := true, out := [stop7 1] }
    let s := slotted (regionOf []) (.stream x)
    tget (s.thread 0).ss 3 = some (.stream x) ∧ x.out = stop7 1 :: [] ∧ s.region (rkey (s.partOf 0) x.region.toNat) = some (regionOf []) ∧ (regionOf []).restored x.port x.ctx.val = false ∧
    (match s.tryEnter (regionOf []) x.port x.ctx.val (rimPoint x.rim) { stop7 1 with round := BitVec.ofNat 15 x.count } with | .enters _ => true | _ => false) = true := by decide +kernel
theorem test_meets_stream_write : let x := streamAt 1 1
    let a := { tok7 with etype := .i32 }
    let s := { (slotted (fed 1 [a]) (.stream x)) with rimTlb := [(0, [page0 0 true])] }
    tget (s.thread 0).ss 3 = some (.stream x) ∧ x.store = true ∧ s.earlierDone 0 x.after = true ∧ s.hasGenerator 0 3 x = true ∧ x.taken = none ∧ s.region (rkey (s.partOf 0) x.region.toNat) = some (fed 1 [a]) ∧
    (fed 1 [a]).image.bind (fun i => i.portChan x.port) = some 1 ∧ ((fed 1 [a]).chan 1 x.ctx.val).buf = a :: [] ∧ a.etype = x.shape.etype ∧ a.ctx = x.ctx ∧ (∀ j : Fin 16, a.valid.getLsbD j.val = decide (j = 0)) ∧
    (∀ e ∈ x.idx.zip x.shape.dims, e.1 < e.2.1) ∧ (match s.engineWrite ⟨.stream 0 3, x.rim, 0, x.mode, x.bound, x.dclk, x.since⟩ 0x2000 with | .ok pa e u => pa == 0x2000 && e.mt == 0 && u.threads == s.threads && u.mem.wf && !u.busy (.stream 0 3) && !u.homeLost 0x2000 && (dirFind (u.die (homeDie 0x2000)).dir (lineOf 0x2000) == none) && !hostLine (lineOf 0x2000) | _ => false) = true ∧
    x.heldWrites = [] ∧ x.stops.findIdx? (fun j => j == (stop7 7).stop.val) = some (x.shape.dims.length - 1) := by decide +kernel
/-- A bounded stream's element, and its element that was read ahead; a beat of a bounded stream. -/
theorem test_meets_stream_elements : let x := { streamAt 0 0 with idx := [1], bound := some 9 }
    let s (x : Stream) : State := { (slotted (regionOf []) (.stream x)) with rimTlb := [(0, [page0 0 true])] }
    let read (x : Stream) (va : Addr) (n : Nat) : Bool := match { s x with freeCtr := (s x).freeCtr + 1 }.engineReadIn ⟨.stream 0 3, x.rim, 0, x.mode, x.bound, x.dclk, none⟩ va n with
      | .ok v u => v == 0 && u.threads == (s x).threads
      | _ => false
    let b := { x with beat := true, idx := [0] }
    tget ((s x).thread 0).ss 3 = some (.stream x) ∧ x.bound.isSome = true ∧ x.out = [] ∧ x.ahead = [] ∧ x.reading = none ∧ x.since = none ∧ (s x).hasGenerator 0 3 x = true ∧ (∀ e ∈ x.idx.zip x.shape.dims, e.1 < e.2.1) ∧ read x 0x2004 4 = true ∧
    tget ((s b).thread 0).ss 3 = some (.stream b) ∧ b.lanes = [] ∧ (s b).hasGenerator 0 3 b = true ∧ (96 ≤ 128 - 0x2000 % 128) ∧ b.scales = 0 ∧ read b 0x2000 96 = true ∧
    (let y := { x with out := [tok7], ahead := [(posOf x.idx x.exts, 5)] }; (s y).region (rkey ((s y).partOf 0) y.region.toNat) = some (regionOf []) ∧ (regionOf []).restored y.port y.ctx.val = false ∧
      (match (s y).tryEnter (regionOf []) y.port y.ctx.val (rimPoint y.rim) { tok7 with round := BitVec.ofNat 15 y.count } with | .enters _ => true | _ => false) = true) := by decide +kernel
/-- A held store stream with room in the buffer, with a line that it holds already, with the buffer full and room in the hold area or none, and with the marker come. -/
theorem test_meets_held_writes : let h : HeldWrite := ⟨64, [(0, 5)], none, 0x2000, 0, [(5, 0)]⟩
    let x (l : List HeldWrite) := { streamAt 1 1 with held := true, heldWrites := l }
    let a := { tok7 with etype := .i32 }
    let s (a : Token) (x : Stream) : State := { (slotted (fed 1 [a]) (.stream x)) with rimTlb := [(0, [page0 0 true])] }
    let writes (x : Stream) (p : State → Bool) : Bool := match (s a x).engineWrite ⟨.stream 0 3, x.rim, 0, x.mode, x.bound, x.dclk, x.since⟩ 0x2000 with | .ok pa e u => pa == 0x2000 && (e.level, e.vpn) == (5, 0) && u.threads == (s a x).threads && p u | _ => false
    let full := List.replicate 2048 { h with line := 5 }
    tget ((s a (x [])).thread 0).ss 3 = some (.stream (x [])) ∧ (x []).store = true ∧ (s a (x [])).earlierDone 0 (x []).after = true ∧ (s a (x [])).hasGenerator 0 3 (x []) = true ∧ ((fed 1 [a]).chan 1 0).buf = a :: [] ∧ (fed 1 [a]).portClosed (x []).port 0 = false ∧
    writes (x []) (fun u => decide (u.heldAt 0 < 2048)) = true ∧ [h].find? (fun h => h.line == 0x2000 / 128) = some h ∧ writes (x [h]) (fun _ => true) = true ∧
    writes (x full) (fun u => decide (2048 ≤ u.heldAt 0) && (u.spillPlace 0 0 3).isNone && ((u.onPart 0 (fun p => p.setFld 0x180 127 96 1)).spillPlace 0 0 3).isSome) = true ∧ full.find? (fun h => h.line == 0x2000 / 128) = none ∧
    sortedKeys h.data = true ∧ (∀ e ∈ h.data, e.1 < 128) ∧ (s (stop7 7) (x [h])).homeLost (h.line * 128) = false ∧ (s (stop7 7) (x [h])).busy (.held 0 3 none) = false ∧ (s (stop7 7) (x [h])).mem.wf = true := by decide +kernel
theorem test_meets_held_writable (q : Req) (hp : q.pa = 64 * 128) (hm : q.mt = 0) : base.writable q := by
  have hd : dirFind (base.die (homeDie (64 * 128))).dir (lineOf (64 * 128)) = none := by decide +kernel
  refine ⟨fun e h => ?_, fun _ => ⟨.inl ?_, ?_⟩⟩
  · rw [hp] at h; exact absurd (hd ▸ h) nofun
  · rw [hm]; decide
  · rw [hp]; decide +kernel

/-! Memory tiles, elements, regions and rounds -/

/-- A request of two lanes for a tile; the region with one tile. -/
def laneReq (op : Nat) (k : Word) : MtReq := ⟨.lanes op k 32 { Token.empty with valid := 3, lanes := Token.empty.lanes.set 1 7 } Token.empty 3, 0, 0, 0, 0, 0, 0, 0, [0, 1], Token.empty, 0, 0, false⟩
def syncReq (w : MtWork) : MtReq := ⟨w, 0, 0, 0, 0, 0, 0, 4, [], Token.empty, 0, 0, false⟩
def tiled (m : Mt) : Region := { regionOf [] with mts := [(0, m)] }

theorem test_meets_sync : let s := placed (regionOf []) (fun th => ((th.setX 1 (2 ^ 32 + 128)).setX 2 (2 ^ 63 + 128)).setX 3 8)
    let name := (s.me.getX 1).toNat
    s.me.reply = none ∧ s.me.wait = none ∧ name / 2 ^ 48 = 0 ∧ name / 2 ^ 19 % 2 ^ 4 = 0 ∧ (s.me.getX 2).toNat / 2 ^ 32 % 2 ^ 31 = 0 ∧ (s.me.getX 2).toNat / 2 ^ 20 % 2 ^ 12 = 0 ∧ (s.me.getX 3).toNat / 2 ^ 32 = 0 ∧
    s.region (rkey (s.partOf s.cur) (name / 2 ^ 32 % 2 ^ 16)) = some (regionOf []) ∧ (regionOf []).die = dieOf s.cur ∧ 0 < 2 * (regionOf []).w ∧ 0 < (regionOf []).h ∧ name % 2 ^ 19 % 128 = 0 ∧ (s.me.getX 2).toNat % 2 ^ 20 % 128 = 0 ∧
    128 + 128 ≤ 524288 ∧ 1 ≤ (s.me.getX 3).toNat ∧ s.region (rkey (s.partOf s.cur) 2) = none ∧ (s.pushesEntered s.cur && s.earlierDone s.cur s.nextId) = true ∧
    (my (fun th => { th with reply := some (BitVec.ofNat 64 7).toNat })).me.reply = some (7 : Word).toNat ∧ (my (fun th => { th with reply := some (2 ^ 64 + 23) })).me.reply = some (2 ^ 64 + 23) := by decide +kernel
/-- Lane 1 of a gather lies at the scratch's last word, lane 1 of another beyond it. -/
theorem test_meets_tile_arrival : let k (base : Nat) : Word := BitVec.ofNat 64 (EType.i32.code * 2 ^ 20 + base * 2 ^ 24)
    let q := laneReq 0 (k (524288 - 32))
    let m := { Mt.new with arriving := [q] }
    (placed (tiled m) id).region 1 = some (tiled m) ∧ tget (tiled m).mts 0 = some m ∧ (tiled m).frozen = false ∧ m.arriving.filter (fun q => q.hops == 0) = [q] ∧ m.queue.length < 64 ∧
    (∀ i ∈ q.todo, ¬ 524288 < 524288 - 32 + (if i = 1 then 7 else 0) * 4 + 4) ∧ (∃ i ∈ q.todo, 524288 < 524288 - 28 + (if i = 1 then 7 else 0) * 4 + 4) ∧ q.todo ≠ [] ∧ m.windowAhead = none ∧
    (Mt.windowAhead { Mt.new with win := some (128, 128) }) = some (128, 128) := by decide +kernel
theorem test_meets_tile_lanes : let q := laneReq 3 (BitVec.ofNat 64 (EType.i32.code * 2 ^ 20))
    let m := { Mt.new with queue := [q] }
    (placed (tiled m) id).region 1 = some (tiled m) ∧ tget (tiled m).mts 0 = some m ∧ m.queue = [q] ∧ q.bad = false ∧ q.todo.Nodup ∧ q.todo = 0 :: [1] := by decide +kernel
/-- A table whose cells and pillars the owned window holds, one whose cells pass the scratch's end, one in no window. -/
theorem test_meets_tile_tables : let q (base : Nat) := laneReq 5 (BitVec.ofNat 64 (EType.i64.code * 2 ^ 20 + base * 2 ^ 24))
    let m := { Mt.new with queue := [q 0], win := some (0, 1024), scratch := memWrite (memWrite [] 0 (leBytes (8 + 2 * 2 ^ 32 + 2 ^ 48) 8)) 524256 (leBytes 8 8) }
    (placed (tiled m) id).region 1 = some (tiled m) ∧ (q 0).todo = (List.finRange 16).filter (fun i => (3 : BitVec 16).getLsbD i.val) ∧ (q 0).todo ≠ [] ∧
    (0 + 32 ≤ 524288 ∧ ∀ i ∈ (q 0).todo, (if i = 1 then 7 else 0) < memRead m.scratch 0 4 → 0 + 32 + 2 * (if i = 1 then 7 else 0) + 2 ≤ 524288) ∧ (∃ i ∈ (q 524256).todo, (if i = 1 then 7 else 0) < memRead m.scratch 524256 4 ∧ 524288 < 524256 + 32 + 2 * (if i = 1 then 7 else 0) + 2) ∧
    0 + 32 ≤ 1024 ∧ pillarSize m 0 ≤ 1024 ∧ ({ m with win := none } : Mt).win = none := by decide +kernel
/-- A marker that waits its turn behind no one, its table's counts to be read. -/
theorem test_meets_tile_marker : let q : MtReq := { syncReq (.stop 5 0 7) with todo := [0] }
    let m := { Mt.new with queue := [q] }
    (placed (tiled m) id).region 1 = some (tiled m) ∧ m.queue = [q] ∧ q.bad = false ∧ q.work = .stop 5 0 7 ∧ q.todo ≠ [] := by decide +kernel
/-- A queue with one place left for a stop and a SYNC of one cycle, a full one, a request left from the cycle before. -/
theorem test_meets_tile_order : let q := syncReq (.stop 0 0 1)
    let z := syncReq (.bwait 0 3)
    let m (l : List MtReq) := { Mt.new with arriving := l.map (fun q => { q with hops := 0 }) }
    (m [q, z]).arriving.filter (fun q => q.hops == 0) = [{ q with hops := 0 }, { z with hops := 0 }] ∧ (m [q, z]).queue.length < 63 ∧ q.age = 0 ∧ z.age = 0 ∧ ({ z with age := 1 } : MtReq).age = 1 ∧ (List.replicate 64 q).length = 64 ∧ { tiled (m []) with frozen := true }.frozen = true := by decide +kernel
theorem test_meets_tile_barriers : let m := { Mt.new with queue := [syncReq (.arrive 0 false 4)], win := some (0, 128), barriers := [0], scratch := memWrite (memWrite [] 0 (leBytes 1 4)) 4 (leBytes 4 4) }
    (placed (tiled m) id).region 1 = some (tiled m) ∧ m.queue = [syncReq (.arrive 0 false 4)] ∧ 0 ∈ m.barriers ∧ m.scratch.wf = true ∧ memRead m.scratch 4 4 = 4 ∧ (memRead m.scratch 8 4 + 1) % 2 ^ 32 = memRead m.scratch 0 4 ∧
    (∃ b z, m.win = some (b, z) ∧ b ≤ 0 ∧ 0 + 32 ≤ b + z) ∧ 0 < (1 + 2 ^ 32 - 0 % 2 ^ 32) % 2 ^ 32 := by
  refine ⟨?_, ?_, ?_, ?_, ?_, ?_, ⟨0, 128, ?_⟩, ?_⟩ <;> decide +kernel
theorem test_meets_tile_responses : let q := { laneReq 0 (BitVec.ofNat 64 (EType.i32.code * 2 ^ 20)) with todo := [] }
    let m := { Mt.new with queue := [q] }
    let m' := { Mt.new with respond := [{ syncReq (.bwait 0 3) with off := 3 }] }
    (placed (tiled m) id).region 1 = some (tiled m) ∧ m.queue = q :: [] ∧ q.bad = false ∧ q.todo = [] ∧ (∀ z ∈ m.respond, z.hops ≠ 0) ∧ m'.queue = [] ∧ m'.respond.filter (fun z => z.hops == 0) = [{ syncReq (.bwait 0 3) with off := 3 }] ∧
    (syncReq (.bwait 0 3)).work.thread? = some 0 := by decide +kernel

/-- A round of one block at an instruction, with operands and constants; the region, the machine and what an element instruction sees there. -/
def roundOf (kind : RoundKind) (vals : List (Nat × Slot × Token)) (ks : List Word) : Round := ⟨0, 0, 0, kind, false, vals, [], [], 0, [], [], [], [], [], [], 0, ks, false⟩
def workRegion (code : List Instr) (rds : List Round) : Region := { regionOf code with ces := [(0, { Ce.new with rounds := rds })] }
def working (code : List Instr) (rd : Round) : State := { placed (workRegion code [rd]) id with elem := ⟨1, 0, 0, 0⟩ }
def atWork (code : List Instr) (rd : Round) : ECtx := ⟨workRegion code [rd], { Ce.new with rounds := [rd] }, rd, (imageOf code).blocks.headD ⟨0, 0, [], [], [], 0, 0, 0, [], .rne, 0, 0, 0, 0, []⟩, ⟨1, 0, 0, 0⟩⟩
def plainE : EWord := ⟨false, .none, 0, .none, .none⟩

/-- Data at every slot: integer and floating-point instructions, movement, reductions, gates. -/
theorem test_meets_elements : let rd := roundOf .ordinary [(0, .l, tok7), (0, .r, tok7), (0, .t, tok7), (0, .p, tok7)] [3]
    let x := atWork [.iadd plainE] rd
    (working [.iadd plainE] rd).elemAt = some x ∧
    ∀ i ∈ [Instr.iadd plainE, .imad { plainE with p := .pos }, .eFadd { plainE with k := true }, .mxq plainE, .mxdq plainE, .cvt .i8 plainE, .sorte plainE, .lred plainE, .lscan plainE, .gmax plainE, .topk plainE, .renorm plainE, .bnet plainE],
      x.data i plainE := by unfold ECtx.data; exact ⟨rfl, by decide +kernel⟩
theorem test_meets_formats : ∀ w ∈ [(2 : Fin 8), 3, 5, 6], (match etypeFmt (wType w.val) with | .ok _ => true | .error _ => false) = true := by decide
theorem test_meets_stops : let rd := roundOf .ordinary [(0, .l, stop7 3), (0, .r, stop7 3)] [3]
    let rd' := roundOf .ordinary [(0, .l, stop7 3), (0, .r, tok7)] [3]
    let x := atWork [.iadd plainE] rd
    let y := atWork [.iadd plainE] rd'
    (working [.iadd plainE] rd).elemAt = some x ∧ (∀ sl ∈ Instr.tokenSlots (.iadd plainE), (x.operand plainE sl).stop = 3) ∧ Instr.tokenSlots (.iadd plainE) ≠ [] ∧ (working [.iadd plainE] rd').elemAt = some y ∧
    (∃ sl ∈ Instr.tokenSlots (.iadd plainE), ∃ sl' ∈ Instr.tokenSlots (.iadd plainE), (y.operand plainE sl).stop ≠ (y.operand plainE sl').stop) := ⟨rfl, by decide +kernel, by decide +kernel, rfl, by decide +kernel⟩
/-- Stop levels for STOPQ and MARK; a token that a POP claimed; a K-step and a stop round. -/
theorem test_meets_stop_levels : let x := atWork [.stopq plainE] (roundOf .ordinary [(0, .l, stop7 5)] [2])
    (working [.stopq plainE] (roundOf .ordinary [(0, .l, stop7 5)] [2])).elemAt = some x ∧ 1 ≤ (x.operand plainE .l).stop.val ∧ (x.operand plainE .l).stop.val ≤ 6 ∧ (tok7.stop = 0) ∧ (stop7 7).stop = 7 ∧ ((8 : Word)).getLsbD 3 = true := ⟨rfl, by decide +kernel, by decide +kernel, rfl, rfl, rfl⟩
theorem test_meets_channel_elements : let rd := roundOf .ordinary [(0, .l, tok7)] [1]
    let x := atWork [.pop plainE] rd
    (working [.pop plainE] rd).elemAt = some x ∧ x.round.vals.find? (fun v => v.1 == x.ref.instr && v.2.1 == .l) = some (x.ref.instr, .l, tok7) ∧ (∀ y ∈ Instr.tokenSlots (.push plainE), ∀ z ∈ Instr.tokenSlots (.push plainE), (x.operand plainE y).stop = (x.operand plainE z).stop) ∧
    (x.operand plainE .l).stop = 0 ∧ ((atWork [.push plainE] (roundOf .ordinary [(0, .l, stop7 2)] [1])).operand plainE .l).stop ≠ 0 := ⟨rfl, by decide +kernel⟩
theorem test_meets_matrix : let rd := roundOf .kstep [(0, .l, tok7), (0, .t, tok7)] [0x13]
    let rd' := roundOf .stop [(0, .l, stop7 3)] [0x40]
    (working [.mma plainE] rd).elemAt = some (atWork [.mma plainE] rd) ∧ rd.kind = .kstep ∧ (working [.mma plainE] rd').elemAt = some (atWork [.mma plainE] rd') ∧ rd'.kind ≠ .kstep ∧ (rd'.vals.filter (fun v => v.1 == 0 && v.2.1 == .l)).map (fun v => v.2.2) = stop7 3 :: [] ∧
    (let k := (atWork [.accrd plainE] rd).k; k.toNat / 2 ^ 6 = 0 ∧ k.toNat / 4 % 4 = 0 ∧ k.toNat / 16 % 4 ≠ 3) ∧ (atWork [.accrd plainE] rd').k.toNat / 2 ^ 6 ≠ 0 ∧ ((atWork [.accrd plainE] rd').operand plainE .l).stop ≠ 0 := ⟨rfl, rfl, rfl, by decide +kernel⟩

theorem test_meets_kstep_arithmetic : let t : Token := { Token.empty with valid := 0xFFFF, etype := .e4m3, lanes := Token.empty.lanes.set 0 0x38 }
    (decodeElem t.etype (leNat t.payload % 2 ^ 8)).toVal = .fin false 8 (-3) ∧ [EType.e4m3, .e5m2, .e3m2, .e2m1].contains t.etype = true ∧ scaleOf (leNat t.payload / 2 ^ 768 % 2 ^ 20) = .zero ∧
    (decodeElem .e4m3 0x7F).toVal.isNan = true ∧ Fmt.fp32.decode ((Bank.zero.live.get 0).toNat % 2 ^ 32) = .fin false 0 (-149) ∧ ((EType.i8 = .i8 ∨ EType.i8 = .i4) ∧ Nat.testBit 0 0 = false) := by decide +kernel

/-! Regions -/

/-- Bogie 0 of die 0 is partition 0's. -/
theorem test_meets_rgnalloc : let s := (my (fun th => th.setX 1 (2 ^ 16 + 2 ^ 20 + 2 ^ 31))).onPart 0 (fun p => p.setReg 0x200 1)
    let w := (s.me.getX 1).toNat
    w / 2 ^ 32 = 0 ∧ w / 2 ^ 24 % 16 = 0 ∧ w % 2 ^ 8 = 0 ∧ w.testBit 31 = true ∧ w / 2 ^ 8 % 16 = 0 ∧ w / 2 ^ 12 % 16 = 0 ∧ w / 2 ^ 20 % 16 = 1 ∧ w / 2 ^ 16 % 16 = 1 ∧ ¬ (w.testBit 30 = true ∧ s.me.cur = .worker) ∧
    (s.part 0).hasBogie 0 0 = true ∧ (s.part 0).hasBogie 0 1 = false ∧ (s.part 0).service 0 0 0 = false ∧ s.regions = [] ∧ s.region (rkey 0 1) = none := by decide +kernel
def faultOf : RegionFault := ⟨⟨5, 0, 0, 1, 0, 0, 0, 0, 0, 0, 0, 0, 0, 0⟩, 0, false, false, false⟩
theorem test_meets_rgnfree : let s := placed (regionOf []) (fun th => th.setX 1 1)
    (s.me.getX 1).toNat < 2 ^ 16 ∧ s.region (rkey (s.partOf s.cur) (s.me.getX 1).toNat) = some (regionOf []) ∧ (regionOf []).die = dieOf s.cur ∧ (regionOf []).busyWith = none ∧ (regionOf []).line.headD s.cur = s.cur ∧ sortedKeys s.regions = true ∧ s.boundTo (regionOf []) = false ∧ (regionOf []).frozen = false ∧ (∀ f ∈ (regionOf []).faults, f.gone = true) ∧
    (placed (regionOf []) (fun th => { th with qs := [(2, queueOf false 0 [])] })).boundTo (regionOf []) = true ∧ (0 : Nat) / 2 ^ 26 = 0 ∧ s.region (rkey (s.partOf s.cur) 9) = none ∧ { regionOf [] with busyWith := some 5 }.busyWith = some 5 := by decide +kernel
/-- A record that has not left, for the partition's own module and for no server. -/
theorem test_meets_rgnfree_record : let g := { regionOf [] with faults := [faultOf] }
    let s := (placed g (fun th => th.setX 1 1)).onPart 0 (fun p => p.setReg 0x3C0 (2 ^ 64))
    s.region (rkey (s.partOf s.cur) (s.me.getX 1).toNat) = some g ∧ s.boundTo g = false ∧ g.frozen = false ∧ g.mts = [] ∧ g.faults.filter (fun x => !x.gone) = [faultOf] ∧ (s.part g.part).reg 0x3C0 / 2 ^ 64 % 2 = 1 ∧ (base.part 0).reg 0x3C0 / 2 ^ 64 % 2 = 0 ∧
    (s.part g.part).reg 0x3C0 / 2 ^ 112 % 2 ^ 16 = s.module.toNat ∧ (s.part g.part).reg 0x3C0 / 2 ^ 96 % 8 = (0 : Fin 8).val ∧ (fin8s.map (fun k => (s.part k).records.length)).sum < 64 := by decide +kernel
/-- An image that fails its first check; an argument for a constant that context 0's task has. -/
theorem test_meets_cfgld : let s := placed (regionOf []) (fun th => (th.setX 1 1).setX 2 2)
    (s.me.getX 2).toNat < 4 ∧ (regionOf []).active ≠ some 2 ∧ (regionOf []).active = some 0 ∧ (s.me.getA 1).toNat % 128 = 0 ∧ (let bs := List.replicate 64 (0 : Byte); bs.length = 64 + 8 * ((bytesAt bs 40 4 - 64 + 7) / 8)) ∧
    (match s.imageFor (regionOf []) (List.replicate 64 0) with | .error o => o == 0 | .ok _ => false) = true ∧ (my (fun th => th.setA 1 64)).me.getA 1 ≠ 0 := by decide +kernel
/-- An image with its places, of one block that pops one input port's channel, and its key. -/
def imageBytes : List Byte :=
  leBytes (0x31494751 + 2 ^ 32 + 2 ^ 48 + 2 ^ 64 + 2 ^ 72 + 2 ^ 80 + 2 ^ 96) 16 ++ leBytes (64 + 96 * 2 ^ 32 + 112 * 2 ^ 64 + 2 ^ 96) 16 ++ leBytes (128 + 136 * 2 ^ 32 + 144 * 2 ^ 64) 16 ++ leBytes 0x3D1BEDAB9409CA01 16 ++
  leBytes (2 ^ 88) 32 ++ leBytes (2 ^ 31 + EType.i32.code * 2 ^ 72 + 4 * 2 ^ 80) 16 ++ leBytes (EType.i32.code * 2 ^ 8) 16 ++ leBytes (0xB * 2 ^ 28 + 2 ^ 14 + 2 ^ 32 * 1887698943) 8 ++ leBytes 0 8
theorem test_meets_accepted_image : (match base.imageFor (regionOf []) imageBytes with
    | .ok (i, _) => i.blocks.length == 1 && i.chans.length == 1 && i.ports.length == 1 && i.overload [] == none
    | .error _ => false) = true ∧ encodeE (.pop ⟨true, .none, 0, .none, .none⟩) = some 1887698943 ∧ imageBytes.length = 144 := by decide +kernel
/-- Whose turn a FABRIC instruction is: of the thread whose instruction is at work, else of the first in the region's line, else of any. -/
theorem test_meets_fabric_turn : (regionOf []).atTurn 0 ∧ ({ regionOf [] with line := [0, 5] } : Region).atTurn 0 ∧ ¬ ({ regionOf [] with line := [5] } : Region).atTurn 0 ∧ ¬ ({ regionOf [] with busyWith := some 5 } : Region).atTurn 0 ∧
    Instr.cfgtrig 1 2 3 ∉ [Instr.rgnfree 1] ∧ (regionOf []).image = some (imageOf []) ∧ (imageOf []).ports[0]? = some ⟨false, .i32⟩ ∧ (imageOf []).ports[1]? = some ⟨true, .i32⟩ := by
  unfold Region.atTurn; decide +kernel
theorem test_meets_argw : let g := { regionOf [] with slots := Vector.replicate 4 (some { imageOf [.iadd { plainE with k := true }] with blocks := [⟨0, 0, [.iadd { plainE with k := true }], [0], [], 0, 0, 0, [0], .rne, 0, 0, 0, 0, []⟩] }) }
    let s := placed g (fun th => th.setX 1 1)
    s.region (rkey (s.partOf s.cur) (s.me.getX 1).toNat) = some g ∧ ((g.slots.get 0).bind (fun i => i.blocks[0]?)).any (fun b => decide (0 < b.loaded.length) && b.ctxm.contains 0) = true ∧ g.frozen = false ∧ g.args.length < 16 ∧ (g.slots.get 0).isSome = true ∧
    (g.active == some 0 && (g.ce 0).started.contains 0) = false ∧ (((g.slots.get 0).bind (fun i => i.blocks[0]?)).all (fun b => decide (b.loaded.length ≤ 5) || !b.ctxm.contains 0)) = true := by decide +kernel
theorem test_meets_swaps : let g := regionOf []
    let s := placed g (fun th => ((th.setX 1 1).setX 2 2).setX 3 1)
    s.region (rkey (s.partOf s.cur) (s.me.getX 1).toNat) = some g ∧ g.die = dieOf s.cur ∧ g.busyWith = none ∧ (s.me.getX 2).toNat / 2 ^ 9 = 0 ∧ (s.me.getX 2).toNat / 2 ^ 2 % 2 ^ 6 = 0 ∧ (g.slots.get 2).isSome = true ∧ g.frozen = false ∧ g.swap = none ∧ s.me.reply = none ∧ g.trigger = none ∧
    1 ≤ (s.me.getX 3).toNat ∧ g.image = some (imageOf []) ∧ (imageOf []).ports[0]? = some ⟨false, .i32⟩ ∧ s.region 1 = some g ∧ g.key = 1 ∧ g.allQuiet = true ∧ ({ g with trigger := some ⟨0, 0, false, 2, 0, true⟩ } : Region).trigger = some ⟨0, 0, false, 2, 0, true⟩ := by decide +kernel
theorem test_meets_drain : let g := { regionOf [] with waiters := [(0, [])], busyWith := some 0 }
    let named (f : RegionFault) : Bool := f.old || f.record.kind == 7 || f.record.ctx.val == 1
    let s := placed g (fun th => (th.setX 1 1).setX 2 1)
    s.region (rkey (s.partOf s.cur) (s.me.getX 1).toNat) = some g ∧ g.die = dieOf s.cur ∧ (s.me.getX 2).toNat / 2 ^ 13 = 0 ∧ (s.me.getX 2).toNat / 2 ^ 3 % 2 = 0 ∧ (s.me.getX 2).toNat % 8 = 1 ∧ g.busyWith = some s.cur ∧ g.waiters.find? (fun e => e.1 == s.cur) = some (s.cur, []) ∧
    (regionOf []).busyWith = none ∧ (regionOf []).waiters.find? (fun e => e.1 == s.cur) = none ∧ 0x62 % 8 = 2 ∧ (∀ f ∈ g.faults, named f = true) ∧ (let f : RegionFault := ⟨⟨1, 0, 0, 1, 2, 0, 0, 0, 0, 0, 0, 0, 0, 0⟩, 0, true, false, false⟩; named f = false) ∧ 0x1053 / 2 ^ 12 % 2 = 1 ∧ 0x1053 / 2 ^ 4 % 16 = 5 ∧ 0x63 / 2 ^ 4 % 16 = 6 := by decide +kernel

/-! Rounds -/

/-- A region whose block 0 pops channel 0 and whose context 0 is named, with a token there. -/
def startable : Region := { workRegion [.pop plainE] [] with named := some 0, chans := [(0, ⟨[tok7], 0, []⟩)] }
theorem test_meets_rounds_start : let r := startable
    let i := imageOf [.pop plainE]
    let s := placed r id
    let bl := i.blocks.headD ⟨0, 0, [], [], [], 0, 0, 0, [], .rne, 0, 0, 0, 0, []⟩
    s.region 1 = some r ∧ r.image = some i ∧ r.frozen = false ∧ r.named = some 0 ∧ r.tasksOn 0 = [(0, bl)] ∧ bl.isKstep = false ∧ bl.slot < 16 ∧ 0 ∈ bl.ctxm ∧ i.pops 0 = [(0, 0)] ∧ (∀ p ∈ i.pops 0, (r.chan p.2 0).buf ≠ [] ∧ (((r.chan p.2 0).buf.headD Token.empty).stop = 7 ↔ false = true)) ∧
    (∀ q ∈ i.claims 0 false, q.2 ≤ r.chanFree q.1 0) ∧ bl.loadsPatterns (bl.constK 0) = false ∧ ((i.pops 0).map (·.2)).Nodup ∧ ((i.claims 0 false).map (·.1)).Nodup ∧ (r.ce 0).rounds.length < 8 ∧ (r.ce 0).firstFrameUsed 0 = false ∧ r.runs 0 = true ∧
    s.idleCtx r 0 = false ∧ r.runs 1 = false ∧ (selectTask i (r.ce 0) [(0, bl)]).isSome = true := by decide +kernel
/-- Two input channels, a marker at the head of one and data at that of the other; a CE with eight rounds in flight. -/
theorem test_meets_rounds_mixed : let code := [Instr.pop { plainE with k := true }, .pop { plainE with k := true }]
    let i : Image := { imageOf code with blocks := [⟨0, 0, code, [0, 1], [], 0, 0, 0, [0], .rne, 0, 0, 0, 0, []⟩], chans := [⟨.port 0, .block 0 0, 0, .i32, 4⟩, ⟨.port 3, .block 0 1, 0, .i32, 4⟩], ports := [⟨false, .i32⟩, ⟨true, .i32⟩, ⟨true, .i32⟩, ⟨false, .i32⟩] }
    let g : Region := { regionOf code with slots := Vector.replicate 4 (some i), named := some 0, chans := [(0, ⟨[tok7], 0, []⟩), (4, ⟨[stop7 7], 0, []⟩)] }
    (placed g id).region 1 = some g ∧ g.image = some i ∧ i.pops 0 = [(0, 0), (1, 1)] ∧ (g.chan 0 0).buf.head? = some tok7 ∧ (g.chan 1 0).buf.head? = some (stop7 7) ∧ g.tasksOn 0 = [(0, i.blocks.headD ⟨0, 0, [], [], [], 0, 0, 0, [], .rne, 0, 0, 0, 0, []⟩)] ∧
    8 ≤ ({ Ce.new with rounds := List.replicate 8 (roundOf .ordinary [] []) } : Ce).rounds.length ∧ (∀ rd ∈ List.replicate 8 (roundOf .ordinary [] []), ∀ o, i.blocks[rd.block]? = some o → o.loadsPatterns (fun n => (rd.consts[kIndex o.code n]?).getD 0) = false) := by
  refine ⟨?_, ?_, ?_, ?_, ?_, ?_, ?_, fun rd h o e => ?_⟩
  case refine_8 =>
    obtain rfl := List.eq_of_mem_replicate h
    obtain rfl := Option.some.inj e
    decide +kernel
  all_goals decide +kernel
theorem test_meets_instruction_start : let r := workRegion [.iadd plainE] [roundOf .ordinary [(0, .l, tok7), (0, .r, tok7)] []]
    (placed r id).region 1 = some r ∧ r.image = some (imageOf [.iadd plainE]) ∧ (r.ce 0).busy = 0 ∧ ((r.ce 0).rounds[0]?).any (fun rd => ((imageOf [.iadd plainE]).blocks[rd.block]?).any (fun bl => rd.ready bl 0 (.iadd plainE))) = true ∧ needsUnit (.iadd plainE) = true := by decide +kernel
theorem test_meets_round_commit : let rd := { roundOf .ordinary [(0, .l, tok7)] [0] with fired := [0], pushes := [(1, tok7)] }
    let r := workRegion [.push plainE] [rd]
    let i := imageOf [.push plainE]
    (placed r id).region 1 = some r ∧ r.image = some i ∧ (r.ce 0).rounds = rd :: [] ∧ (i.blocks[rd.block]?).isSome = true ∧ rd.bad = false ∧ rd.kind ≠ .kstep ∧ (∀ n, n < 1 → n ∈ rd.fired) ∧ (rd.consts[kIndex [.push plainE] 0]?).getD 0 = BitVec.ofNat 64 (((i.blocks[0]?).map (fun b => b.loadedK 0)).getD 1) ∧
    rd.pushes.filter (fun q => q.1 == 1) = [(1, tok7)] ∧ 1 ∉ rd.pops ∧ ((5 : Word)) ≠ BitVec.ofNat 64 (((i.blocks[0]?).map (fun b => b.loadedK 0)).getD 1) := by decide +kernel
theorem test_meets_heads : let r := { regionOf [] with chans := [(0, ⟨[], 1, [(tok7, 0), (stop7 1, 2)]⟩)] }
    let s := placed r (fun th => { th with qs := [(2, queueOf false 0 [])] })
    s.region 1 = some r ∧ (r.chan 0 0).transit = [(tok7, 0)] ++ [(stop7 1, 2)] ∧ (s.bindingAt r 0 0).isSome = true := by decide +kernel
/-- A block of one MMA on CE 0 with whole groups in both registers. -/
theorem test_meets_kstep : let k : Word := BitVec.ofNat 64 (EType.e4m3.code * 2 ^ 8 + EType.e4m3.code * 2 ^ 12)
    let beat (j : Nat) : Token := { Token.empty with valid := 0xFFFF, etype := .e4m3, lanes := Token.empty.lanes.set 13 (BitVec.ofNat 64 (j * 2 ^ 56)) }
    let bl : Block := ⟨0, 0, [.mma { plainE with k := true }], [k], [], 0, 0, 0, [0], .rne, 0, 0, 0, 0, []⟩
    let i : Image := { imageOf [] with blocks := [bl] }
    let r : Region := { regionOf [] with slots := Vector.replicate 4 (some i), ces := [(0, { Ce.new with aReg := [beat 0, beat 1, beat 2, beat 3], bReg := [beat 0, beat 1, beat 2, beat 3] })] }
    (placed r id).region 1 = some r ∧ (r.tasksOn 0).find? (fun e => e.2.isKstep) = some (0, bl) ∧ r.frozen = false ∧ r.brake = false ∧ (r.ce 0).rounds.length < 8 ∧ (r.ce 1).aReg = [] ∧ (r.ce 64).bReg = [] ∧ (r.ce 0).aReg.length = 4 ∧
    (∀ j : Fin 4, ((r.ce 0).aReg[j.val]?).any (fun t => beatRow t == j.val && t.valid == 0xFFFF && t.ctx.val == 0 && t.etype == .e4m3 && t.stop == 0) = true) ∧ mmaConstOk k = true ∧ EType.ofCode (k.toNat / 2 ^ 8 % 16) = .e4m3 ∧ ¬ (beat 1 :: [beat 0]).length = 4 := by decide +kernel

/-- A token at a queue port whose bucket is empty, its point open and its channel with room; a CE that a load of patterns keeps from a K-step. -/
theorem test_meets_held_for_credit : let g := regionOf []
    let s := { placed g (fun th => { th with qs := [(2, queueOf false 0 [(tok7, 0, false)])] }) with credit := [((queuePoint 0 2).key, 1023)] }
    (s.bindings g).any (fun e => s.holdsToken e.1 e.2.2 && !g.portClosed e.1 e.2.1 && decide (s.creditAt g.die (s.bindingPoint e.2.2) < 1024) && ((g.image.bind (fun i => i.portChan e.1)).any (fun c => decide (0 < g.chanFree c e.2.1)))) = true ∧
    (pointNode (queuePoint 0 2).key).2 = 0 ∧ sortedKeys s.credit = true := by decide +kernel
theorem test_meets_kstep_full : let rd := roundOf .kstep [] []
    let g := workRegion [] (List.replicate 8 rd)
    8 ≤ (g.ce 0).rounds.length ∧ ∀ rd ∈ (g.ce 0).rounds, ∀ i o, g.image = some i → i.blocks[rd.block]? = some o → o.loadsPatterns (fun n => (rd.consts[kIndex o.code n]?).getD 0) = false := by
  refine ⟨by decide +kernel, fun rd h i o e f => ?_⟩
  obtain rfl : roundOf .kstep [] [] = rd := (List.eq_of_mem_replicate h).symm
  obtain rfl : imageOf [] = i := Option.some.inj e
  obtain rfl := Option.some.inj f
  decide +kernel

/-! Freezes, pools, copies, rounds, waybills, saved contexts, partitions and the module -/

def paged (off v : Nat) (s : State) : State := s.onPart 0 (fun p => p.setReg off v)
theorem test_meets_freezes : let rd := { roundOf .ordinary [] [] with age := 2048 }
    let r := { workRegion [.iadd plainE] [rd] with brakeBy := [(0, 3)], mts := [(0, { Mt.new with queue := [{ syncReq (.bwait 0 1) with age := 1024 }] })] }
    let s := paged 0x3C0 (2 ^ 32 + 2 ^ 64 + 2 ^ 65) (placed r id)
    s.region 1 = some r ∧ r.brake = false ∧ r.brakeBy ≠ [] ∧ r.frozen = false ∧ (s.part r.part).fld 0x3C0 63 32 * 1024 ≠ 0 ∧ tget r.ces 0 = some { Ce.new with rounds := [rd] } ∧ rd.bad = false ∧ (s.part r.part).fld 0x3C0 63 32 * 1024 ≤ rd.age ∧
    (tget r.mts 0).map (fun m => m.queue) = some [{ syncReq (.bwait 0 1) with age := 1024 }] ∧ (s.part r.part).fld 0x3C0 64 64 ≠ 0 ∧ BitVec.ofNat 16 ((s.part r.part).fld 0x3C0 127 112) = s.module ∧ s.treeCount < 64 ∧ (s.part r.part).fld 0x3C0 65 65 ≠ 0 := by decide +kernel
theorem test_meets_records : let r := { regionOf [] with frozen := true, faults := [{ faultOf with gone := true }] }
    let s := (paged 0x3D0 1 (placed r id)).onPart 0 (fun p => { p with records := [(0, faultOf.record)] })
    s.region 1 = some r ∧ r.key = 1 ∧ r.faults = [{ faultOf with gone := true }] ∧ faultOf.gone = false ∧ faultOf.left = 0 ∧ faultOf.discarded = false ∧ (s.part 0).records = (0, faultOf.record) :: [] ∧ (s.part 0).fld 0x3D0 0 0 = 1 ∧ s.mem.wf = true ∧
    ¬ (64 ≤ ((s.part 0).fld 0x3E0 127 64 + 2 ^ 64 - (s.part 0).fld 0x3E0 63 0) % 2 ^ 64) ∧ (s.part 0).threads[0]? = some 0 ∧ (s.thread 0).st = .active ∧
    (s.part 0).recordOut = false ∧ s.busy (.records 0) = false ∧ faultOf.old = false ∧ faultOf.record.kind ≠ 7 ∧ s.homeLost 0 = false ∧ s.alone 0 0 ∧ (s.part 0).fld 0x3D0 56 14 = 0 := by unfold State.alone; decide +kernel

/-- A pool of FP32 rows: one bag, rows of one element; a copy of one line. -/
def poolBytes (es : Nat) : List Byte := leBytes (0x1000 + 0x2000 * 2 ^ 128 + 0x2100 * 2 ^ 256 + 0x2200 * 2 ^ 512 + 9 * 2 ^ 640 + es * 2 ^ 704 + 2 ^ 736 + EType.fp32.code * 2 ^ 752 + 16 * 2 ^ 768) 128
def poolAt (es : Nat) : Pool := ⟨.run, poolBytes es, 0, 0, 0, 0, 0, .supervisor, false, 0, none, [], none, none, 0⟩
def copyBytes : List Byte := leBytes (0x1000 + 0x2000 * 2 ^ 128 + 128 * 2 ^ 256) 64
def copyAt : Copy := ⟨.run, copyBytes, none, 0, 0, 0, .supervisor, false, 0, false, false, 0⟩
/-- Memory of HBM that no directory tracks, on living dies. -/
theorem alone_of (s : State) (h : ∀ d : Fin 4, (s.die d).dir = [] ∧ (s.die d).lost = false) (pa mt : Nat) (hp : pa < 2 ^ 39) (hm : mt ≠ 2) : s.alone pa mt ∧ s.homeLost pa = false := by
  have e : prange (lineOf pa * 128) = .hbm := by
    have : lineOf pa * 128 < 2 ^ 39 := by unfold lineOf; omega
    unfold prange; rw [if_pos this]
  exact ⟨⟨by simp [dirFind, h], by simp [hostLine, e], fun h => absurd h hm⟩, by simp [State.homeLost, h]⟩
theorem test_meets_pools : let s := placed (regionOf []) (fun th => ((th.setX 2 (2 ^ 8)).setX 3 (2 ^ 9)).setA 1 0x1000)
    (s.me.getX 1).toNat / 2 ^ 8 = 0 ∧ (s.me.getX 1).toNat / 8 % 2 ^ 5 = 0 ∧ (s.me.getX 2).toNat / 2 ^ 9 = 0 ∧ (s.me.getX 2).toNat.testBit 8 = true ∧ (s.me.getX 3).toNat.testBit 9 = true ∧ tget s.me.pools 0 = none ∧ (s.me.getA 1).toNat % 16 = 0 ∧
    (poolBytes 1).length = 128 ∧ poolZeros (poolBytes 1) = true ∧ (poolAt 1).triple.bind (fun x => s.tokenTarget x.1 x.2.1 x.2.2) = none ∧ poolRules (poolAt 1) = true ∧ poolRules (poolAt 0) = false ∧
    (({ poolAt 1 with state := .fault, fkind := 3 } : Pool).fkind ≤ 6) ∧ copyBytes.length = 64 ∧ copyZeros copyBytes = true ∧ copyAt.triple.bind (fun x => s.tokenTarget x.1 x.2.1 x.2.2) = none ∧ copyRules copyAt = true ∧ s.copiesIn (dieOf s.cur) (s.partOf s.cur) (fun _ c => !c.cancelling) = [] ∧
    s.me.st ≠ .off ∧ sortedKeys s.threads = true ∧ ({ copyAt with moving := true } : Copy).moving = true := by decide +kernel
/-- An engine finds the page 0 of its rim tile. -/
theorem engineAt_of (s : State) (e : Engine) (va : Addr) (k : AccKind) (pa : Nat) (l : TlbEntry) (h : (tlbFind (tgetD s.rimTlb e.rim []) (s.partOf e.t) (e.mode == .firmware) va = some l ∧ permOk k (e.mode == .worker) 8 l = true ∧ leafPa l va = pa ∧ l.d = true) ∧
    (e.who, walkKey va k (e.mode == .firmware), 1) ∉ s.rimWalks ∧ s.homeLost pa = false ∧ s.isPoisoned pa = false ∧ l.mt ≠ 4) : s.engineAt e va k pa l.mt := ⟨l, h.1.1, h.1.2.1, h.1.2.2.1, rfl, fun _ => h.1.2.2.2, h.2⟩
/-- A bag of one index, 3, whose row is 1.0 weighed by 1. -/
theorem test_meets_pool_bag : let p := poolAt 1
    let s := { my (fun th => { th with pools := [(0, p)] }) with rimTlb := [(0, [page0 1 true])], mem := memWrite (memWrite (memWrite [] 0x2004 (leBytes 1 4)) 0x2100 (leBytes 3 4)) 0x1030 (leBytes 0x3F800000 4) }
    let e : Engine := ⟨.pool 0 0, 0, 0, .supervisor, none, [], none⟩
    tget (s.thread 0).pools 0 = some p ∧ p.state = .run ∧ s.earlierDone 0 p.after = true ∧ p.writing = none ∧ p.bagNow = none ∧ s.busy (.pool 0 0) = false ∧ (bytesAt p.desc 95 1).testBit 1 = false ∧ s.mem.wf = true ∧ memRead s.mem 0x2000 4 = 0 ∧ memRead s.mem 0x2004 4 = 1 ∧ memRead s.mem 0x2100 4 = 3 ∧ 3 < bytesAt p.desc 80 8 ∧
    s.engineAt e 0x2000 .load 0x2000 1 ∧ s.engineAt e 0x2004 .load 0x2004 1 ∧ s.engineAt e 0x2100 .load 0x2100 1 ∧ s.engineAt e 0x1030 .load 0x1030 1 ∧ (∀ j, j < 4 → s.engineAt e (0x2200 + BitVec.ofNat 80 j) .store (0x2200 + j) 1) ∧ (∀ j, j < 4 → s.alone (0x2200 + j) 1) ∧ EType.ofCode (bytesAt p.desc 94 1) = .fp32 := by
  have at' (a : Nat) (va : Addr) (h : _) : State.engineAt _ _ va .load a 1 := engineAt_of { my (fun th => { th with pools := [(0, poolAt 1)] }) with rimTlb := [(0, [page0 1 true])], mem := memWrite (memWrite (memWrite [] 0x2004 (leBytes 1 4)) 0x2100 (leBytes 3 4)) 0x1030 (leBytes 0x3F800000 4) } ⟨.pool 0 0, 0, 0, .supervisor, none, [], none⟩ va .load a (page0 1 true) h
  refine ⟨by decide +kernel, rfl, by decide +kernel, rfl, rfl, rfl, ?_, ?_, ?_, ?_, ?_, ?_, at' _ _ ?_, at' _ _ ?_, at' _ _ ?_, at' _ _ ?_, fun j hj => engineAt_of _ _ _ _ _ (page0 1 true) ?_, fun j hj => (alone_of _ (by decide +kernel) _ 1 (by omega) (by decide)).1, ?_⟩
  case refine_11 => revert j; decide +kernel
  all_goals decide +kernel
/-- A bag whose result is being written. -/
theorem test_meets_pool_written : let p := { poolAt 1 with writing := some (0, 0) }
    let s := my (fun th => { th with pools := [(0, p)] })
    let u := { s with flight := [{ reqOf (.write [(0, 1)]) 0x2200 128 with by' := .pool 0 0 }] }
    tget (s.thread 0).pools 0 = some p ∧ p.state = .run ∧ s.earlierDone 0 p.after = true ∧ p.writing = some (0, 0) ∧ s.busy (.pool 0 0) = false ∧ tget (u.thread 0).pools 0 = some p ∧ u.earlierDone 0 p.after = true ∧ u.busy (.pool 0 0) = true := by decide +kernel
theorem test_meets_copies : let s := { my (fun th => { th with copies := [(0, copyAt)] }) with rimTlb := [(0, [page0 1 true])] }
    s.copiesAt 0 0 = [(0, 0, copyAt)] ∧ (∀ q : Fin 8, q ≠ 0 → s.copiesAt 0 q = []) ∧ tget (s.thread 0).copies 0 = some copyAt ∧ s.mem.wf = true ∧ copyAt.cancelling = false ∧ (∀ u ∈ tkeys s.threads, dieOf u = 0 → ∀ x ∈ (s.thread u).copies, x.2.moving = false) ∧ s.busy (.copy 0 0) = false ∧ s.alone 0x2000 1 ∧ (s.die 0).copyUsed.get 0 < (s.part 0).copyBudget ∧ s.engineAt ⟨.copy 0 0, 0, 0, .supervisor, none, [], none⟩ 0x1000 .load 0x1000 1 ∧
    s.isPoisoned (0x1000 + 127) = false ∧ s.engineAt ⟨.copy 0 0, 0, 0, .supervisor, none, [], none⟩ 0x2000 .store 0x2000 1 ∧
    (let c := { copyAt with deadline := some 0 }; let u := my (fun th => { th with copies := [(0, c), (1, copyAt)] }); u.copiesIn 0 0 (fun _ c => !c.cancelling) = [(0, 0, c), (0, 1, copyAt)] ∧ c.deadline.isSome = true ∧ c.deadline.any (fun dl => decide (dl < u.gtime 0 + (c.remaining * 1000 + (u.part 0).copyBudget - 1) / (u.part 0).copyBudget)) = true) :=
  by
  refine ⟨?_, ?_, ?_, ?_, ?_, ?_, ?_, (alone_of _ (by decide +kernel) _ 1 (by decide) (by decide)).1, ?_, engineAt_of _ _ _ _ _ (page0 1 true) (by decide +kernel), ?_, engineAt_of _ _ _ _ _ (page0 1 true) (by decide +kernel), ?_⟩ <;> decide +kernel
/-- A copy that is done owes its token to a port of I64. -/
theorem test_meets_completion_token : let i : Image := { imageOf [] with chans := [⟨.port 0, .block 0 0, 0, .i64, 4⟩], ports := [⟨false, .i64⟩] }
    let g := { regionOf [] with slots := Vector.replicate 4 (some i) }
    let c : Copy := { copyAt with state := .done, tokenDue := true, desc := leBytes (9 * 2 ^ 320 + 2 ^ 352 + 2 ^ 376) 64 }
    let s := placed g (fun th => { th with copies := [(0, c)] })
    tget (s.thread 0).copies 0 = some c ∧ c.tokenDue = true ∧ c.triple = some (1, 0, (0 : Fin 4).val) ∧ 9 = bytesAt c.desc 40 4 ∧ s.region (rkey (s.partOf 0) 1) = some g ∧ (g.port 0).out = false ∧ g.restored 0 0 = false ∧
    g.uid = c.rgn ∧ (s.core 0).gave < 4 ∧ (s.threadsOn g.part g.die).all (fun u => ((s.thread u).pools.filterMap (fun z => z.2.due) ++ (s.thread u).copies.filterMap (fun z => z.2.due)).all (fun x => decide (0 ≤ x.order))) = true ∧
    ({ g with uid := 7 } : Region).uid ≠ c.rgn ∧ (match s.tryEnter g 0 0 (queuePoint 0 32) ⟨0, 0, 0, c.gen, .i64, 0, 3, (Token.empty.lanes.set 0 9).set 1 (BitVec.ofNat 64 c.status)⟩ with | .enters _ => true | _ => false) = true := by decide +kernel

theorem test_meets_fence : base.me.path = none ∧ base.me.enginesRun = false ∧ (my (fun th => { th with copies := [(0, copyAt)] })).me.enginesRun = true ∧ ¬ ((Scope.sys = .thr ∨ Scope.sys = .rgn) ∧ False) ∧ base.flight = [] ∧ base.pushesEntered base.cur = true ∧ (∃ r ∈ (flying (reqOf (.store 1) 0x100 8)).flight, r.ofThread 0 = true ∧ r.id < (flying (reqOf (.store 1) 0x100 8)).nextId) ∧
    (placed (regionOf []) (fun th => { th with qs := [(2, queueOf false 0 [(tok7, 0, false)])] })).pushesEntered 0 = false := by decide +kernel
/-- A scope whose observers are another thread of the die. -/
theorem test_meets_fence_scope : let s := { flying (reqOf (.store 1) 0x100 8) with threads := [(0, base.me), (1, { Thread.reset with st := .active })] }
    (∃ e ∈ s.threads, e.1 ≠ s.cur ∧ dieOf e.1 = dieOf s.cur ∧ (e.2.st ≠ .off ∨ e.2.enginesRun = true)) ∧ (∃ r ∈ s.flight, r.ofThread s.cur = true ∧ r.performed = false ∧ r.id < s.nextId) ∧ s.me.path = none := by
  exact ⟨⟨(1, { Thread.reset with st := .active }), by simp, by decide +kernel, by decide +kernel, .inl (by decide)⟩, ⟨reqOf (.store 1) 0x100 8, by decide +kernel, by decide +kernel, by decide +kernel, by decide +kernel⟩, by decide +kernel⟩
/-- A new domain's descriptor in memory; a domain that stands, with a clock slot. -/
theorem test_meets_rnddom : let bs := leBytes (0x4000 + 0x80 * 2 ^ 128 + 7 * 2 ^ 192) 32
    let s := { my (fun th => th.setA 1 0x1000) with mem := memWrite [] 0x1000 bs }
    s.me.cur ≠ .worker ∧ bs.length = 32 ∧ s.readable (s.me.getA 1) bs ∧ bytesAt bs 26 6 = 0 ∧ bytesAt bs 24 2 ≤ 4095 ∧ tget (s.part (s.partOf s.cur)).domains (bytesAt bs 24 2) = none ∧ bytesAt bs 0 10 % 128 = 0 ∧ 0 < bytesAt bs 16 8 ∧ bytesAt bs 16 8 % 128 = 0 ∧ (s.part (s.partOf s.cur)).domains = [] :=
  by
  refine ⟨?_, ?_, readable_base _ _ _ 4 (by decide +kernel) (by decide +kernel) (by decide +kernel) (by decide +kernel), ?_⟩ <;> decide +kernel
theorem test_meets_clock_slots : let s := (domained (my (fun th => ((th.setX 1 (2 ^ 63 + 2)).setX 2 1).setX 3 (3 + 0 * 4))))
    (s.me.getX 0).toNat / 2 ^ 28 % 2 ^ 35 = 0 ∧ (s.me.getX 0).toNat / 2 ^ 3 % 2 ^ 13 = 0 ∧ (s.me.getX 2).toNat < 2 ^ 32 ∧ 2 ^ 63 ≤ (s.me.getX 1).toNat ∧ (s.me.getX 1).toNat / 2 ^ 28 % 2 ^ 35 = 0 ∧ tget (s.part (s.partOf s.cur)).domains 0 = some ⟨0, 0x4000, 0, Vector.replicate 4 0⟩ ∧
    ¬ (∃ j : Fin 8, j ≠ 0 ∧ (s.me.dclk.get j).v = true ∧ (s.me.dclk.get j).dom = 0) ∧ (s.me.getX 3).toNat % 4 = 3 ∧ (s.die 0).lost = false ∧ (s.me.wait = none) ∧ (base.onDie 0 (fun d => { d with lost := true }) |>.die 0).lost = true ∧ (let u := my (fun th => { th with wait := some ⟨.until 5, 0, false⟩ }); u.me.wait = some ⟨.until 5, 0, false⟩ ∧ u.tick < 5 ∧ 5 ≤ ({ u with tick := 5 } : State).tick) := by decide +kernel
theorem test_meets_rndadv : let s := domained base
    (s.me.getX 1).toNat < 2 ^ 12 ∧ tget (s.part (s.partOf s.cur)).domains 0 = some ⟨0, 0x4000, 0, Vector.replicate 4 0⟩ ∧ (s.die 0).lost = false ∧ s.me.reply = none ∧ s.me.wait = none ∧ s.flight = [] ∧
    (let u := domained (my (fun th => { th with wait := some ⟨.round 0, 0, false⟩ })); (u.thread 0).wait = some ⟨.round 0, 0, false⟩ ∧ tget (u.part (u.partOf 0)).domains 0 = some ⟨0, 0x4000, 0, Vector.replicate 4 0⟩ ∧ (0 : Nat) ≠ 2 ^ 32 - 1) ∧
    ∀ e : Fin 4, 4097 - 4096 ≤ (Vector.replicate 4 1 : Vector Nat 4).get e := by decide +kernel
/-- A work queue with one published waybill, without and with a claim counter in a tile; a claimed one. -/
def queueBytes (ctl : Nat) : List Byte := leBytes (1 + 0x2000 * 2 ^ 128 + 0x3000 * 2 ^ 256 + 4 * 2 ^ 384 + ctl * 2 ^ 416 + ctl * 2 ^ 480) 64
def waybilled (ctl : Nat) (f : Thread → Thread) : State :=
  { (placed { regionOf [] with mts := [(0, { Mt.new with win := some (0, 128) })] } (fun th => f (th.setA 1 0x1000))).onCore 0 (fun c => { c with tlb := [page0 3 true] }) with mem := memWrite [] 0x1000 (queueBytes ctl) }
theorem readable_page (s : State) (va : Addr) (bs : List Byte) (n mt : Nat) (hm : mt ≠ 4) (hl : bs.length = 8 * n) (ho : s.owesAcq s.cur s.me.acqBar = false) (hw : s.me.walked = [])
    (h : ∀ i < n, ((va + BitVec.ofNat 80 (8 * i)).toNat % 8 = 0 ∧ tlbFind (s.core (coreOf s.cur)).tlb (s.partOf s.cur) (s.me.cur == .firmware) (va + BitVec.ofNat 80 (8 * i)) = some (page0 mt true) ∧
      permOk .load (s.me.cur == .worker) 8 (page0 mt true) = true ∧ s.homeLost (leafPa (page0 mt true) (va + BitVec.ofNat 80 (8 * i))) = false) ∧
      s.overlap s.cur (leafPa (page0 mt true) (va + BitVec.ofNat 80 (8 * i))) 8 = false ∧ s.isPoisoned (leafPa (page0 mt true) (va + BitVec.ofNat 80 (8 * i))) = false ∧
      (bs.drop (8 * i)).take 8 = memBytes s.mem (leafPa (page0 mt true) (va + BitVec.ofNat 80 (8 * i))) 8) : s.readable va bs := by
  refine ⟨by omega, ho, fun i hi => ⟨_, page0 mt true, ?_, hm, (h i (by omega)).2⟩⟩
  obtain ⟨⟨h1, h2, h3, h4⟩, -⟩ := h i (by omega)
  exact ⟨h1, h2, h3, rfl, h4, fun h => by simp at h, by rw [hw]; exact List.not_mem_nil⟩
theorem test_meets_waybills : let s := waybilled 0 id
    (queueBytes 0).length = 64 ∧ s.readable (s.me.getA 1) (queueBytes 0) ∧ s.reaches (s.me.getA 1) .load 8 0x1000 (page0 3 true) ∧ s.me.reply = none ∧ s.me.wait = none ∧ (s.me.getA 1).toNat % 64 = 0 ∧ bytesAt (queueBytes 0) 48 4 = 2 ^ 2 ∧ bytesAt (queueBytes 0) 52 4 = 0 ∧ bytesAt (queueBytes 0) 56 8 = 0 ∧
    s.busy (.area 0) = false ∧ s.me.claims.length < 4 ∧ s.alone 0x1008 3 ∧ s.alone 0x3000 3 ∧ s.reaches (s.me.getA 1 + 8) .atomic 8 0x1008 (page0 3 true) ∧ memRead s.mem 0x1008 8 < bytesAt (queueBytes 0) 0 8 ∧ s.reaches (0x3000 + BitVec.ofNat 80 (16 * (0 % 4))) .store 8 0x3000 (page0 3 true) ∧ s.mem.wf = true := by
  unfold State.reaches
  refine ⟨?_, readable_page _ _ _ 8 3 (by decide) (by decide +kernel) (by decide +kernel) (by decide +kernel) (by decide +kernel), ?_, ?_, ?_, ?_, ?_, ?_, ?_, ?_, ?_, (alone_of _ (by decide +kernel) _ 3 (by decide) (by decide)).1, (alone_of _ (by decide +kernel) _ 3 (by decide) (by decide)).1, ?_⟩
  all_goals decide +kernel
/-- WPULL asked of a tile, answered, and over but for its record; WDONE answered. -/
theorem test_meets_waybill_stages : let w (k : WaitKind) := waybilled 0 (fun th => { th with wait := some ⟨k, 0, false⟩ })
    (∃ z, (w .region).me.wait = some z ∧ z.kind = .region) ∧ (∃ z, (w .drain).me.wait = some z ∧ z.kind = .drain) ∧ (w .drain).busy (.area 0) = false ∧ ({ w .drain with flight := [{ reqOf (.write []) 0x3000 16 with by' := .area 0 }] } : State).busy (.area 0) = true ∧
    (my (fun th => { th with reply := some (0 : Word).toNat })).me.reply = some (0 : Word).toNat ∧ (my (fun th => { th with reply := some (BitVec.allOnes 64).toNat })).me.reply = some (BitVec.allOnes 64).toNat ∧
    (let u := waybilled 0 (fun th => { th with claims := [⟨0x1000, 0, false⟩], reply := some 1 }); u.me.reply = some 1 ∧ 1 < 2 ^ 64 ∧ u.me.claims = [] ++ ⟨0x1000, 0, false⟩ :: [] ∧ u.me.getA 1 = 0x1000 ∧ (u.me.getX 3).toNat = 0) := by
  refine ⟨⟨_, rfl, rfl⟩, ⟨_, rfl, rfl⟩, ?_⟩
  decide +kernel
/-- A WPULL that has asked for an index, with each answer. -/
theorem test_meets_waybill_answers : let w (v : Option Nat) := waybilled 0 (fun th => { th with wait := some ⟨.claim 0 0x2000 0x3000 0x3000 (page0 3 true), 0, false⟩, reply := v })
    (w none).me.wait.map Wait.kind = some (.claim 0 0x2000 0x3000 0x3000 (page0 3 true)) ∧ (w none).busy (.area 0) = false ∧ (w none).me.reply = none ∧ (w (some (2 ^ 65))).me.reply = some (2 ^ 65) ∧ (w (some (2 ^ 64 + 31))).me.reply = some (2 ^ 64 + 31) ∧
    (w (some (2 ^ 64 - 1))).me.reply = some (2 ^ 64 - 1) ∧ (w (some 0)).me.reply = some 0 ∧ (0 : Nat) < 2 ^ 64 - 1 ∧ (w (some 0)).alone 0x3000 3 ∧ (w (some 0)).mem.wf = true := by
  refine ⟨?_, ?_, ?_, ?_, ?_, ?_, ?_, ?_, (alone_of _ (by decide +kernel) _ 3 (by decide) (by decide)).1, ?_⟩ <;> decide +kernel
theorem test_meets_claim_counter : let s := waybilled 1 id
    s.readable (s.me.getA 1) (queueBytes 1) ∧ bytesAt (queueBytes 1) 52 4 = 1 ∧ bytesAt (queueBytes 1) 8 8 = 0 ∧ bytesAt (queueBytes 1) 56 8 = 2 ^ 32 ∧ (s.region (rkey (s.partOf s.cur) 1)).any (fun g => decide (g.die = dieOf s.cur) && (tgetD g.mts 0 Mt.new).windowAhead == some (0, 128)) = true :=
  by
  refine ⟨readable_page _ _ _ 8 3 (by decide) (by decide +kernel) (by decide +kernel) (by decide +kernel) (by decide +kernel), ?_⟩
  decide +kernel
theorem test_meets_closing : let s := { waybilled 0 (fun th => { th with claims := [⟨0x1000, 0, false⟩] }) with mem := memWrite (memWrite [] 0x1000 (queueBytes 0)) 0x300F [1] }
    (s.me.getX 3).toNat < 2 ^ 32 ∧ (⟨0x1000, (s.me.getX 3).toNat, false⟩ : Claim) ∈ s.me.claims ∧ s.me.getA 1 = 0x1000 ∧ s.reaches 0x3000 .atomic 8 0x3000 (page0 3 true) ∧ s.me.reply = none ∧ s.busy (.area 0) = false ∧ s.flight = [] ∧ memRead s.mem 0x3000 8 = 0 ∧ memRead s.mem 0x300F 1 = 1 ∧ s.mem.wf = true := by
  unfold State.reaches; decide +kernel

/-- Pages under a rim tile's translations, one after the other. -/
def pages (n : Nat) : List TlbEntry := (List.range n).map (fun k => { page0 0 true with vpn := k, pa := k * 2 ^ 14 })
theorem pages_at (n : Nat) (s : State) (e : Engine) (k : Nat) (a : AccKind) (ha : a ≠ .fetch ∧ a ≠ .atomic) (hr : s.rimWalks = [])
    (h : ∀ k, k < n → (tlbFind (tgetD s.rimTlb e.rim []) (s.partOf e.t) (e.mode == .firmware) (BitVec.ofNat 80 (2 ^ 14 * k)) = some { page0 0 true with vpn := k, pa := k * 2 ^ 14 } ∧ permOk .load (e.mode == .worker) 8 { page0 0 true with vpn := k, pa := k * 2 ^ 14 } = true ∧
      permOk .store (e.mode == .worker) 8 { page0 0 true with vpn := k, pa := k * 2 ^ 14 } = true ∧ leafPa { page0 0 true with vpn := k, pa := k * 2 ^ 14 } (BitVec.ofNat 80 (2 ^ 14 * k)) = k * 2 ^ 14) ∧ s.homeLost (k * 2 ^ 14) = false ∧ s.isPoisoned (k * 2 ^ 14) = false)
    (hk : k < n) : s.engineAt e (BitVec.ofNat 80 (2 ^ 14 * k)) a (k * 2 ^ 14) 0 := by
  obtain ⟨⟨h1, h2, h3, h4⟩, h5, h6⟩ := h k hk
  refine ⟨_, h1, ?_, h4, rfl, fun _ => rfl, by rw [hr]; exact List.not_mem_nil, h5, h6, by decide⟩
  cases a
  exacts [absurd rfl ha.1, h2, h3, absurd rfl ha.2]
theorem test_meets_contexts : let s := { my (fun th => th.setX 1 (2 ^ 63)) with rimTlb := [(0, pages 6)] }
    let e : Engine := ⟨.area 0, 0, 0, .supervisor, none, [], none⟩
    s.me.st = .active ∧ s.me.wait = none ∧ s.busy (.area 0) = false ∧ s.rimWalks = [] ∧ s.me.cur = .supervisor ∧ (s.me.getX 1).toNat / 2 ^ 32 % 2 ^ 31 = 0 ∧ (s.me.getX 1).toNat.testBit 63 = true ∧ (98304 + 2 ^ 14 - 1) / 2 ^ 14 = 6 ∧ (∀ k, k < 6 → s.engineAt e (BitVec.ofNat 80 (2 ^ 14 * k)) .store (k * 2 ^ 14) 0) ∧ (∀ k, k < 6 → s.engineAt e (BitVec.ofNat 80 (2 ^ 14 * k)) .load (k * 2 ^ 14) 0) ∧
    s.me.qs = [] ∧ s.me.bq = none ∧ s.me.ss = [] ∧ s.me.pools = [] ∧ s.me.copies = [] ∧ s.me.claims = [] ∧ s.me.area.length ≤ 98304 := by
  refine ⟨?_, ?_, ?_, ?_, ?_, ?_, ?_, ?_, ?_, ?_, ?_⟩
  case refine_9 => exact fun k hk => pages_at _ _ _ _ _ (by decide) (by decide +kernel) (by decide +kernel) hk
  case refine_10 => exact fun k hk => pages_at _ _ _ _ _ (by decide) (by decide +kernel) (by decide +kernel) hk
  all_goals decide +kernel
/-- The pages of an area stand alone. -/
theorem test_meets_area_alone : let s := { base with rimTlb := [(0, pages 6)] }
    let l := (List.range 6).map (fun k => k * 2 ^ 14)
    (∀ x ∈ l, x % 2 ^ 14 = 0) ∧ l.Nodup ∧ ∀ j, j < 98304 → let pa := l.getD (j / 2 ^ 14) 0 + j % 2 ^ 14; s.alone pa 0 ∧ s.homeLost pa = false := by
  refine ⟨by decide, by decide, fun j hj => alone_of _ (by decide +kernel) _ 0 ?_ (by decide)⟩
  have : ((List.range 6).map (fun k => k * 2 ^ 14)).getD (j / 2 ^ 14) 0 ≤ 6 * 2 ^ 14 := by
    generalize j / 2 ^ 14 = n
    rcases Nat.lt_or_ge n 6 with h | h
    · simp [List.getD_eq_getElem?_getD, List.getElem?_range h]; omega
    · simp [List.getD_eq_getElem?_getD, h]
  omega
/-- A saved area's headers; a region part that waits. -/
theorem test_meets_area_bytes : bytesAt (leBytes (0x32435853 + 2 ^ 32) 8 ++ List.replicate 224 0 ++ leBytes 98304 8) 0 4 = 0x32435853 ∧ bytesAt (leBytes (0x32435853 + 2 ^ 32) 8 ++ List.replicate 224 0 ++ leBytes 98304 8) 4 2 = 1 ∧
    bytesAt (leBytes (0x32435853 + 2 ^ 32) 8 ++ List.replicate 224 0 ++ leBytes 98304 8) 232 8 = 98304 ∧ ({ regionOf [] with busyWith := some 0 } : Region).atTurn 0 ∧ Region.quiet { regionOf [] with ingress := [], chans := [(0, ⟨[tok7], 0, []⟩)] } 0 = false := by
  refine ⟨?_, ?_, ?_, .inl rfl, ?_⟩ <;> decide +kernel
theorem test_meets_region_context : let g := regionOf [.iadd plainE]
    let s := placed g (fun th => th.setX 1 (2 ^ 16))
    let w := (s.me.getX 1).toNat
    s.me.cur ≠ .worker ∧ w / 2 ^ 32 % 2 ^ 31 = 0 ∧ w / 2 ^ 9 % 8 = 0 ∧ w % 2 ^ 8 = 0 ∧ w.testBit 63 = false ∧ s.region (rkey (s.partOf s.cur) (w / 2 ^ 16 % 2 ^ 16)) = some g ∧ g.die = dieOf s.cur ∧ g.key = rkey (s.partOf s.cur) (w / 2 ^ 16 % 2 ^ 16) ∧ g.w ≤ 12 ∧ g.busyWith = none ∧ (s.me.getA 1).toNat % 2 ^ 14 = 0 ∧
    [0, 1, 2, 3].filter (fun c => g.runs c) = [0] ∧ g.frozen = false ∧ Region.quiet { g with ingress := [] } 0 = true ∧ s.idleCtx g 0 = true ∧ (g.image.map (fun i => i.pkey.toNat)) = some 7 := by decide +kernel
/-- The 88 pages of a region of one bogie. -/
theorem test_meets_region_pages : let s := { base with rimTlb := [(0, pages 88)] }
    131072 + 2 ^ 14 * (16 * 1 * 1) + 524288 * (2 * 1 * 1) = 2 ^ 14 * 88 ∧ ∀ k, k < 88 → s.engineAt ⟨.area 0, 0, 0, .supervisor, none, [], none⟩ (BitVec.ofNat 80 (2 ^ 14 * k)) .store (k * 2 ^ 14) 0 :=
  ⟨by decide, fun k hk => pages_at 88 _ _ _ _ (by decide) (by decide +kernel) (by decide +kernel) hk⟩
/-- Memory that holds a thread's saved area on the six pages under page 0's translations. -/
def savedState (v : Thread) : State := { my (fun th => th.setX 1 (2 ^ 63)) with rimTlb := [(0, pages 6)], mem := memWrite [] 0 v.area }
theorem map_range_padded (n : Nat) (f : Nat → Byte) (bs : List Byte) (h : bs.length ≤ n) (hf : ∀ j (hj : j < bs.length), f j = bs[j]) (hz : ∀ j, bs.length ≤ j → f j = 0) :
    (List.range n).map f = bs ++ List.replicate (n - bs.length) 0 := by
  refine List.ext_getElem (by simp; omega) (fun j hj _ => ?_)
  rw [List.getElem_map, List.getElem_range]
  rcases Nat.lt_or_ge j bs.length with hl | hl
  · rw [List.getElem_append_left hl, hf j hl]
  · rw [List.getElem_append_right hl, List.getElem_replicate, hz j hl]
theorem map_page_places (n : Nat) (f : Nat → Byte) (h : n ≤ 6 * 2 ^ 14) :
    (List.range n).map (fun j => f (([0, 2 ^ 14, 2 * 2 ^ 14, 3 * 2 ^ 14, 4 * 2 ^ 14, 5 * 2 ^ 14] : List Nat).getD (j / 2 ^ 14) 0 + j % 2 ^ 14)) = (List.range n).map f := by
  refine List.map_congr_left (fun j hj => congrArg f ?_)
  have hq : j / 2 ^ 14 < 6 := by have := List.mem_range.mp hj; omega
  have e : ∀ q : Nat, q < 6 → ([0, 2 ^ 14, 2 * 2 ^ 14, 3 * 2 ^ 14, 4 * 2 ^ 14, 5 * 2 ^ 14] : List Nat).getD q 0 = q * 2 ^ 14 := by decide
  rw [e _ hq]; omega
theorem test_meets_saved_bytes (v : Thread) (h : v.area.length ≤ 98304) :
    (List.range 98304).map (fun j => memByte (savedState v).mem (([0, 2 ^ 14, 2 * 2 ^ 14, 3 * 2 ^ 14, 4 * 2 ^ 14, 5 * 2 ^ 14] : List Nat).getD (j / 2 ^ 14) 0 + j % 2 ^ 14)) =
      v.area ++ List.replicate (98304 - v.area.length) 0 := by
  rw [show (savedState v).mem = memWrite [] 0 v.area by simp only [savedState]]
  generalize hb : v.area = bs at h ⊢
  rw [map_page_places 98304 (memByte (memWrite [] 0 bs)) (by norm_num)]
  refine map_range_padded _ _ _ h (fun j hj => by simpa using memByte_memWrite (m := []) rfl 0 bs j hj) (fun j hj => ?_)
  rw [memByte_memWrite_other [] 0 bs (.inr (by omega))]; rfl
theorem test_meets_saved_holdings : let v := Thread.reset
    let s := savedState v
    s.me.cur ≠ .worker ∧ (s.me.getX 1).toNat = 2 ^ 63 ∧ (s.me.getA 1).toNat = 0 ∧ s.me.st = .active ∧ s.me.wait = none ∧ s.flight = [] ∧ s.rimWalks = [] ∧ s.poison = [] ∧ s.me.qs = [] ∧ s.me.bq = none ∧ s.me.ss = [] ∧ s.me.pools = [] ∧ s.me.copies = [] ∧ s.me.claims = [] ∧ v.claims = [] ∧
    v.area.length ≤ 98304 ∧ v.qs = [] ∧ v.ss = [] ∧ ∀ k, k < 6 → s.engineAt ⟨.area 0, 0, 0, .supervisor, none, [], none⟩ (BitVec.ofNat 80 (2 ^ 14 * k)) .load (k * 2 ^ 14) 0 := by
  refine ⟨?_, ?_, ?_, ?_, ?_, ?_, ?_, ?_, ?_, ?_, ?_, ?_, ?_, ?_, ?_, ?_, ?_, ?_, fun k hk => pages_at 6 _ _ _ _ (by decide) (by decide +kernel) (by decide +kernel) hk⟩ <;> decide +kernel
/-- A region of one bogie whose forced swap finds it shut and quiet, and the pages and the bytes of its save. -/
def swapping : Region := { regionOf [] with closedPorts := [(0, 0)], swap := some ⟨0, false, 1, some 0, [], none⟩ }
theorem test_meets_forced_swap : let s := { placed swapping id with rimTlb := [(0, pages 88)] }
    s.region 1 = some swapping ∧ swapping.key = 1 ∧ swapping.frozen = false ∧ swapping.trigger = none ∧ (∀ k, k < 4 → Region.quiet { swapping with ingress := [] } k = true) ∧ (∀ k, k < 4 → swapping.runs k = true → (0, k) ∈ swapping.closedPorts) ∧ s.rimWalks = [] ∧ s.mem.wf = true ∧
    ∀ k, k < 88 → s.engineAt ⟨.area 0, 0, 0, .supervisor, none, [], none⟩ (BitVec.ofNat 80 (2 ^ 14 * k)) .store (k * 2 ^ 14) 0 := by
  refine ⟨?_, ?_, ?_, ?_, ?_, ?_, ?_, ?_, fun k hk => pages_at 88 _ _ _ _ (by decide) (by decide +kernel) (by decide +kernel) hk⟩ <;> decide +kernel
theorem test_meets_rqbind : let bs := leBytes (2 * 2 ^ 176 + 9 * 2 ^ 192) 64
    let s := (paged 0x1D0 4 { queued (queueOf false 0 []) with mem := memWrite [] 0x1000 bs }).onMe (fun th => th.setA 1 0x1000)
    s.me.cur ≠ .worker ∧ tget s.me.qs (2 : Fin 32).val = some (queueOf false 0 []) ∧ bs.length = 64 ∧ s.readable (s.me.getA 1) bs ∧ bytesAt bs 23 1 = 0 ∧ bytesAt bs 28 36 = 0 ∧ bytesAt bs 22 1 < 16 ∧ (s.part (s.partOf s.cur)).fld 0x1D0 15 0 / 2 ^ bytesAt bs 22 1 % 2 = 1 ∧ bytesAt bs 16 4 = 0 :=
  ⟨by decide +kernel, by decide +kernel, by decide +kernel, readable_base _ _ _ 8 (by decide +kernel) (by decide +kernel) (by decide +kernel) (by decide +kernel), by decide +kernel⟩
/-- A receive end's ring of 2,048 entries on 32 pages. -/
theorem test_meets_rqbind_ring : let s := (queued (queueOf true 0 [])).onCore 0 (fun c => c)
    let u := { s with rimTlb := [(0, (pages 32).map (fun e : TlbEntry => { e with mt := 3 }))] }
    (queueOf true 0 []).out = true ∧ 0 % 2 ^ 14 = 0 ∧ 2 ^ 11 * 256 / 2 ^ 14 = 32 ∧ u.me.wait = none ∧ u.rimWalks = [] ∧ ∀ k, k < 32 → u.engineAt ⟨.area 0, 0, 0, .supervisor, none, [], none⟩ (BitVec.ofNat 80 0 + BitVec.ofNat 80 (2 ^ 14 * k)) .store (k * 2 ^ 14) 3 := by
  refine ⟨rfl, rfl, rfl, by decide +kernel, by decide +kernel, fun k hk => engineAt_of _ _ _ _ _ { page0 3 true with vpn := k, pa := k * 2 ^ 14 } ?_⟩
  revert k; decide +kernel

/-- Partition 1 names a bogie and core 1; partition 0 runs. -/
def second : State := base.onPart 1 (fun p => (p.setReg 0x200 2).setReg 0x1E0 2)
theorem test_meets_partitions : (second.part 1).state = .stopped ∧ (base.part 0).state = .running ∧ (∃ c, c < 192 ∧ (base.part 0).hasCore c = true) ∧ (∀ c, c < 192 → (State.reset.part 2).hasCore c = false) ∧ sortedKeys base.regions = true ∧ base.regions = [] ∧ base.me.claims = [] ∧
    (let s := base.onPart 0 (fun p => { p with state := .stopping }); (s.part 0).state = .stopping ∧ s.threads.all (fun e => e.2.claims.isEmpty) = true ∧ s.flight = []) := by
  refine ⟨?_, ?_, ⟨0, ?_⟩, ?_⟩ <;> decide +kernel
theorem test_meets_partition_start : (second.part 1).hasCore 1 = true ∧ (∀ o : Fin 8, o ≠ 1 → (second.part o).state ≠ .stopped → o = 0) ∧ (∀ d, d < 4 → ∀ n, n < 144 → ¬ ((second.part 1).hasBogie d n = true ∧ (second.part 0).hasBogie d n = true)) ∧
    (∀ c, c < 192 → ¬ ((second.part 1).hasCore c = true ∧ (second.part 0).hasCore c = true)) ∧ (second.part 1).reg 0x1D0 = 0 ∧ second.fenced = [] ∧ ∀ d : Fin 4, (second.die d).absent = false := by decide +kernel
theorem test_meets_gangs : let s := { paged 0x390 1 (paged 0x380 (2 ^ 24 + 2 ^ 8 + 1 + 5 * 2 ^ 32) base) with sync := true }
    let u := paged 0x390 2 s
    (s.part 0).reg 0x390 % 8 = 1 ∧ (s.part 0).reg 0x380 % 2 = 1 ∧ (s.part 0).reg 0x380 / 2 ^ 64 ≤ s.gtime 0 ∧ s.sync = true ∧ (u.part 0).reg 0x390 % 8 = 2 ∧ (u.part 0).joinedHere = false ∧ (3 : BitVec 16) ∉ (u.part 0).joinedFrom ∧ (u.part 0).reg 0x380 / 2 ^ 32 % 2 ^ 32 ≠ 0 ∧
    ((u.part 0).reg 0x390 / 2 ^ 40 % 2 ^ 8 + 1) % 2 ^ 8 = (u.part 0).reg 0x380 / 2 ^ 24 % 2 ^ 8 ∧ 0 + 5 ≤ ({ u with dies := u.dies.set 0 { Die.reset with gtime := 9 } } : State).gtime 0 := by decide +kernel
/-- A start whose first image is signed: what the opaque vendor key has signed the witness takes as given. One whose firmware is left out. -/
theorem test_meets_module_start (sig img : List Byte) (h : xmssVerify (beBytes Config.vendorRoot.toNat 32) (beBytes Config.vendorSeed.toNat 32) sig img = true) :
    let o : BootOutcome := ⟨⟨img, sig⟩, ⟨[], []⟩, [(3, 7), (6, 2)], [], 4, 4, [], [(6, 3, 2)]⟩
    let b : Boot := { Boot.reset with starts := 1 }
    b.path 1 0 = .normal ∧ xmssVerify (beBytes Config.vendorRoot.toNat 32) (beBytes Config.vendorSeed.toNat 32) o.slotA.signature o.slotA.bytes = true ∧ b.minidx.toNat ≤ ofBe (o.slotA.signature.take 4) ∧ (3, 8) ∉ o.failNormal ∧ (3, 7) ∈ o.failNormal ∧
    ({ b with paths := [(pathKey 1 0, 2)] } : Boot).path 1 0 = .skipped := by
  refine ⟨by decide +kernel, h, by simp [Boot.reset], ?_⟩
  simp; decide +kernel
theorem test_meets_loss : let r := reqOf (.store 7) 0x100 8
    let s := flying r
    (s.die (homeDie r.pa)).lost = false ∧ (s.die (homeDie r.pa)).absent = false ∧ s.flight = [r] ∧ r.id = 1 ∧ r.stage = .sent ∧ r.by' = .thread 0 ∧ (homeTile r.pa).isSome = true ∧ (s.thread 0).st = .active ∧ tget s.threads 0 = some (s.thread 0) ∧ sortedKeys s.threads = true ∧
    s.threads.all (fun e => e.2.claims.isEmpty && e.2.pools.isEmpty && e.2.copies.isEmpty && e.2.ss.isEmpty) = true ∧ (∃ d : Fin 4, homeDie r.pa ≠ d) := by
  decide +kernel
theorem test_meets_register_write : prange (0x1F0000001000000 + (2 : Fin 8).val * 0x10000 + 0x100 + 16 * 1) = .device ∧ prange 0x100 ≠ .device := by decide +kernel
theorem test_meets_encodings : (Instr.add 1 2 3).wellFormed = true ∧ encodeA (.add 1 2 3) = some 0x04221800 ∧ (Instr.iadd plainE).wellFormed = true ∧ (encodeE (.iadd plainE)).isSome = true := by decide +kernel
theorem test_meets_canonical_step : base.mem.wf = true ∧ (match step base with | .next t => t.mem.wf | _ => false) = true := by decide +kernel

/-! Single steps; what is expected is worked out by hand from the rules named -/

/-- Addition wraps; the pc moves on by 4. -/
theorem test_add_wraps : gives (.add 3 1 2) (my (fun th => (th.setX 1 (-1)).setX 2 2)) (fun t => t.me.getX 3 == 1 && t.me.pc == 4) = true := by decide +kernel
/-- x0 reads as zero, and writes to it are discarded. -/
theorem test_x0 : gives (.addi 0 0 7) base (fun t => t.me.getX 0 == 0 && t.me.pc == 4) = true := by decide +kernel
/-- A shift amount is taken modulo 64; an arithmetic shift keeps the sign. -/
theorem test_shift : gives (.sll 3 1 2) (my (fun th => (th.setX 1 1).setX 2 65)) (fun t => t.me.getX 3 == 2) = true ∧ gives (.sra 3 1 2) (my (fun th => (th.setX 1 (-8)).setX 2 1)) (fun t => t.me.getX 3 == -4) = true := by decide +kernel
/-- A branch that is taken goes to its own address plus four times its offset (R92). -/
theorem test_branch : gives (.beq 1 2 (-1)) (my (fun th => { th with pc := 8 })) (fun t => t.me.pc == 4) = true ∧ gives (.bne 1 2 (-1)) (my (fun th => { th with pc := 8 })) (fun t => t.me.pc == 12) = true := by decide +kernel
/-- 1 + 1 in binary64 and the flag of 1 / 3. -/
theorem test_fp : gives (.fadd 3 1 1 .rne .f64) (my (fun th => th.setX 1 0x3FF0000000000000)) (fun t => t.me.getX 3 == 0x4000000000000000) = true ∧
    gives (.fdiv 3 1 2 .rne .f64) (my (fun th => (th.setX 1 0x3FF0000000000000).setX 2 0x4008000000000000)) (fun t => t.me.getX 3 == 0x3FD5555555555555 && t.me.flags == NX) = true := by decide +kernel
/-- A turn of a thread runs one instruction and ends. -/
theorem test_turn : (match step base with | .next t => t.me.pc == 4 && t.turn == .idle | _ => false) = true := by decide +kernel
/-- A load goes on its way, and its thread goes on. -/
theorem test_load_sent : gives (.ld 3 1 .d .normal 0) base (fun t => t.flight.length == 1 && t.me.pc == 4 && t.me.getX 3 == 0) = true := by decide +kernel
/-- A reserved opcode traps. -/
theorem test_reserved_traps : (match step (State.reset.withFetchWord 32 0) with | .next t => t.me.code != 0 && t.me.epc == 0 | _ => false) = true := by decide +kernel
/-- One lane of an element addition on 32 bits: 7 + 7, the other lanes invalid. -/
theorem test_element_add : let rd := roundOf .ordinary [(0, .l, { tok7 with lanes := Token.empty.lanes.set 0 7 }), (0, .r, { tok7 with lanes := Token.empty.lanes.set 0 7 })] []
    let e : EWord := { plainE with t1 := .to 1 .l }
    gives (.iadd e) (working [.iadd e] rd) (fun t => (t.region 1).any (fun r => (r.ce 0).rounds.any (fun rd => rd.inFlight.any (fun v => v.1 == 1 && v.2.1 == 1 && v.2.2.2.lanes.get 0 == 14 && v.2.2.2.valid == 1)))) = true := by decide +kernel
/-- A gather of lanes 0 and 1 (indices 0 and 7) of 32-bit elements, both at once. -/
theorem test_gather : let q := laneReq 0 (BitVec.ofNat 64 (EType.i32.code * 2 ^ 20))
    let m := { Mt.new with queue := [q], scratch := memWrite (memWrite [] 0 (leBytes 5 4)) 28 (leBytes 6 4) }
    gives (.mtBankAccess 1 0) (placed (tiled m) id) (fun t => (t.region 1).any (fun r => (tget r.mts 0).any (fun m => m.queue.any (fun q => q.todo == [] && q.resp.lanes.get 0 == 5 && q.resp.lanes.get 1 == 6)))) = true := by decide +kernel
/-- A store at its home leaves its bytes, lowest first. -/
theorem test_store_at_home : gives (.storeAtHome 1) (flying (reqOf (.store 0x0102) 0x100 8)) (fun t => memByte t.mem 0x100 == 2 && memByte t.mem 0x101 == 1 && t.mem.wf) = true := by decide +kernel

end Sys2Proof.Tests
end

section
/-!
PROOF. Floating-point instructions of access threads retire with their flags or trap before they write (R37, R38, R108, R118).
-/
namespace Sys2Proof.Machine

section FpInstructions
variable {s : State}

/-! ### The meanings of the FP instructions -/

theorem exec_fadd (d p q : Fin 32) (rm : FpRm) (f : FpFmt) : exec (.fadd d p q rm f) s = execFadd d p q rm f s := rfl
theorem exec_fsub (d p q : Fin 32) (rm : FpRm) (f : FpFmt) : exec (.fsub d p q rm f) s = execFsub d p q rm f s := rfl
theorem exec_fmul (d p q : Fin 32) (rm : FpRm) (f : FpFmt) : exec (.fmul d p q rm f) s = execFmul d p q rm f s := rfl
theorem exec_fdiv (d p q : Fin 32) (rm : FpRm) (f : FpFmt) : exec (.fdiv d p q rm f) s = execFdiv d p q rm f s := rfl
theorem exec_fsqrt (d p : Fin 32) (rm : FpRm) (f : FpFmt) : exec (.fsqrt d p rm f) s = execFsqrt d p rm f s := rfl
theorem exec_fma (d p q : Fin 32) (rm : FpRm) (f : FpFmt) : exec (.fma d p q rm f) s = execFma d p q rm f s := rfl
theorem exec_fmin (d p q : Fin 32) (f : FpFmt) : exec (.fmin d p q f) s = execFmin d p q f s := rfl
theorem exec_fmax (d p q : Fin 32) (f : FpFmt) : exec (.fmax d p q f) s = execFmax d p q f s := rfl
theorem exec_fcmp (d p q : Fin 32) (c : FpCond) (f : FpFmt) : exec (.fcmp d p q c f) s = execFcmp d p q c f s := rfl
theorem exec_fcvt (d p : Fin 32) (e : EType) (v : Bool) (rm : FpRm) (f : FpFmt) :
    exec (.fcvt d p e v rm f) s = execFcvt d p e v rm f s := rfl
theorem exec_fclass (d p : Fin 32) (f : FpFmt) : exec (.fclass d p f) s = execFclass d p f s := rfl

/-! ### When an FP instruction may issue, and what it then does -/

/-- An FP instruction is not held back where no enable is set, or no likely path is open and no result is owed (R108). -/
theorem Thread.fpHeld_eq_none {th : Thread} (h : th.en ≠ 0 → th.path = none ∧ th.ahead = []) : th.fpHeld = none := by
  unfold Thread.fpHeld
  split
  · rfl
  · next hen =>
    obtain ⟨hpath, hahead⟩ := h hen
    simp [hpath, hahead]

/-- With no likely path open a synchronous cause is taken at once (R86). -/
theorem State.trapSync_of_path_none (hpath : s.me.path = none) (code : Nat) (tval : Word) :
    s.trapSync code tval = s.enterTrap s.cur code false tval s.me.pc := by
  simp [State.trapSync, hpath]

/-- Adding flags, writing an x register and moving on leaves everything else of the thread alone. -/
theorem Thread.sameButX_addFlags (th : Thread) (d : Fin 32) (v : Word) (fl : BitVec 7) :
    th.sameButX { ({ th with flags := th.flags ||| fl }.setX d v).advance with flags := th.flags } := by
  unfold Thread.setX
  split <;> rfl

/-- A result none of whose flags is enabled retires (R38). -/
theorem State.givesFp_of_fpRetire {i : Instr} {d : Fin 32} {r : Res} (hexec : exec i s = .next (s.fpRetire d r))
    (hheld : s.me.fpHeld = none) (hflags : r.flags &&& s.me.en = 0) : s.givesFp i d r := by
  have hret : s.fpRetire d r =
      s.onMe (fun th => ({ th with flags := th.flags ||| r.flags }.setX d (BitVec.ofNat 64 r.bits)).advance) := by
    simp [State.fpRetire, hheld, hflags]
  refine ⟨_, hexec.trans (congrArg _ hret), s.sameButMe_onMe _, s.sameMemory_onMe _, ?_, ?_, ?_, ?_, fun q => ?_⟩ <;>
    rw [s.me_onMe]
  · exact s.me.sameButX_addFlags d _ _
  · exact Thread.setX_flags _ d _
  · exact congrArg (· + 4) (Thread.setX_pc _ d _)
  · rfl
  · exact Thread.getX_setX _ d q _

/-- A result with an enabled flag traps with FP_EXCEPTION, its flags in sr.tval, and writes nothing (R38). -/
theorem State.traps_of_fpRetire {i : Instr} {d : Fin 32} {r : Res} (hexec : exec i s = .next (s.fpRetire d r))
    (hheld : s.me.fpHeld = none) (hpath : s.me.path = none) (hflags : r.flags &&& s.me.en ≠ 0) :
    s.traps i 0x0E (BitVec.ofNat 64 r.flags.toNat) := by
  have htrap : s.fpRetire d r = s.trapSync 0x0E (BitVec.ofNat 64 r.flags.toNat) := by
    simp only [State.fpRetire, hheld, bne_iff_ne, ne_eq, hflags, not_false_eq_true, if_true]
  rw [State.traps, hexec, htrap, State.trapSync_of_path_none hpath]

/-- An FP instruction that ends in `fpRetire` and may issue gives its result or traps by its flags. -/
theorem State.givesFp_or_traps {i : Instr} {d : Fin 32} {r : Res} (hexec : exec i s = .next (s.fpRetire d r))
    (hfree : s.me.en ≠ 0 → s.me.path = none ∧ s.me.ahead = []) :
    (r.flags &&& s.me.en = 0 → s.givesFp i d r) ∧ (r.flags &&& s.me.en ≠ 0 → s.traps i 0x0E (BitVec.ofNat 64 r.flags.toNat)) := by
  have hheld := Thread.fpHeld_eq_none hfree
  refine ⟨State.givesFp_of_fpRetire hexec hheld, fun hflags => ?_⟩
  have hen : s.me.en ≠ 0 := fun h0 => hflags (by simp [h0])
  exact State.traps_of_fpRetire hexec hheld (hfree hen).1 hflags

/-- The same for an instruction that rounds, in the mode its field and sr.frm name (R37). -/
theorem State.givesFp_or_traps_of_rounded {i : Instr} {d : Fin 32} {rm : FpRm} {m : Rm} {g : Rm → Thread → Res} {r : Res}
    (hexec : exec i s = fpRounded i d rm g s) (hm : fpMode rm s.me.frm = some m)
    (hfree : s.me.en ≠ 0 → s.me.path = none ∧ s.me.ahead = []) (hr : g m s.me = r) :
    (r.flags &&& s.me.en = 0 → s.givesFp i d r) ∧ (r.flags &&& s.me.en ≠ 0 → s.traps i 0x0E (BitVec.ofNat 64 r.flags.toNat)) := by
  refine State.givesFp_or_traps (hexec.trans ?_) hfree
  simp [fpRounded, Thread.fpHeld_eq_none hfree, hm, hr]

/-! ### Reserved rounding modes (R37) -/

/-- The values 101, 110 and 111 of sr.frm name no mode. -/
theorem fpMode_dyn_eq_none {frm : BitVec 3} (h : 5 ≤ frm.toNat) : fpMode .dyn frm = none := by
  have hfrm : frm.toNat = 5 ∨ frm.toNat = 6 ∨ frm.toNat = 7 := by omega
  rcases hfrm with h5 | h6 | h7 <;> simp only [fpMode, *]

/-- A dynamic rounding field under a reserved sr.frm is illegal: the instruction traps with its word and writes nothing. -/
theorem State.traps_of_reserved_frm {i : Instr} {d : Fin 32} {g : Rm → Thread → Res} {w : Nat} (hexec : exec i s = fpRounded i d .dyn g s)
    (hfrm : 5 ≤ s.me.frm.toNat) (hpath : s.me.path = none) (hahead : s.me.en ≠ 0 → s.me.ahead = []) (hw : encodeA i = some w) :
    s.traps i 0x01 (BitVec.ofNat 64 w) := by
  have hheld : s.me.fpHeld = none := Thread.fpHeld_eq_none fun hen => ⟨hpath, hahead hen⟩
  refine hexec.trans ?_
  simp [fpRounded, hheld, fpMode_dyn_eq_none hfrm, State.illegal, State.trapSync_of_path_none hpath, encode, hw]

end FpInstructions

end Sys2Proof.Machine

namespace Sys2Proof

/-! ### The rounding field of an FP word -/

theorem FpRm.code_ne_reserved (rm : FpRm) : rm.code < 8 ∧ rm.code ≠ 5 ∧ rm.code ≠ 6 := by
  cases rm <;> decide

theorem FpFmt.code_lt (f : FpFmt) : f.code < 2 := by
  cases f <;> decide

/-- No instruction of the Fp group is encoded with a rounding field of 101 or 110 (R37): the field holds the code of a mode, or zero. -/
theorem roundingField_of_pickFp {v w : Nat} {i : Instr} (hi : pickFp v = some i) (hw : encodeA i = some w) :
    w / 2 ^ 6 % 8 ≠ 5 ∧ w / 2 ^ 6 % 8 ≠ 6 := by
  have hfmt := (FpFmt.ofCode (fld v 4 2)).code_lt
  have hrm := (FpRm.ofCode (fld v 6 3)).code_ne_reserved
  unfold pickFp at hi
  -- one arm per selector: the seven rounding forms hold a mode's code in the field, FMIN, FMAX, FCMP and FCLASS hold zero
  split at hi <;> cases hi <;> cases hw <;> omega

/-- A word of the Fp major opcode is picked from that group (R54). -/
theorem pickA_fp {w : Nat} (h : w / 2 ^ 26 = 0x0F) : pickA w = pickFp w := by
  have hmajor : fld w 26 6 = 15 := by rw [fld]; omega
  simp only [pickA, hmajor]

/-- What the decoder accepts is the instruction picked, and encodes to the word. -/
theorem pickA_of_decodeA {w : Nat} {i : Instr} (h : decodeA w = .ok i) : pickA w = some i ∧ encodeA i = some w := by
  cases hpick : pickA w with
  | none => simp [decodeA, accept, hpick] at h
  | some j =>
    simp only [decodeA, accept, hpick] at h
    split_ifs at h with henc
    cases h
    exact ⟨rfl, not_not.mp henc⟩

/-- An FP word with the rounding field 101 or 110 is a reserved encoding. -/
theorem decodeA_reserved_rounding {w : Nat} (hmajor : w / 2 ^ 26 = 0x0F) (hrm : w / 2 ^ 6 % 8 = 5 ∨ w / 2 ^ 6 % 8 = 6) :
    ∃ r, decodeA w = .error r := by
  cases h : decodeA w with
  | error r => exact ⟨r, rfl⟩
  | ok i =>
    obtain ⟨hpick, henc⟩ := pickA_of_decodeA h
    obtain ⟨h5, h6⟩ := roundingField_of_pickFp (pickA_fp hmajor ▸ hpick) henc
    exact absurd hrm (not_or.mpr ⟨h5, h6⟩)

end Sys2Proof

section
open Sys2Proof Sys2Proof.Machine

/-- Settles O4: an instruction that may issue reaches `fpRetire` with its result, a reserved sr.frm reaches `State.illegal`, and no encoding holds a
reserved rounding field. -/
theorem fpInstructionsRetireOrTrap : Obligations.FpInstructionsRetireOrTrap := by
  unfold Obligations.FpInstructionsRetireOrTrap
  refine ⟨?_, ?_, fun w _ => decodeA_reserved_rounding⟩
  · intro s d p q rm m f c e v hm hfree x
    simp only [List.forall_mem_cons]
    exact ⟨State.givesFp_or_traps_of_rounded (exec_fadd d p q rm f) hm hfree rfl, State.givesFp_or_traps_of_rounded (exec_fsub d p q rm f) hm hfree rfl,
      State.givesFp_or_traps_of_rounded (exec_fmul d p q rm f) hm hfree rfl, State.givesFp_or_traps_of_rounded (exec_fdiv d p q rm f) hm hfree rfl,
      State.givesFp_or_traps_of_rounded (exec_fsqrt d p rm f) hm hfree rfl, State.givesFp_or_traps_of_rounded (exec_fma d p q rm f) hm hfree rfl,
      State.givesFp_or_traps (exec_fmin d p q f) hfree, State.givesFp_or_traps (exec_fmax d p q f) hfree,
      State.givesFp_or_traps (exec_fcmp d p q c f) hfree, State.givesFp_or_traps (exec_fclass d p f) hfree,
      State.givesFp_or_traps_of_rounded (exec_fcvt d p e v rm f) hm hfree rfl, List.forall_mem_nil _⟩
  · intro s d p q f e v hfrm hpath hahead _
    simp only [List.forall_mem_cons]
    exact ⟨⟨_, rfl, State.traps_of_reserved_frm (exec_fadd d p q .dyn f) hfrm hpath hahead rfl⟩,
      ⟨_, rfl, State.traps_of_reserved_frm (exec_fsub d p q .dyn f) hfrm hpath hahead rfl⟩,
      ⟨_, rfl, State.traps_of_reserved_frm (exec_fmul d p q .dyn f) hfrm hpath hahead rfl⟩,
      ⟨_, rfl, State.traps_of_reserved_frm (exec_fdiv d p q .dyn f) hfrm hpath hahead rfl⟩,
      ⟨_, rfl, State.traps_of_reserved_frm (exec_fsqrt d p .dyn f) hfrm hpath hahead rfl⟩,
      ⟨_, rfl, State.traps_of_reserved_frm (exec_fma d p q .dyn f) hfrm hpath hahead rfl⟩,
      ⟨_, rfl, State.traps_of_reserved_frm (exec_fcvt d p e v .dyn f) hfrm hpath hahead rfl⟩, List.forall_mem_nil _⟩

end
end

section
/-!
PROOF. What a fetch finds, and what traps or holds the fetched instruction in issue (R58, R82, R88, R97, R107, R144).
-/
namespace Sys2Proof.Machine

/-! ### Bytes of memory and of copies -/

theorem memBytes_drop (m : Memory) (a n k : Nat) : (memBytes m a n).drop k = memBytes m (a + k) (n - k) := by
  induction k generalizing a n with
  | zero => simp
  | succ k ih =>
    cases n with
    | zero => simp [memBytes]
    | succ n => rw [memBytes, List.drop_succ_cons, ih, Nat.add_sub_add_right, Nat.add_right_comm, Nat.add_assoc]

theorem memBytes_take (m : Memory) (a : Nat) {n k : Nat} (h : k ≤ n) : (memBytes m a n).take k = memBytes m a k := by
  induction k generalizing a n with
  | zero => rfl
  | succ k ih =>
    obtain ⟨n, rfl⟩ : ∃ j, n = j + 1 := ⟨n - 1, by omega⟩
    rw [memBytes, List.take_succ_cons, ih _ (by omega), memBytes]

/-- A copy of a whole line of memory holds, at an aligned word, the word's bytes. -/
theorem copyBytes_of_line {m : Memory} {c : L1Line} {pa : Nat} (hdata : c.data = memBytes m (lineOf pa * 128) 128) (hpa : pa % 4 = 0) :
    copyBytes c pa 4 = memBytes m pa 4 := by
  have haddr : lineOf pa * 128 + pa % 128 = pa := by unfold lineOf; omega
  rw [copyBytes, hdata, memBytes_drop, memBytes_take _ _ (by omega), haddr]

/-- The line placed last is the one found. -/
theorem l1Find_l1Insert_same (cap : Nat) (l : List L1Line) (e : L1Line) (ctr : Nat) : l1Find (l1Insert cap l e ctr) e.line = some e := by
  have hhead : ∀ r, l1Find (e :: r) e.line = some e := fun r => List.find?_cons_of_pos (by simp)
  unfold l1Insert
  dsimp only
  split
  · exact hhead _
  · split <;> exact hhead _

/-! ### What bringing a line of code leaves alone -/

/-- What a fetch reads besides the caches stands: the executing thread, memory, and every request on its way but loads, whose fills may be withdrawn. -/
structure State.KeepsCode (s t : State) : Prop where
  cur : t.cur = s.cur
  mem : t.mem = s.mem
  flight : ∀ q ∈ t.flight, q.isLoad = false → q ∈ s.flight

theorem State.KeepsCode.refl (s : State) : s.KeepsCode s := ⟨rfl, rfl, fun _ hq _ => hq⟩

theorem State.KeepsCode.trans {s t v : State} (h : s.KeepsCode t) (h' : t.KeepsCode v) : s.KeepsCode v :=
  ⟨h'.cur.trans h.cur, h'.mem.trans h.mem, fun q hq hl => h.flight q (h'.flight q hq hl) hl⟩

/-- A change of neither the executing thread nor memory nor requests. -/
theorem State.KeepsCode.of_eq {s t : State} (hcur : t.cur = s.cur) (hmem : t.mem = s.mem) (hflight : t.flight = s.flight) : s.KeepsCode t :=
  ⟨hcur, hmem, fun _ hq _ => hflight ▸ hq⟩

theorem State.KeepsCode.foldl {α : Type} {f : State → α → State} (hf : ∀ (s : State) x, s.KeepsCode (f s x)) (l : List α) (s : State) :
    s.KeepsCode (l.foldl f s) := by
  induction l generalizing s with
  | nil => exact .refl s
  | cons x l ih => exact (hf s x).trans (ih (f s x))

/-- Withdrawing a fill changes loads into loads and nothing else. -/
theorem unfillReq_of_not_load {p : Req → Bool} {r : Req} (h : (unfillReq p r).isLoad = false) : unfillReq p r = r := by
  unfold unfillReq at h ⊢
  split
  · split <;> simp_all [Req.isLoad]
  · rfl

variable (s : State)

theorem State.keepsCode_touchL2 (pa : Nat) (b : Bool) : s.KeepsCode (s.touchL2 pa b) := by
  unfold State.touchL2
  split
  · exact .refl s
  · exact .of_eq rfl rfl rfl

theorem State.keepsCode_dropCopies (die line : Nat) (sel : CopyKind → Bool) : s.KeepsCode (s.dropCopies die line sel) := by
  refine ⟨rfl, rfl, fun q hq hl => ?_⟩
  obtain ⟨r, hr, rfl⟩ := List.mem_map.mp hq
  rwa [unfillReq_of_not_load hl]

theorem State.keepsCode_onDie (d : Fin 4) (f : Die → Die) : s.KeepsCode (s.onDie d f) := .of_eq rfl rfl rfl

theorem State.keepsCode_bump (p : Fin 8) (off hi lo n : Nat) : s.KeepsCode (s.bump p off hi lo n) := .of_eq rfl rfl rfl

theorem State.keepsCode_dirMark (home : Fin 4) (line : Nat) (die : Option Nat) (host : Bool) : s.KeepsCode (s.dirMark home line die host) := by
  unfold State.dirMark
  dsimp only
  split
  · exact s.keepsCode_onDie home _
  · split
    · exact s.keepsCode_onDie home _
    · next r _ =>
      -- the recalled line's copies go, and its partition counts the recall
      have hdrop := State.KeepsCode.foldl (fun s d => State.keepsCode_dropCopies s d r.line notTag) r.dies
      split
      · exact ((s.keepsCode_onDie home _).trans (hdrop _)).trans (State.keepsCode_bump _ _ _ _ _ _)
      · exact (s.keepsCode_onDie home _).trans (hdrop _)

theorem State.keepsCode_grant (p : Fin 8) (c mt pa : Nat) : s.KeepsCode (s.grant p c mt pa).2 := by
  unfold State.grant
  dsimp only
  split
  · exact .of_eq rfl rfl rfl
  · split
    · exact .of_eq rfl rfl rfl
    · exact s.keepsCode_dirMark (homeDie pa) (lineOf pa) (some (dieOfCore c).val) false

theorem State.keepsCode_installCode (c : Nat) (e : L1Line) : s.KeepsCode (s.installCode c e) :=
  State.KeepsCode.trans (t := s.fresh.2.onCore c fun co => { co with l1i := l1Insert 256 co.l1i e s.freeCtr }) (.of_eq rfl rfl rfl)
    (.foldl (fun s line => s.keepsCode_onDie (homeDie (line * 128)) _) _ _)

theorem State.foldl_tidyLine_cores (l : List Nat) : (l.foldl State.tidyLine s).cores = s.cores := by
  induction l generalizing s with
  | nil => rfl
  | cons x l ih => exact ih (s.tidyLine x)

/-- A line of code that has been installed is found in its core's instruction cache. -/
theorem State.l1Find_installCode (c : Nat) (e : L1Line) : l1Find ((s.installCode c e).core c).l1i e.line = some e := by
  have hcore : (s.installCode c e).core c = { s.core c with l1i := l1Insert 256 (s.core c).l1i e s.freeCtr } := by
    simp only [State.installCode, State.onCaches, State.core, State.foldl_tidyLine_cores, State.onCore, tgetD_tput_same]
    rfl
  rw [hcore]
  exact l1Find_l1Insert_same 256 _ e _

/-- A fetch leaves the machine as it is, or installs the line as it stands in memory (log 12). -/
theorem State.bringCode_cases (pa : Nat) (e : TlbEntry) :
    s.bringCode pa e = s ∨ ∃ t c, s.bringCode pa e = t.installCode (coreOf s.cur) c ∧ s.KeepsCode t ∧ c.line = lineOf pa ∧
      c.data = memBytes s.mem (lineOf pa * 128) 128 := by
  unfold State.bringCode
  split
  · exact .inl rfl
  · have hkeep := (s.keepsCode_touchL2 pa false).trans (State.keepsCode_grant _ (s.partOf s.cur) (coreOf s.cur) e.mt pa)
    exact .inr ⟨_, _, rfl, hkeep, rfl, congrArg (memBytes · _ _) hkeep.mem⟩

theorem State.keepsCode_bringCode (pa : Nat) (e : TlbEntry) : s.KeepsCode (s.bringCode pa e) := by
  obtain hstay | ⟨t, c, hbring, hkeep, -, -⟩ := s.bringCode_cases pa e
  · exact hstay.symm ▸ State.KeepsCode.refl s
  · exact hbring.symm ▸ hkeep.trans (t.keepsCode_installCode _ c)

/-! ### The word a fetch finds -/

/-- No store of the executing thread on its way touches the four bytes at an address. -/
def State.codeClear (s : State) (pa : Nat) : Prop :=
  ∀ q ∈ s.flight, q.by' = .thread s.cur → ∀ v, q.kind = .store v → q.pa + q.size ≤ pa ∨ pa + 4 ≤ q.pa

variable {s}

theorem State.KeepsCode.codeClear {t : State} {pa : Nat} (h : s.KeepsCode t) (hclear : s.codeClear pa) : t.codeClear pa :=
  fun q hq hby v hv => hclear q (h.flight q hq (by simp [Req.isLoad, hv])) (h.cur ▸ hby) v hv

/-- A map over bytes with their places that changes no byte. -/
theorem map_zipIdx_eq_self {f : Byte × Nat → Byte} {bs : List Byte} (h : ∀ i < bs.length, ∀ b, f (b, i) = b) : bs.zipIdx.map f = bs :=
  List.ext_getElem (by simp) fun i _ hi => by
    rw [List.getElem_map, List.getElem_zipIdx, Nat.zero_add, h i hi]

theorem Req.by_of_ofThread {r : Req} {t : Nat} (h : r.ofThread t = true) : r.by' = .thread t := by
  unfold Req.ofThread at h
  split at h
  · next u hu => rw [hu, eq_of_beq h]
  · cases h

/-- Stores that touch none of the bytes lay nothing over them (R151). -/
theorem State.withOwn_of_codeClear {pa : Nat} {bs : List Byte} (hclear : s.codeClear pa) (hlen : bs.length ≤ 4) : s.withOwn pa bs = bs := by
  unfold State.withOwn
  unfold State.codeClear at hclear
  generalize s.flight = l at hclear ⊢
  induction l with
  | nil => rfl
  | cons r l ih =>
    have hrest := ih fun q hq => hclear q (List.mem_cons_of_mem r hq)
    rw [List.foldl_cons]
    split
    · next v hv =>
      split
      · next hown =>
        have hr := hclear r List.mem_cons_self (Req.by_of_ofThread (Bool.and_eq_true_iff.mp hown).1) v hv
        rw [map_zipIdx_eq_self fun i hi b => if_neg (by omega)]
        exact hrest
      · exact hrest
    · exact hrest

/-- A copy that may be used gives the word. -/
theorem State.codeWord_of_copy {pa : Nat} {c : L1Line} (hclear : s.codeClear pa) (hcopy : s.codeCopy pa = some c) :
    s.codeWord pa = leNat (copyBytes c pa 4) := by
  simp only [State.codeWord, hcopy]
  rw [State.withOwn_of_codeClear hclear (by simp [copyBytes])]

/-- Memory gives the word where no copy may be used. -/
theorem State.codeWord_of_no_copy {pa : Nat} (hclear : s.codeClear pa) (hcopy : s.codeCopy pa = none) : s.codeWord pa = memRead s.mem pa 4 := by
  simp only [State.codeWord, hcopy]
  rw [State.withOwn_of_codeClear hclear (memBytes_length _ _ _).le, memRead]

/-- A copy that is found and current may be used (R320). -/
theorem State.codeCopy_of_current {pa : Nat} {c : L1Line} (hbehind : s.codeBehind pa = false)
    (hfind : l1Find (s.core (coreOf s.cur)).l1i (lineOf pa) = some c) (hcurrent : copyCurrent (s.core (coreOf s.cur)) (s.gtimeOf s.cur) c = true) :
    s.codeCopy pa = some c := by
  simp [State.codeCopy, hbehind, hfind, hcurrent]

/-- A copy that may be used is one that is found in the core's instruction cache. -/
theorem State.l1Find_of_codeCopy {pa : Nat} {c : L1Line} (h : s.codeCopy pa = some c) :
    l1Find (s.core (coreOf s.cur)).l1i (lineOf pa) = some c := by
  unfold State.codeCopy at h
  split at h
  · cases h
  · exact (Option.filter_eq_some_iff.mp h).1

/-- Where no copy is current, none may be used. -/
theorem State.codeCopy_of_stale {pa : Nat}
    (hstale : ∀ c, l1Find (s.core (coreOf s.cur)).l1i (lineOf pa) = some c → copyCurrent (s.core (coreOf s.cur)) (s.gtimeOf s.cur) c = false) :
    s.codeCopy pa = none := by
  unfold State.codeCopy
  split
  · rfl
  · exact Option.filter_eq_none_iff.mpr fun c hc => by simp [hstale c hc]

theorem State.bringCode_of_copy {pa : Nat} {c : L1Line} (e : TlbEntry) (h : s.codeCopy pa = some c) : s.bringCode pa e = s := by
  simp [State.bringCode, h]

/-- With no copy to use, a fetch reads memory, from the line that it brings in or past a write that waits at the home (log 12). -/
theorem State.codeWord_bringCode {pa : Nat} (e : TlbEntry) (hpa : pa % 4 = 0) (hclear : s.codeClear pa) (hcopy : s.codeCopy pa = none) :
    (s.bringCode pa e).codeWord pa = memRead s.mem pa 4 := by
  have hkeep := s.keepsCode_bringCode pa e
  cases hnew : (s.bringCode pa e).codeCopy pa with
  | none => rw [State.codeWord_of_no_copy (hkeep.codeClear hclear) hnew, hkeep.mem]
  | some c =>
    obtain hstay | ⟨t, c', hbring, -, hline, hdata⟩ := s.bringCode_cases pa e
    · exact absurd (hstay ▸ hnew) (by simp [hcopy])
    · have hfound := State.l1Find_of_codeCopy hnew
      rw [hkeep.cur, hbring, ← hline, State.l1Find_installCode] at hfound
      cases hfound
      rw [State.codeWord_of_copy (hkeep.codeClear hclear) hnew, copyBytes_of_line hdata hpa, memRead]

/-! ### Translating and fetching (R82, R139, R142, R144) -/

section Translation
variable {u : Nat} {va : Addr} {k : AccKind} {size : Nat}

/-- A translation that no TLB holds traps once its walk has failed (R142). -/
theorem State.xlate_of_walk_failed (hfound : tlbFind (s.core (coreOf u)).tlb (s.partOf u) ((s.thread u).cur == .firmware) va = none)
    (hdie : (s.die (dieOf u)).tlbFind (s.partOf u) ((s.thread u).cur == .firmware) va = none)
    (hwalked : (walkKey va k ((s.thread u).cur == .firmware), 1) ∈ (s.thread u).walked) : s.xlate u va k size = .trap 0x04 s := by
  simp only [State.xlate, hfound, hdie, List.contains_iff_mem, hwalked, if_true]

variable {e : TlbEntry} (hfound : tlbFind (s.core (coreOf u)).tlb (s.partOf u) ((s.thread u).cur == .firmware) va = some e)
  (hwalked : (walkKey va k ((s.thread u).cur == .firmware), 1) ∉ (s.thread u).walked)
include hfound hwalked

/-- A translation that the core's TLB holds and that permits the access gives its address (R139). -/
theorem State.xlate_of_permitted (hperm : permOk k ((s.thread u).cur == .worker) size e = true) :
    s.xlate u va k size = .ok (leafPa e va) e s := by
  simp only [State.xlate, hfound, List.contains_iff_mem, hwalked, hperm, if_true, if_false]

/-- A translation that does not permit the access traps where a walk has already renewed it (R142). -/
theorem State.xlate_of_not_permitted (hperm : permOk k ((s.thread u).cur == .worker) size e = false)
    (hrenewed : (walkKey va k ((s.thread u).cur == .firmware), 0) ∈ (s.thread u).walked) : s.xlate u va k size = .trap 0x05 s := by
  simp only [State.xlate, hfound, List.contains_iff_mem, hwalked, hperm, hrenewed, Bool.false_eq_true, if_true, if_false]

end Translation

/-- The word that stands at the program counter is fetched. -/
theorem State.fetch_of_fetches {w : Nat} {t : State} (h : s.fetches w t) : s.fetch = .word w t := by
  obtain ⟨pa, e, hfound, hperm, hleaf, hwalked, hpa, hhome, hclear, hbehind, hword⟩ := h
  have hxlate : s.xlate s.cur s.me.pc .fetch 4 = .ok pa e s := hleaf ▸ State.xlate_of_permitted hfound hwalked hperm
  have hfetch : s.fetch = .word ((s.bringCode pa e).codeWord pa) (s.bringCode pa e) := by
    simp [State.fetch, hxlate, hhome]
  rw [hfetch]
  obtain ⟨c, hfind, hcurrent, rfl, rfl⟩ | ⟨hstale, rfl, rfl⟩ := hword
  · have hcopy := State.codeCopy_of_current hbehind hfind hcurrent
    rw [State.bringCode_of_copy e hcopy, State.codeWord_of_copy hclear hcopy]
    rfl
  · rw [State.codeWord_bringCode e hpa hclear (State.codeCopy_of_stale hstale)]

/-- A fetch keeps the thread that executes. -/
theorem State.cur_of_fetches {w : Nat} {t : State} (h : s.fetches w t) : t.cur = s.cur := by
  obtain ⟨pa, e, -, -, -, -, -, -, -, -, ⟨c, -, -, -, rfl⟩ | ⟨-, -, rfl⟩⟩ := h
  · rfl
  · exact (s.keepsCode_bringCode pa e).cur

/-! ### A turn: the fetched word is issued, traps or waits -/

theorem step_of_turn {u : Nat} (hpower : s.power.removed = none) (hboot : s.boot.off = false) (hturn : s.turn = .thread u) :
    step s = (s.turnOf u).issue exec := by
  simp [step, hpower, hboot, hturn, State.turnOf]

/-- A word that no instruction has is illegal (R58). -/
theorem State.issue_of_reserved {w : Nat} {v : State} {r : DecodeReason} (hfetch : s.fetches w v) (hdecode : decodeA w = .error r)
    (hpath : v.me.path = none) (run : Instr → State → Out) : s.issue run = .next (v.enterTrap s.cur 0x01 false (BitVec.ofNat 64 w) v.me.pc) := by
  simp only [State.issue, State.fetch_of_fetches hfetch, hdecode]
  rw [State.trapSync_of_path_none hpath, State.cur_of_fetches hfetch]

theorem State.issue_of_decoded {w : Nat} {v : State} {i : Instr} (hfetch : s.fetches w v) (hdecode : decodeA w = .ok i)
    (run : Instr → State → Out) : s.issue run = v.issueInstr run i := by
  simp only [State.issue, State.fetch_of_fetches hfetch, hdecode]

/-- A fetch that fails traps with the fetched address in sr.tval (R144). -/
theorem State.issue_of_fetch_trap {code : Nat} (hfetch : s.fetch = .trap code s) (hpath : s.me.path = none) (run : Instr → State → Out) :
    s.issue run = .next (s.enterTrap s.cur code false (s.me.pc.truncate 64) s.me.pc) := by
  simp only [State.issue, hfetch, State.trapSync_of_path_none hpath, lo64]

theorem State.fetch_of_xlate_trap {code : Nat} (h : s.xlate s.cur s.me.pc .fetch 4 = .trap code s) : s.fetch = .trap code s := by
  simp only [State.fetch, h]

theorem State.fetch_of_homeLost {pa : Nat} {e : TlbEntry} (h : s.xlate s.cur s.me.pc .fetch 4 = .ok pa e s) (hlost : s.homeLost pa = true) :
    s.fetch = .trap 0x0A s := by
  simp only [State.fetch, h, hlost, if_true]

/-! ### What holds an instruction in issue (R82, R88, R97, R107) -/

section Issue
variable {i : Instr} (run : Instr → State → Out)

theorem State.issueInstr_of_hazard (hheld : s.me.hazard i = true) : s.issueInstr run i = .next (s.waitFor .register) := by
  simp only [State.issueInstr, hheld, if_true]

theorem State.issueInstr_of_full (hheld : s.me.hazard i = false) (hfull : Instr.slow i = true ∧ 64 ≤ s.me.aheadCount) :
    s.issueInstr run i = .next (s.waitFor .slot) := by
  obtain ⟨hslow, hcount⟩ := hfull
  simp [State.issueInstr, hheld, hslow, hcount]

section Ready
variable (hheld : s.me.hazard i = false) (hfull : ¬ (Instr.slow i = true ∧ 64 ≤ s.me.aheadCount))
include hheld hfull

/-- At the last word of the space only a transfer goes on (R82, log 27). -/
theorem State.issueInstr_of_topWord (hpc : s.me.pc = topWord) (htransfer : Instr.isTransfer i = false) (hpath : s.me.path = none) :
    s.issueInstr run i = .next (s.enterTrap s.cur 0x03 false 0 s.me.pc) := by
  simp [State.issueInstr, hheld, hfull, hpc, htransfer, State.trapSync_of_path_none hpath]

/-- On an open likely path an instruction that may not issue there, or the 65th, waits for the resolution (R97). -/
theorem State.issueInstr_of_path {p : Path} (hpc : s.me.pc ≠ topWord) (hpath : s.me.path = some p) (hwait : Instr.onPath i = false ∨ 64 ≤ p.issued) :
    s.issueInstr run i = .next (s.waitFor .likely) := by
  have hclosed : ¬ (Instr.onPath i = true ∧ p.issued < 64) := fun ⟨hon, hlt⟩ =>
    hwait.elim (fun hoff => Bool.false_ne_true (hoff.symm.trans hon)) (fun hle => hle.not_gt hlt)
  simp [State.issueInstr, hheld, hfull, hpc, hpath, hclosed]

end Ready

end Issue

end Sys2Proof.Machine

section
open Sys2Proof Sys2Proof.Machine

/-- Settles O22: a turn is `State.issue` of the fetched word, and each hypothesis picks the branch of the translation, the decoder or the issue that
traps or waits. -/
theorem fetchAndIssueTrapOrWait : Obligations.FetchAndIssueTrapOrWait := by
  unfold Obligations.FetchAndIssueTrapOrWait
  refine ⟨?reserved, ?held, ?fetch⟩
  case reserved =>
    intro s v u w r hpower hboot hturn hfetch hdecode hpath
    rw [step_of_turn hpower hboot hturn]
    exact State.issue_of_reserved hfetch hdecode hpath exec
  case held =>
    intro s v u w i hpower hboot hturn hfetch hdecode
    have hcur : v.cur = u := State.cur_of_fetches hfetch
    rw [step_of_turn hpower hboot hturn, State.issue_of_decoded hfetch hdecode, ← hcur]
    exact ⟨State.issueInstr_of_hazard exec, State.issueInstr_of_full exec, State.issueInstr_of_topWord exec,
      fun _ hheld hfull => State.issueInstr_of_path exec hheld hfull⟩
  case fetch =>
    intro s u hpower hboot hturn hpath
    have htrap (code : Nat) (h : (s.turnOf u).fetch = .trap code (s.turnOf u)) := State.issue_of_fetch_trap h hpath exec
    rw [step_of_turn hpower hboot hturn]
    refine ⟨fun hfound hdie hwalked => htrap 0x04 ?noEntry, fun e hfound hperm hrenewed hwalked => htrap 0x05 ?noPermission,
      fun e hfound hperm hwalked hlost => htrap 0x0A ?lostHome⟩
    case noEntry => exact State.fetch_of_xlate_trap (State.xlate_of_walk_failed hfound hdie hwalked)
    case noPermission => exact State.fetch_of_xlate_trap (State.xlate_of_not_permitted hfound hwalked hperm hrenewed)
    case lostHome => exact State.fetch_of_homeLost (State.xlate_of_permitted hfound hwalked hperm) hlost

end
end

section
/-!
PROOF. Words of access-thread instructions: the fields that a word carries (R50), and when a word is read as an instruction (R54, R58).
-/
namespace Sys2Proof

/-! ### Fields -/

/-- The word of an instruction with two registers of five bits and a 16-bit immediate under its major opcode (R50). -/
def regsImmWord (major p q o : Nat) : Nat := major * 2 ^ 26 + p * 2 ^ 21 + q * 2 ^ 16 + o

theorem fin32_eq {w lo : Nat} {r : Fin 32} (h : w / 2 ^ lo % 32 = r.val) : fin32 w lo = r := Fin.ext h

theorem fin16_eq {w lo : Nat} {r : Fin 16} (h : w / 2 ^ lo % 16 = r.val) : fin16 w lo = r := Fin.ext h

/-- An immediate in the low bits of a word is cut out whole. -/
theorem bits_low {n w : Nat} {o : BitVec n} (h : w % 2 ^ n = o.toNat) : bits w 0 n = o := by
  apply BitVec.eq_of_toNat_eq
  rw [bits, BitVec.toNat_ofNat, Nat.pow_zero, Nat.div_one, h]

section RegsImm
variable {major : Nat} (hmajor : major < 64) (p q : Fin 32) (a b : Fin 16) (o : BitVec 16)

include hmajor in
theorem fld_regsImmWord : fld (regsImmWord major p.val q.val o.toNat) 26 6 = major := by
  rw [fld, regsImmWord]
  omega

theorem fin32_regsImmWord_high : fin32 (regsImmWord major p.val q.val o.toNat) 21 = p :=
  fin32_eq (by rw [regsImmWord]; omega)

theorem fin32_regsImmWord_low : fin32 (regsImmWord major p.val q.val o.toNat) 16 = q :=
  fin32_eq (by rw [regsImmWord]; omega)

theorem fin16_regsImmWord_high : fin16 (regsImmWord major a.val b.val o.toNat) 21 = a :=
  fin16_eq (by rw [regsImmWord]; omega)

theorem fin16_regsImmWord_low : fin16 (regsImmWord major a.val b.val o.toNat) 16 = b :=
  fin16_eq (by rw [regsImmWord]; omega)

theorem bits_regsImmWord (m n : Nat) : bits (regsImmWord major m n o.toNat) 0 16 = o :=
  bits_low (by rw [regsImmWord]; omega)

end RegsImm

/-! ### Reading a word -/

/-- A word is read as the well-formed instruction that is picked from it and encodes to it (R58). -/
theorem decodeA_of_pickA {w : Nat} {i : Instr} (hpick : pickA w = some i) (henc : encodeA i = some w) (hwf : i.wellFormed = true) :
    decodeA w = .ok i := by
  simp [decodeA, accept, hpick, henc, hwf]

/-- A word of the System major opcode is picked from that group (R54). -/
theorem pickA_system {w : Nat} (h : w / 2 ^ 26 = 0x3F) : pickA w = pickSystem w := by
  have hmajor : fld w 26 6 = 63 := by rw [fld]; omega
  simp only [pickA, hmajor]

/-- A selector of the System group whose instruction has an 11-bit immediate decodes to it from its word (R100). -/
theorem decodeA_systemImm {sel : Nat} {mk : BitVec 11 → Instr} {i : BitVec 11} (hsel : sel < 2 ^ 10)
    (hpick : ∀ w, fld w 16 10 = sel → pickSystem w = some (mk (bits w 0 11)))
    (henc : encodeA (mk i) = some (63 * 2 ^ 26 + sel * 2 ^ 16 + i.toNat)) (hwf : (mk i).wellFormed = true) :
    decodeA (63 * 2 ^ 26 + sel * 2 ^ 16 + i.toNat) = .ok (mk i) := by
  have hfield : fld (63 * 2 ^ 26 + sel * 2 ^ 16 + i.toNat) 16 10 = sel := by rw [fld]; omega
  refine decodeA_of_pickA ?_ henc hwf
  rw [pickA_system (by omega), hpick _ hfield, bits_low (o := i) (by omega)]

/-- A major opcode whose instruction has an offset of 26 bits decodes to it from its word (R50, R93). -/
theorem decodeA_offset26 {major : Nat} {mk : BitVec 26 → Instr} {o : BitVec 26} (hmajor : major < 64)
    (hpick : ∀ w, fld w 26 6 = major → pickA w = some (mk (bits w 0 26)))
    (henc : encodeA (mk o) = some (major * 2 ^ 26 + o.toNat)) (hwf : (mk o).wellFormed = true) :
    decodeA (major * 2 ^ 26 + o.toNat) = .ok (mk o) := by
  have hfield : fld (major * 2 ^ 26 + o.toNat) 26 6 = major := by rw [fld]; omega
  refine decodeA_of_pickA ?_ henc hwf
  rw [hpick _ hfield, bits_low (o := o) (by omega)]

/-- A major opcode whose instruction has two x registers and a 16-bit immediate decodes to it from its word (R50, R92). -/
theorem decodeA_regsImmWord {major : Nat} {mk : Fin 32 → Fin 32 → BitVec 16 → Instr} {p q : Fin 32} {o : BitVec 16} (hmajor : major < 64)
    (hpick : ∀ w, fld w 26 6 = major → pickA w = some (mk (fin32 w 21) (fin32 w 16) (bits w 0 16)))
    (henc : encodeA (mk p q o) = some (regsImmWord major p.val q.val o.toNat)) (hwf : (mk p q o).wellFormed = true) :
    decodeA (regsImmWord major p.val q.val o.toNat) = .ok (mk p q o) := by
  refine decodeA_of_pickA ?_ henc hwf
  rw [hpick _ (fld_regsImmWord hmajor p q o), fin32_regsImmWord_high, fin32_regsImmWord_low, bits_regsImmWord]

end Sys2Proof
end

section
/-!
PROOF. Trap entry, the instructions that trap, the return from a trap, and what privileged instructions do in worker mode (R84, R85, R101, R102).
-/
namespace Sys2Proof.Machine

section Traps
variable {s : State}

/-! ### Trap entry (R85) -/

theorem Mode.above_eq (m : Mode) : Mode.above m = if m = .worker then .supervisor else .firmware := by
  cases m <;> rfl

/-- A trap goes to the vector of the mode above, its two low bits ignored (R80). -/
theorem Part.vector_above (p : Part) (m : Mode) :
    p.vector (Mode.above m) = BitVec.ofNat 80 (p.reg (if m = .worker then 0x120 else 0x130) % 2 ^ 64 / 4 * 4) := by
  have hfield (n : Nat) : bf n 63 2 * 4 = n % 2 ^ 64 / 4 * 4 := by rw [bf]; omega
  rw [Part.vector, hfield]
  cases m <;> rfl

/-- After trap entry the thread is as `Thread.takeTrap` makes it on its partition's control page. -/
theorem State.thread_enterTrap (u code : Nat) (asy : Bool) (tval : Word) (epc : Addr) :
    (s.enterTrap u code asy tval epc).thread u = (s.thread u).takeTrap (s.part (s.partOf u)) code asy tval epc :=
  s.thread_onThread_same u _

/-! ### TRAP and SVC (R101) -/

theorem exec_trap (i : BitVec 11) : exec (.trap i) s = execTrap i s := rfl
theorem exec_svc (i : BitVec 11) : exec (.svc i) s = execSvc i s := rfl

theorem decodeA_trap (i : BitVec 11) : decodeA (0xFC000000 + i.toNat) = .ok (.trap i) :=
  decodeA_systemImm (sel := 0) (by decide) (fun w h => by simp only [pickSystem, h]) rfl rfl
theorem decodeA_svc (i : BitVec 11) : decodeA (0xFC010000 + i.toNat) = .ok (.svc i) :=
  decodeA_systemImm (sel := 1) (by decide) (fun w h => by simp only [pickSystem, h]) rfl rfl

/-! ### ERET (R102) -/

theorem Mode.bits_ofBits {b : BitVec 2} (h : b ≠ 2) (ctr : Nat) : Mode.bits (Mode.ofBits b ctr) = b := by
  have hb : b = 0 ∨ b = 1 ∨ b = 3 := by revert h; revert b; decide
  rcases hb with rfl | rfl | rfl <;> rfl

/-- Above worker mode ERET returns; it draws the free value that stands for the mode of a PREV of 10 (log 14). -/
theorem exec_eret (h : s.me.cur ≠ .worker) :
    exec .eret s = .next { s.onMe (fun th => th.eret s.freeCtr) with freeCtr := s.freeCtr + 1 } :=
  if_neg h

/-- The return changes nothing but mode, HOLD, the program counter and what belongs to the instruction in issue. -/
theorem Thread.sameButPc_eret (th : Thread) (ctr : Nat) :
    th.sameButPc { th.eret ctr with cur := th.cur, prev := th.prev, hold := th.hold, phold := th.phold } := rfl

/-! ### Privilege (R84) -/

/-- A refused privilege traps with the instruction's word. -/
theorem State.traps_of_privTrap {i : Instr} {w : Nat} (hexec : exec i s = .next (s.privTrap w)) (hpath : s.me.path = none) :
    s.traps i 0x02 (BitVec.ofNat 64 w) := by
  rw [State.traps, hexec, State.privTrap, State.trapSync_of_path_none hpath]

section Worker
variable (hworker : s.me.cur = .worker)
include hworker

theorem exec_eret_of_worker : exec .eret s = .next (s.privTrap 0xFC020000) := if_pos hworker

theorem exec_rqbind_of_worker (a : Fin 16) (q : Fin 32) (e : RqEnd) :
    exec (.rqbind a q e) s = .next (s.privTrap ((encode (.rqbind a q e)).getD 0)) := if_pos hworker

theorem exec_rnddom_of_worker (d : Fin 32) (a : Fin 16) :
    exec (.rnddom d a) s = .next (s.privTrap ((encode (.rnddom d a)).getD 0)) := if_pos hworker

theorem exec_tlbinvPg_of_worker (a : Fin 16) (r : Reach) :
    exec (.tlbinvPg a r) s = .next (s.privTrap ((encode (.tlbinvPg a r)).getD 0)) := if_pos hworker

theorem exec_tlbinvAll_of_worker (r : Reach) :
    exec (.tlbinvAll r) s = .next (s.privTrap ((encode (.tlbinvAll r)).getD 0)) := if_pos hworker

theorem State.ctxOp_of_worker (save : Bool) (i : Instr) (d p : Fin 32) (a : Fin 16) :
    s.ctxOp save i d p a = .next (s.privTrap ((encode i).getD 0)) := if_pos hworker

/-- A worker may not allot a service region (R84, R192). -/
theorem exec_rgnalloc_of_worker (d p : Fin 32) (hservice : (s.me.getX p).getLsbD 30 = true) :
    exec (.rgnalloc d p) s = .next (s.privTrap ((encode (.rgnalloc d p)).getD 0)) := by
  have hfield : wf (s.me.getX p) 30 30 = 1 := by
    simpa [BitVec.getLsbD, Nat.testBit_eq_decide_div_mod_eq, wf, bf] using hservice
  exact if_pos ⟨beq_iff_eq.mpr hfield, hworker⟩

end Worker

end Traps

end Sys2Proof.Machine

section
open Sys2Proof Sys2Proof.Machine

/-- Settles O9: trap entry is `Thread.takeTrap` on one thread, and its vector is that of the mode above. -/
theorem trapEntryIsOneAct : Obligations.TrapEntryIsOneAct := by
  unfold Obligations.TrapEntryIsOneAct
  intro s u code asy tval epc th t th' page
  have hentry : th' = th.takeTrap page code asy tval epc := State.thread_enterTrap u code asy tval epc
  rw [hentry]
  exact ⟨rfl, fun _ => rfl, rfl, rfl, rfl, rfl, rfl, rfl, rfl, Mode.above_eq th.cur, page.vector_above th.cur, rfl⟩

/-- Settles O10: TRAP and SVC enter the trap at the next word, ERET is `Thread.eret`, and each privileged instruction begins with the check of the mode. -/
theorem trapsAreTakenAndReturnedFrom : Obligations.TrapsAreTakenAndReturnedFrom := by
  unfold Obligations.TrapsAreTakenAndReturnedFrom
  refine ⟨fun s i => ⟨decodeA_trap i, decodeA_svc i, exec_trap i, exec_svc i⟩, fun s => ⟨rfl, ?returns, ?below⟩, ?privilege, ?service⟩
  case returns =>
    intro hcur
    have hme : ({ s.onMe (fun th => th.eret s.freeCtr) with freeCtr := s.freeCtr + 1 } : State).me = s.me.eret s.freeCtr :=
      s.me_onMe fun th => th.eret s.freeCtr
    refine ⟨_, exec_eret hcur, ?_⟩
    rw [hme]
    exact ⟨fun hprev => Mode.bits_ofBits hprev _, rfl, rfl, rfl, rfl, rfl, fun _ => rfl, s.sameButMe_onMe fun th => th.eret s.freeCtr,
      s.me.sameButPc_eret _⟩
  case below => exact fun hworker => State.traps_of_privTrap (exec_eret_of_worker hworker)
  case privilege =>
    intro s d p a q e r hworker hpath
    have htrap {i : Instr} {w : Nat} (hw : encode i = some w) (hexec : exec i s = .next (s.privTrap w)) :
        ∃ w, encode i = some w ∧ s.traps i 0x02 (BitVec.ofNat 64 w) := ⟨w, hw, State.traps_of_privTrap hexec hpath⟩
    simp only [List.forall_mem_cons]
    exact ⟨htrap rfl (exec_eret_of_worker hworker), htrap rfl (exec_rqbind_of_worker hworker a q e), htrap rfl (exec_rnddom_of_worker hworker d a),
      htrap rfl (exec_tlbinvPg_of_worker hworker a r), htrap rfl (exec_tlbinvAll_of_worker hworker r),
      htrap rfl (State.ctxOp_of_worker hworker true _ d p a), htrap rfl (State.ctxOp_of_worker hworker true _ d p a),
      htrap rfl (State.ctxOp_of_worker hworker false _ d p a), htrap rfl (State.ctxOp_of_worker hworker false _ d p a), List.forall_mem_nil _⟩
  case service => exact fun s d p hworker hpath hservice => ⟨_, rfl, State.traps_of_privTrap (exec_rgnalloc_of_worker hworker d p hservice) hpath⟩

end
end

section
/-!
PROOF. Conditional branches and jumps: their words, their targets, the link register, and what a bad target does (R52, R82, R92 to R94).
-/
namespace Sys2Proof

/-! ### Words (R92 to R94) -/

section Words
variable (p q : Fin 32) (a b : Fin 16) (o : BitVec 16) (l : BitVec 26)

theorem decodeA_beq : decodeA (regsImmWord 24 p.val q.val o.toNat) = .ok (.beq p q o) :=
  decodeA_regsImmWord (by decide) (fun w h => by simp only [pickA, h]) rfl rfl
theorem decodeA_bne : decodeA (regsImmWord 25 p.val q.val o.toNat) = .ok (.bne p q o) :=
  decodeA_regsImmWord (by decide) (fun w h => by simp only [pickA, h]) rfl rfl
theorem decodeA_blt : decodeA (regsImmWord 26 p.val q.val o.toNat) = .ok (.blt p q o) :=
  decodeA_regsImmWord (by decide) (fun w h => by simp only [pickA, h]) rfl rfl
theorem decodeA_bge : decodeA (regsImmWord 27 p.val q.val o.toNat) = .ok (.bge p q o) :=
  decodeA_regsImmWord (by decide) (fun w h => by simp only [pickA, h]) rfl rfl
theorem decodeA_bltu : decodeA (regsImmWord 28 p.val q.val o.toNat) = .ok (.bltu p q o) :=
  decodeA_regsImmWord (by decide) (fun w h => by simp only [pickA, h]) rfl rfl
theorem decodeA_bgeu : decodeA (regsImmWord 29 p.val q.val o.toNat) = .ok (.bgeu p q o) :=
  decodeA_regsImmWord (by decide) (fun w h => by simp only [pickA, h]) rfl rfl

theorem decodeA_j : decodeA (0x78000000 + l.toNat) = .ok (.j l) :=
  decodeA_offset26 (major := 30) (by decide) (fun w h => by simp only [pickA, h]) rfl rfl
theorem decodeA_jal : decodeA (0x7C000000 + l.toNat) = .ok (.jal l) :=
  decodeA_offset26 (major := 31) (by decide) (fun w h => by simp only [pickA, h]) rfl rfl

theorem decodeA_jalr : decodeA (regsImmWord 32 a.val b.val o.toNat) = .ok (.jalr a b o) := by
  have hmajor : fld (regsImmWord 32 a.val b.val o.toNat) 26 6 = 32 :=
    fld_regsImmWord (by decide) (a.castLE (by decide)) (b.castLE (by decide)) o
  have hpick : pickA (regsImmWord 32 a.val b.val o.toNat) = some (.jalr a b o) := by
    simp only [pickA, hmajor, fin16_regsImmWord_high, fin16_regsImmWord_low, bits_regsImmWord]
  exact decodeA_of_pickA hpick rfl rfl

end Words

end Sys2Proof

namespace Sys2Proof.Machine

section Transfers
variable {s : State}

/-! ### Targets modulo 2^80 (R52) -/

theorem add_simm80 {n : Nat} (base : Addr) (o : BitVec n) : base + simm80 o = BitVec.ofInt 80 (base.toNat + o.toInt) := by
  rw [BitVec.ofInt_add, BitVec.ofInt_natCast, BitVec.ofNat_toNat, BitVec.setWidth_eq]
  rfl

theorem relTarget_eq {n : Nat} (pc : Addr) (o : BitVec n) : relTarget pc o = BitVec.ofInt 80 (pc.toNat + 4 * o.toInt) := by
  rw [BitVec.ofInt_add, BitVec.ofInt_mul, BitVec.ofInt_natCast, BitVec.ofNat_toNat, BitVec.setWidth_eq, BitVec.mul_comm]
  rfl

/-! ### What a transfer does (R82) -/

theorem targetOk_iff (a : Addr) : targetOk a = true ↔ goodTarget a := by
  simp [targetOk, goodTarget]

/-- The link a transfer leaves behind: the address of the next word, in the a register it names, if it names one (R93, R94). -/
def Thread.linked (th : Thread) : Option (Fin 16) → Thread
  | none => th
  | some d => th.setA d (th.pc + 4)

theorem Thread.getA_linked (th : Thread) (link : Option (Fin 16)) (r : Fin 16) :
    (th.linked link).getA r = if link = some r then th.pc + 4 else th.getA r := by
  cases link with
  | none => rfl
  | some d => simp only [Thread.linked, Thread.getA_setA, Option.some.injEq, eq_comm]

theorem Thread.sameButA_linked (th : Thread) (link : Option (Fin 16)) (pc : Addr) : th.sameButA ((th.linked link).goTo pc) := by
  cases link <;> rfl

section Transfer
variable {i : Instr} {a : Addr} {link : Option (Fin 16)} (hexec : exec i s = .next (s.transfer a (fun th => th.linked link)))
include hexec

theorem State.goesTo_of_transfer (hgood : goodTarget a) : s.goesTo i a link := by
  rw [State.transfer, if_pos ((targetOk_iff a).mpr hgood)] at hexec
  refine ⟨_, hexec, s.sameButMe_onMe _, s.sameMemory_onMe _, ?_⟩
  rw [s.me_onMe]
  exact ⟨s.me.sameButA_linked link a, rfl, rfl, s.me.getA_linked link⟩

/-- A bad target is a cause at the transfer itself, which links nothing. -/
theorem State.exec_of_bad_target (hbad : ¬ goodTarget a) : exec i s = .next (s.trapSync 0x03 (a.truncate 64)) := by
  rwa [State.transfer, if_neg (mt (targetOk_iff a).mp hbad)] at hexec

theorem State.traps_of_bad_target (hbad : ¬ goodTarget a) (hpath : s.me.path = none) : s.traps i 0x03 (a.truncate 64) := by
  rw [State.traps, State.exec_of_bad_target hexec hbad, State.trapSync_of_path_none hpath]

/-- On an open likely path the transfer waits for the resolution (R97). -/
theorem State.waits_of_bad_target (hbad : ¬ goodTarget a) (hpath : s.me.path.isSome) : s.waits i .likely := by
  rw [State.waits, State.exec_of_bad_target hexec hbad, State.trapSync, if_pos hpath]

/-- The three ends of a transfer. -/
theorem State.transfer_goes_traps_or_waits : (goodTarget a → s.goesTo i a link) ∧
    (¬ goodTarget a → s.me.path = none → s.traps i 0x03 (a.truncate 64)) ∧ (¬ goodTarget a → s.me.path.isSome → s.waits i .likely) :=
  ⟨State.goesTo_of_transfer hexec, State.traps_of_bad_target hexec, State.waits_of_bad_target hexec⟩

end Transfer

/-! ### Branches and jumps -/

theorem not_slt_iff {n : Nat} (a b : BitVec n) : (!a.slt b) = true ↔ b.toInt ≤ a.toInt := by
  rw [← BitVec.sle_eq_not_slt, BitVec.sle_iff_toInt_le]

theorem not_ult_iff {n : Nat} (a b : BitVec n) : (!a.ult b) = true ↔ b.toNat ≤ a.toNat := by
  rw [← BitVec.ule_eq_not_ult, BitVec.ule_iff_toNat_le]

/-- A conditional branch transfers to its target where its comparison holds, and to the next word where not (R92). -/
theorem State.exec_branch {i : Instr} {c : Word → Word → Bool} {p q : Fin 32} {o : BitVec 16} {P : Prop} [Decidable P]
    (hexec : exec i s = s.branch c p q o) (htaken : c (s.me.getX p) (s.me.getX q) = true ↔ P) :
    exec i s = .next (s.transfer (if decide P then BitVec.ofInt 80 (s.me.pc.toNat + 4 * o.toInt) else s.me.pc + 4) (fun th => th.linked none)) := by
  rw [hexec, State.branch, Bool.eq_iff_iff.mpr (htaken.trans decide_eq_true_iff.symm), relTarget_eq]
  rfl

theorem exec_beq (p q : Fin 32) (o : BitVec 16) : exec (.beq p q o) s = s.branch (fun a b => a == b) p q o := rfl
theorem exec_bne (p q : Fin 32) (o : BitVec 16) : exec (.bne p q o) s = s.branch (fun a b => a != b) p q o := rfl
theorem exec_blt (p q : Fin 32) (o : BitVec 16) : exec (.blt p q o) s = s.branch (fun a b => a.slt b) p q o := rfl
theorem exec_bge (p q : Fin 32) (o : BitVec 16) : exec (.bge p q o) s = s.branch (fun a b => !a.slt b) p q o := rfl
theorem exec_bltu (p q : Fin 32) (o : BitVec 16) : exec (.bltu p q o) s = s.branch (fun a b => a.ult b) p q o := rfl
theorem exec_bgeu (p q : Fin 32) (o : BitVec 16) : exec (.bgeu p q o) s = s.branch (fun a b => !a.ult b) p q o := rfl

theorem exec_j (o : BitVec 26) :
    exec (.j o) s = .next (s.transfer (BitVec.ofInt 80 (s.me.pc.toNat + 4 * o.toInt)) (fun th => th.linked none)) := by
  rw [← relTarget_eq]
  rfl

/-- JAL links in a15 (R93). -/
theorem exec_jal (o : BitVec 26) :
    exec (.jal o) s = .next (s.transfer (BitVec.ofInt 80 (s.me.pc.toNat + 4 * o.toInt)) (fun th => th.linked (some 15))) := by
  rw [← relTarget_eq]
  rfl

/-- JALR reads its base before it links (R94). -/
theorem exec_jalr (d a : Fin 16) (o : BitVec 16) :
    exec (.jalr d a o) s = .next (s.transfer (BitVec.ofInt 80 ((s.me.getA a).toNat + o.toInt)) (fun th => th.linked (some d))) := by
  rw [← add_simm80]
  rfl

end Transfers

end Sys2Proof.Machine

section
open Sys2Proof Sys2Proof.Machine

/-- Settles O7: every branch and jump is a `State.transfer` to its target, which goes there, traps or waits. -/
theorem transfersGoWhereTheySay : Obligations.TransfersGoWhereTheySay := by
  unfold Obligations.TransfersGoWhereTheySay
  refine ⟨fun s p q o => ?branches, fun s o d a i => ?jumps⟩
  case branches =>
    have hends {i : Instr} {c : Word → Word → Bool} {P : Prop} [Decidable P] (hexec : exec i s = s.branch c p q o)
        (htaken : c (s.me.getX p) (s.me.getX q) = true ↔ P) := State.transfer_goes_traps_or_waits (State.exec_branch hexec htaken)
    simp only [List.forall_mem_cons]
    exact ⟨⟨decodeA_beq p q o, hends (exec_beq p q o) beq_iff_eq⟩, ⟨decodeA_bne p q o, hends (exec_bne p q o) bne_iff_ne⟩,
      ⟨decodeA_blt p q o, hends (exec_blt p q o) BitVec.slt_iff_toInt_lt⟩, ⟨decodeA_bge p q o, hends (exec_bge p q o) (not_slt_iff _ _)⟩,
      ⟨decodeA_bltu p q o, hends (exec_bltu p q o) BitVec.ult_iff_lt⟩, ⟨decodeA_bgeu p q o, hends (exec_bgeu p q o) (not_ult_iff _ _)⟩,
      List.forall_mem_nil _⟩
  case jumps =>
    simp only [List.forall_mem_cons]
    exact ⟨⟨decodeA_j o, State.transfer_goes_traps_or_waits (exec_j o)⟩, ⟨decodeA_jal o, State.transfer_goes_traps_or_waits (exec_jal o)⟩,
      ⟨decodeA_jalr d a i, State.transfer_goes_traps_or_waits (exec_jalr d a i)⟩, List.forall_mem_nil _⟩

end
end

section
/-!
PROOF. The ALU, MULDIV and BITS groups: their words, and their results in exact arithmetic (R50, R55, R109 to R111).
-/
namespace Sys2Proof

/-! ### Words with three register fields -/

/-- The word of an instruction with a selector in its low 11 bits and three register fields under its major opcode (R50, R55). -/
def regsWord (major sel d p q : Nat) : Nat := major * 2 ^ 26 + sel + d * 2 ^ 21 + p * 2 ^ 16 + q * 2 ^ 11

/-- The word of such an instruction whose rs2 field is zero. -/
def twoRegsWord (major sel d p : Nat) : Nat := major * 2 ^ 26 + sel + d * 2 ^ 21 + p * 2 ^ 16

theorem regsWord_zero (major sel d p : Nat) : regsWord major sel d p 0 = twoRegsWord major sel d p := by
  rw [regsWord, twoRegsWord, Nat.zero_mul, Nat.add_zero]

/-- What the fields of a word with three register fields hold. -/
structure RegsFields (w major sel d p q : Nat) : Prop where
  major : fld w 26 6 = major
  sel : fld w 0 11 = sel
  rd : w / 2 ^ 21 % 32 = d
  rs1 : w / 2 ^ 16 % 32 = p
  rs2 : w / 2 ^ 11 % 32 = q

theorem regsFields_regsWord {major sel d p q : Nat} (hmajor : major < 64) (hsel : sel < 2 ^ 11) (hd : d < 32) (hp : p < 32) (hq : q < 32) :
    RegsFields (regsWord major sel d p q) major sel d p q where
  major := by rw [fld, regsWord]; omega
  sel := by rw [fld, regsWord]; omega
  rd := by rw [regsWord]; omega
  rs1 := by rw [regsWord]; omega
  rs2 := by rw [regsWord]; omega

/-- A field of five bits that holds the number of one of sixteen registers. -/
theorem fin16_of_field {w lo : Nat} {r : Fin 16} (h : w / 2 ^ lo % 32 = r.val) : fin16 w lo = r :=
  fin16_eq (by omega)

/-- A field of five bits that holds the number of one of eight registers. -/
theorem fin8_of_field {w lo : Nat} {r : Fin 8} (h : w / 2 ^ lo % 32 = r.val) : fin8 w lo = r :=
  Fin.ext (show w / 2 ^ lo % 8 = r.val by omega)

/-- A word of three register fields decodes to the instruction that is picked by its fields and encodes to it. -/
theorem decodeA_of_regsFields {major sel d p q : Nat} {i : Instr} (hmajor : major < 64) (hsel : sel < 2 ^ 11) (hd : d < 32) (hp : p < 32) (hq : q < 32)
    (hpick : ∀ w, RegsFields w major sel d p q → pickA w = some i) (henc : encodeA i = some (regsWord major sel d p q)) (hwf : i.wellFormed = true) :
    decodeA (regsWord major sel d p q) = .ok i :=
  decodeA_of_pickA (hpick _ (regsFields_regsWord hmajor hsel hd hp hq)) henc hwf

/-- A selector of a major opcode whose instruction has three x registers decodes to it from its word (R50, R55). -/
theorem decodeA_regsWord {major sel : Nat} {mk : Fin 32 → Fin 32 → Fin 32 → Instr} {d p q : Fin 32} (hmajor : major < 64) (hsel : sel < 2 ^ 11)
    (hpick : ∀ w, fld w 26 6 = major → fld w 0 11 = sel → pickA w = some (mk (fin32 w 21) (fin32 w 16) (fin32 w 11)))
    (henc : encodeA (mk d p q) = some (regsWord major sel d.val p.val q.val)) (hwf : (mk d p q).wellFormed = true) :
    decodeA (regsWord major sel d.val p.val q.val) = .ok (mk d p q) :=
  decodeA_of_regsFields hmajor hsel d.isLt p.isLt q.isLt
    (fun w h => by rw [hpick w h.major h.sel, fin32_eq h.rd, fin32_eq h.rs1, fin32_eq h.rs2]) henc hwf

/-- A selector whose instruction has two x registers decodes to it from its word. -/
theorem decodeA_twoRegsWord {major sel : Nat} {mk : Fin 32 → Fin 32 → Instr} {d p : Fin 32} (hmajor : major < 64) (hsel : sel < 2 ^ 11)
    (hpick : ∀ w, fld w 26 6 = major → fld w 0 11 = sel → pickA w = some (mk (fin32 w 21) (fin32 w 16)))
    (henc : encodeA (mk d p) = some (twoRegsWord major sel d.val p.val)) (hwf : (mk d p).wellFormed = true) :
    decodeA (twoRegsWord major sel d.val p.val) = .ok (mk d p) := by
  rw [← regsWord_zero] at henc ⊢
  exact decodeA_regsWord (mk := fun d p _ => mk d p) (q := 0) hmajor hsel hpick henc hwf

/-! ### Words of the groups (R109 to R111) -/

section Words
variable (d p q : Fin 32)

theorem decodeA_add : decodeA (regsWord 1 0 d.val p.val q.val) = .ok (.add d p q) :=
  decodeA_regsWord (by decide) (by decide) (fun w h hs => by simp only [pickA, h, pickAlu, hs]) rfl rfl
theorem decodeA_sub : decodeA (regsWord 1 1 d.val p.val q.val) = .ok (.sub d p q) :=
  decodeA_regsWord (by decide) (by decide) (fun w h hs => by simp only [pickA, h, pickAlu, hs]) rfl rfl
theorem decodeA_and : decodeA (regsWord 1 2 d.val p.val q.val) = .ok (.and d p q) :=
  decodeA_regsWord (by decide) (by decide) (fun w h hs => by simp only [pickA, h, pickAlu, hs]) rfl rfl
theorem decodeA_or : decodeA (regsWord 1 3 d.val p.val q.val) = .ok (.or d p q) :=
  decodeA_regsWord (by decide) (by decide) (fun w h hs => by simp only [pickA, h, pickAlu, hs]) rfl rfl
theorem decodeA_xor : decodeA (regsWord 1 4 d.val p.val q.val) = .ok (.xor d p q) :=
  decodeA_regsWord (by decide) (by decide) (fun w h hs => by simp only [pickA, h, pickAlu, hs]) rfl rfl
theorem decodeA_sll : decodeA (regsWord 1 5 d.val p.val q.val) = .ok (.sll d p q) :=
  decodeA_regsWord (by decide) (by decide) (fun w h hs => by simp only [pickA, h, pickAlu, hs]) rfl rfl
theorem decodeA_srl : decodeA (regsWord 1 6 d.val p.val q.val) = .ok (.srl d p q) :=
  decodeA_regsWord (by decide) (by decide) (fun w h hs => by simp only [pickA, h, pickAlu, hs]) rfl rfl
theorem decodeA_sra : decodeA (regsWord 1 7 d.val p.val q.val) = .ok (.sra d p q) :=
  decodeA_regsWord (by decide) (by decide) (fun w h hs => by simp only [pickA, h, pickAlu, hs]) rfl rfl
theorem decodeA_slt : decodeA (regsWord 1 8 d.val p.val q.val) = .ok (.slt d p q) :=
  decodeA_regsWord (by decide) (by decide) (fun w h hs => by simp only [pickA, h, pickAlu, hs]) rfl rfl
theorem decodeA_sltu : decodeA (regsWord 1 9 d.val p.val q.val) = .ok (.sltu d p q) :=
  decodeA_regsWord (by decide) (by decide) (fun w h hs => by simp only [pickA, h, pickAlu, hs]) rfl rfl
theorem decodeA_min : decodeA (regsWord 1 10 d.val p.val q.val) = .ok (.min d p q) :=
  decodeA_regsWord (by decide) (by decide) (fun w h hs => by simp only [pickA, h, pickAlu, hs]) rfl rfl
theorem decodeA_max : decodeA (regsWord 1 11 d.val p.val q.val) = .ok (.max d p q) :=
  decodeA_regsWord (by decide) (by decide) (fun w h hs => by simp only [pickA, h, pickAlu, hs]) rfl rfl
theorem decodeA_minu : decodeA (regsWord 1 12 d.val p.val q.val) = .ok (.minu d p q) :=
  decodeA_regsWord (by decide) (by decide) (fun w h hs => by simp only [pickA, h, pickAlu, hs]) rfl rfl
theorem decodeA_maxu : decodeA (regsWord 1 13 d.val p.val q.val) = .ok (.maxu d p q) :=
  decodeA_regsWord (by decide) (by decide) (fun w h hs => by simp only [pickA, h, pickAlu, hs]) rfl rfl

theorem decodeA_mul : decodeA (regsWord 2 0 d.val p.val q.val) = .ok (.mul d p q) :=
  decodeA_regsWord (by decide) (by decide) (fun w h hs => by simp only [pickA, h, pickMulDiv, hs]) rfl rfl
theorem decodeA_mulh : decodeA (regsWord 2 1 d.val p.val q.val) = .ok (.mulh d p q) :=
  decodeA_regsWord (by decide) (by decide) (fun w h hs => by simp only [pickA, h, pickMulDiv, hs]) rfl rfl
theorem decodeA_mulhu : decodeA (regsWord 2 2 d.val p.val q.val) = .ok (.mulhu d p q) :=
  decodeA_regsWord (by decide) (by decide) (fun w h hs => by simp only [pickA, h, pickMulDiv, hs]) rfl rfl
theorem decodeA_div : decodeA (regsWord 2 3 d.val p.val q.val) = .ok (.div d p q) :=
  decodeA_regsWord (by decide) (by decide) (fun w h hs => by simp only [pickA, h, pickMulDiv, hs]) rfl rfl
theorem decodeA_divu : decodeA (regsWord 2 4 d.val p.val q.val) = .ok (.divu d p q) :=
  decodeA_regsWord (by decide) (by decide) (fun w h hs => by simp only [pickA, h, pickMulDiv, hs]) rfl rfl
theorem decodeA_rem : decodeA (regsWord 2 5 d.val p.val q.val) = .ok (.rem d p q) :=
  decodeA_regsWord (by decide) (by decide) (fun w h hs => by simp only [pickA, h, pickMulDiv, hs]) rfl rfl
theorem decodeA_remu : decodeA (regsWord 2 6 d.val p.val q.val) = .ok (.remu d p q) :=
  decodeA_regsWord (by decide) (by decide) (fun w h hs => by simp only [pickA, h, pickMulDiv, hs]) rfl rfl

theorem decodeA_clz : decodeA (twoRegsWord 3 0 d.val p.val) = .ok (.clz d p) :=
  decodeA_twoRegsWord (by decide) (by decide) (fun w h hs => by simp only [pickA, h, pickBits, hs]) rfl rfl
theorem decodeA_ctz : decodeA (twoRegsWord 3 1 d.val p.val) = .ok (.ctz d p) :=
  decodeA_twoRegsWord (by decide) (by decide) (fun w h hs => by simp only [pickA, h, pickBits, hs]) rfl rfl
theorem decodeA_popc : decodeA (twoRegsWord 3 2 d.val p.val) = .ok (.popc d p) :=
  decodeA_twoRegsWord (by decide) (by decide) (fun w h hs => by simp only [pickA, h, pickBits, hs]) rfl rfl
theorem decodeA_bswap : decodeA (twoRegsWord 3 3 d.val p.val) = .ok (.bswap d p) :=
  decodeA_twoRegsWord (by decide) (by decide) (fun w h hs => by simp only [pickA, h, pickBits, hs]) rfl rfl

end Words

/-- No instruction of the Bits group is encoded with anything in its rs2 field (R111). -/
theorem rs2_of_pickBits {v w : Nat} {i : Instr} (hi : pickBits v = some i) (hw : encodeA i = some w) : w / 2 ^ 11 % 32 = 0 := by
  unfold pickBits at hi
  split at hi <;> cases hi <;> cases hw <;> omega

/-- A word of the Bits group with a nonzero rs2 is a reserved encoding (R58, R111). -/
theorem decodeA_bits_reserved {sel : Nat} (hsel : sel < 2 ^ 11) (d p : Fin 32) {q : Fin 32} (hq : q ≠ 0) :
    ∃ e, decodeA (regsWord 3 sel d.val p.val q.val) = .error e := by
  have hfields : RegsFields (regsWord 3 sel d.val p.val q.val) 3 sel d.val p.val q.val :=
    regsFields_regsWord (by decide) hsel d.isLt p.isLt q.isLt
  cases h : decodeA (regsWord 3 sel d.val p.val q.val) with
  | error e => exact ⟨e, rfl⟩
  | ok i =>
    obtain ⟨hpick, henc⟩ := pickA_of_decodeA h
    have hbits : pickBits (regsWord 3 sel d.val p.val q.val) = some i := by simpa only [pickA, hfields.major] using hpick
    exact absurd (Fin.ext (hfields.rs2.symm.trans (rs2_of_pickBits hbits henc))) hq

end Sys2Proof

namespace Sys2Proof.Machine

/-! ### What an instruction that writes one x register leaves behind -/

section Gives
variable {s : State} {i : Instr} {d p q : Fin 32} {v : Word}

theorem State.givesX_of_writeX {f : Thread → Word} (h : exec i s = writeX d f s) (hv : f s.me = v) : s.givesX i d v :=
  hv ▸ State.givesX_of h

theorem State.givesX_of_binX {f : Word → Word → Word} (h : exec i s = binX d p q f s) (hv : f (s.me.getX p) (s.me.getX q) = v) : s.givesX i d v :=
  hv ▸ State.givesX_of h

end Gives

/-! ### The meanings of the instructions (R109 to R111) -/

section Meanings
variable {s : State} (d p q : Fin 32)

theorem exec_add : exec (.add d p q) s = binX d p q (fun a b => a + b) s := rfl
theorem exec_sub : exec (.sub d p q) s = binX d p q (fun a b => a - b) s := rfl
theorem exec_and : exec (.and d p q) s = binX d p q (fun a b => a &&& b) s := rfl
theorem exec_or : exec (.or d p q) s = binX d p q (fun a b => a ||| b) s := rfl
theorem exec_xor : exec (.xor d p q) s = binX d p q (fun a b => a ^^^ b) s := rfl
theorem exec_sll : exec (.sll d p q) s = binX d p q (fun a b => a <<< shamt b) s := rfl
theorem exec_srl : exec (.srl d p q) s = binX d p q (fun a b => a >>> shamt b) s := rfl
theorem exec_sra : exec (.sra d p q) s = binX d p q (fun a b => a.sshiftRight (shamt b)) s := rfl
theorem exec_slt : exec (.slt d p q) s = binX d p q (fun a b => bit01 (a.slt b)) s := rfl
theorem exec_sltu : exec (.sltu d p q) s = binX d p q (fun a b => bit01 (a.ult b)) s := rfl
theorem exec_min : exec (.min d p q) s = binX d p q (fun a b => if a.slt b then a else b) s := rfl
theorem exec_max : exec (.max d p q) s = binX d p q (fun a b => if a.slt b then b else a) s := rfl
theorem exec_minu : exec (.minu d p q) s = binX d p q (fun a b => if a.ult b then a else b) s := rfl
theorem exec_maxu : exec (.maxu d p q) s = binX d p q (fun a b => if a.ult b then b else a) s := rfl

theorem exec_mul : exec (.mul d p q) s = binX d p q (fun a b => a * b) s := rfl
theorem exec_mulh : exec (.mulh d p q) s = binX d p q (fun a b => BitVec.ofInt 64 (a.toInt * b.toInt / 2 ^ 64)) s := rfl
theorem exec_mulhu : exec (.mulhu d p q) s = binX d p q (fun a b => BitVec.ofNat 64 (a.toNat * b.toNat / 2 ^ 64)) s := rfl
theorem exec_div : exec (.div d p q) s = binX d p q (fun a b => if b = 0 then BitVec.allOnes 64 else BitVec.ofInt 64 (a.toInt.tdiv b.toInt)) s := rfl
theorem exec_divu : exec (.divu d p q) s = binX d p q (fun a b => if b = 0 then BitVec.allOnes 64 else a / b) s := rfl
theorem exec_rem : exec (.rem d p q) s = binX d p q (fun a b => if b = 0 then a else BitVec.ofInt 64 (a.toInt.tmod b.toInt)) s := rfl
theorem exec_remu : exec (.remu d p q) s = binX d p q (fun a b => if b = 0 then a else a % b) s := rfl

theorem exec_clz : exec (.clz d p) s = writeX d (fun th => BitVec.ofNat 64 (clzN 64 (th.getX p).toNat)) s := rfl
theorem exec_ctz : exec (.ctz d p) s = writeX d (fun th => BitVec.ofNat 64 (ctzN 64 (th.getX p).toNat)) s := rfl
theorem exec_popc : exec (.popc d p) s = writeX d (fun th => BitVec.ofNat 64 (popN 64 (th.getX p).toNat)) s := rfl
theorem exec_bswap : exec (.bswap d p) s = writeX d (fun th => BitVec.ofNat 64 (leNat (leBytes (th.getX p).toNat 8).reverse)) s := rfl

end Meanings

/-! ### Results of R109 to R111 in exact arithmetic -/

section Results
variable {n : Nat} (a b : BitVec n)

theorem sub_eq_ofInt : a - b = BitVec.ofInt n ((a.toNat : Int) - b.toNat) := by
  rw [Int.sub_eq_add_neg, BitVec.ofInt_add, BitVec.ofInt_neg, BitVec.ofInt_natCast, BitVec.ofInt_natCast, BitVec.ofNat_toNat, BitVec.ofNat_toNat,
    BitVec.setWidth_eq, BitVec.setWidth_eq, BitVec.sub_eq_add_neg]

theorem shiftLeft_eq_ofNat (k : Nat) : a <<< k = BitVec.ofNat n (a.toNat * 2 ^ k) := by
  apply BitVec.eq_of_toNat_eq
  rw [BitVec.toNat_shiftLeft, Nat.shiftLeft_eq, BitVec.toNat_ofNat]

theorem ushiftRight_eq_ofNat (k : Nat) : a >>> k = BitVec.ofNat n (a.toNat / 2 ^ k) := by
  rw [← Nat.shiftRight_eq_div_pow, ← BitVec.toNat_ushiftRight, BitVec.ofNat_toNat, BitVec.setWidth_eq]

theorem sshiftRight_eq_ofInt (k : Nat) : a.sshiftRight k = BitVec.ofInt n (a.toInt / 2 ^ k) := by
  rw [BitVec.sshiftRight_eq, Int.shiftRight_eq_div_pow]
  norm_cast

theorem bit01_eq_ite {c : Bool} {P : Prop} [Decidable P] (h : c = true ↔ P) : bit01 c = if P then 1 else 0 := by
  simp only [bit01, h]

theorem min_eq_ofInt : (if a.slt b then a else b) = BitVec.ofInt n (min a.toInt b.toInt) := by
  split
  · next h => rw [min_eq_left (BitVec.slt_iff_toInt_lt.mp h).le, BitVec.ofInt_toInt]
  · next h => rw [min_eq_right (not_lt.mp (mt BitVec.slt_iff_toInt_lt.mpr h)), BitVec.ofInt_toInt]

theorem max_eq_ofInt : (if a.slt b then b else a) = BitVec.ofInt n (max a.toInt b.toInt) := by
  split
  · next h => rw [max_eq_right (BitVec.slt_iff_toInt_lt.mp h).le, BitVec.ofInt_toInt]
  · next h => rw [max_eq_left (not_lt.mp (mt BitVec.slt_iff_toInt_lt.mpr h)), BitVec.ofInt_toInt]

theorem minu_eq_ofNat : (if a.ult b then a else b) = BitVec.ofNat n (min a.toNat b.toNat) := by
  split
  · next h => rw [min_eq_left (BitVec.ult_iff_lt.mp h).le, BitVec.ofNat_toNat, BitVec.setWidth_eq]
  · next h => rw [min_eq_right (not_lt.mp (mt BitVec.ult_iff_lt.mpr h)), BitVec.ofNat_toNat, BitVec.setWidth_eq]

theorem maxu_eq_ofNat : (if a.ult b then b else a) = BitVec.ofNat n (max a.toNat b.toNat) := by
  split
  · next h => rw [max_eq_right (BitVec.ult_iff_lt.mp h).le, BitVec.ofNat_toNat, BitVec.setWidth_eq]
  · next h => rw [max_eq_left (not_lt.mp (mt BitVec.ult_iff_lt.mpr h)), BitVec.ofNat_toNat, BitVec.setWidth_eq]

theorem mul_eq_ofNat : a * b = BitVec.ofNat n (a.toNat * b.toNat) := by
  rw [BitVec.ofNat_mul, BitVec.ofNat_toNat, BitVec.ofNat_toNat, BitVec.setWidth_eq, BitVec.setWidth_eq]

end Results

/-- The upper half of an exact integer of 128 bits (R110). -/
theorem ofInt_div_eq_upper (z : Int) : BitVec.ofInt 64 (z / 2 ^ 64) = (BitVec.ofInt 128 z).extractLsb' 64 64 := by
  apply BitVec.eq_of_toNat_eq
  rw [BitVec.extractLsb'_toNat, Nat.shiftRight_eq_div_pow, BitVec.toNat_ofInt, BitVec.toNat_ofInt]
  omega

theorem ofNat_div_eq_upper (m : Nat) : BitVec.ofNat 64 (m / 2 ^ 64) = (BitVec.ofNat 128 m).extractLsb' 64 64 :=
  ofInt_div_eq_upper m

/-! ### The division corner (R110) -/

theorem div_of_min_of_neg_one {a b : Word} (ha : a.toInt = -2 ^ 63) (hb : b.toInt = -1) :
    (if b = 0 then BitVec.allOnes 64 else BitVec.ofInt 64 (a.toInt.tdiv b.toInt)) = a := by
  have hb0 : b ≠ 0 := by rintro rfl; cases hb
  rw [if_neg hb0, hb, Int.tdiv_neg, Int.tdiv_one, ha, ← BitVec.ofInt_toInt (x := a), ha]
  rfl

theorem rem_of_neg_one (a : Word) {b : Word} (hb : b.toInt = -1) :
    (if b = 0 then a else BitVec.ofInt 64 (a.toInt.tmod b.toInt)) = 0 := by
  have hb0 : b ≠ 0 := by rintro rfl; cases hb
  rw [if_neg hb0, hb, Int.tmod_neg, Int.tmod_one]
  rfl

/-! ### Counting bits, and the bytes turned around (R111) -/

theorem clzN_le (w m : Nat) : clzN w m ≤ w := by
  unfold clzN
  split <;> omega

/-- Above the highest 1 bit every bit is 0. -/
theorem testBit_of_clzN {w m i : Nat} (hm : m < 2 ^ w) (hi : w ≤ i + clzN w m) : m.testBit i = false := by
  rw [clzN, Nat.mod_eq_of_lt hm] at hi
  split at hi
  · next h0 => rw [h0, Nat.zero_testBit]
  · next h0 =>
    have hlog : m.log2 < w := (Nat.log2_lt h0).mpr hm
    exact Nat.testBit_lt_two_pow ((Nat.log2_lt h0).mp (by omega))

/-- Where a bit is 1, the highest of them stands below the leading zeros. -/
theorem testBit_clzN {w m : Nat} (hm : m < 2 ^ w) (hlt : clzN w m < w) : m.testBit (w - 1 - clzN w m) = true := by
  rw [clzN, Nat.mod_eq_of_lt hm] at hlt ⊢
  split at hlt
  · omega
  · next h0 =>
    have hlog : m.log2 < w := (Nat.log2_lt h0).mpr hm
    rw [if_neg h0, Nat.sub_sub_self (by omega), Nat.testBit_log2 h0]

/-- Below the lowest 1 bit every bit is 0, and that bit is 1. -/
theorem ctzN_spec (w m : Nat) : ctzN w m ≤ w ∧ (∀ i < ctzN w m, m.testBit i = false) ∧ (ctzN w m < w → m.testBit (ctzN w m) = true) := by
  induction w generalizing m with
  | zero => simp [ctzN]
  | succ w ih =>
    obtain ⟨hle, hbelow, hat⟩ := ih (m / 2)
    unfold ctzN
    split
    · next hodd => simp [Nat.testBit_zero, hodd]
    · next heven =>
      rw [Nat.add_comm 1]
      refine ⟨by omega, fun i hi => ?_, fun hlt => ?_⟩
      · cases i with
        | zero => simp [Nat.testBit_zero, heven]
        | succ i => exact (Nat.testBit_succ m i).trans (hbelow i (by omega))
      · exact (Nat.testBit_succ m _).trans (hat (by omega))

theorem popN_eq_length (w m : Nat) : popN w m = ((List.range w).filter (fun i => m.testBit i)).length := by
  induction w generalizing m with
  | zero => rfl
  | succ w ih =>
    have htail : ((List.range w).map Nat.succ).filter (fun i => m.testBit i) = ((List.range w).filter (fun i => (m / 2).testBit i)).map Nat.succ := by
      rw [List.filter_map]
      simp only [Function.comp_def, Nat.testBit_succ]
    rw [popN, ih, List.range_succ_eq_map, List.filter_cons, Nat.testBit_zero, htail]
    split
    · next hodd => rw [List.length_cons, List.length_map, of_decide_eq_true hodd, Nat.add_comm]
    · next heven =>
      have h0 : m % 2 = 0 := by simpa using heven
      rw [List.length_map, h0, Nat.zero_add]

/-- A byte of a byte string, cut from its value (R2). -/
theorem leNat_byte (bs : List Byte) {i : Nat} (hi : i < bs.length) : leNat bs / 256 ^ i % 256 = bs[i].toNat := by
  induction bs generalizing i with
  | nil => simp at hi
  | cons b bs ih =>
    have hcons : leNat (b :: bs) = b.toNat + 256 * leNat bs := rfl
    have hb := b.isLt
    cases i with
    | zero => rw [hcons, List.getElem_cons_zero]; omega
    | succ i =>
      have hdiv : (b.toNat + 256 * leNat bs) / 256 = leNat bs := by omega
      rw [hcons, Nat.pow_succ', ← Nat.div_div_eq_div_mul, hdiv, List.getElem_cons_succ]
      exact ih (by simpa using hi)

theorem leBytes_getElem (v n : Nat) {i : Nat} (hi : i < (leBytes v n).length) : (leBytes v n)[i] = BitVec.ofNat 8 (v / 256 ^ i) := by
  induction n generalizing v i with
  | zero => simp [leBytes] at hi
  | succ n ih =>
    cases i with
    | zero => simp [leBytes]
    | succ i =>
      simp only [leBytes, List.getElem_cons_succ]
      rw [ih, Nat.div_div_eq_div_mul, Nat.pow_succ']

/-- Byte i of a word, as the bytes of a string are numbered. -/
theorem extractLsb_byte (a : Word) (i : Nat) : a.extractLsb' (8 * i) 8 = BitVec.ofNat 8 (a.toNat / 256 ^ i) := by
  apply BitVec.eq_of_toNat_eq
  rw [BitVec.extractLsb'_toNat, Nat.shiftRight_eq_div_pow, BitVec.toNat_ofNat, Nat.pow_mul]

/-- A byte string's value fits its bytes. -/
theorem leNat_lt (bs : List Byte) : leNat bs < 256 ^ bs.length := by
  induction bs with
  | nil => decide
  | cons b bs ih =>
    have hcons : leNat (b :: bs) = b.toNat + 256 * leNat bs := rfl
    have hb := b.isLt
    rw [hcons, List.length_cons, Nat.pow_succ']
    omega

/-- Turning the bytes around moves byte k to byte 7 − k. -/
theorem bswap_byte (a : Word) {k : Nat} (hk : k < 8) :
    (BitVec.ofNat 64 (leNat (leBytes a.toNat 8).reverse)).extractLsb' (8 * (7 - k)) 8 = a.extractLsb' (8 * k) 8 := by
  have hlen : (leBytes a.toNat 8).reverse.length = 8 := by simp
  have hfits : leNat (leBytes a.toNat 8).reverse < 2 ^ 64 := (leNat_lt _).trans_eq (by rw [hlen]; norm_num)
  have hbyte : (leBytes a.toNat 8).reverse[7 - k]'(by omega) = BitVec.ofNat 8 (a.toNat / 256 ^ k) := by
    rw [List.getElem_reverse, leBytes_getElem]
    congr 3
    simp
    omega
  rw [extractLsb_byte, extractLsb_byte, BitVec.toNat_ofNat, Nat.mod_eq_of_lt hfits, ← hbyte]
  apply BitVec.eq_of_toNat_eq
  rw [BitVec.toNat_ofNat]
  exact leNat_byte _ (by omega)

end Sys2Proof.Machine

section
open Sys2Proof Sys2Proof.Machine

/-- Settles O1: each word decodes by its selector, and each meaning writes one x register with a value that a lemma above puts in exact arithmetic. -/
theorem registerGroupResults : Obligations.RegisterGroupResults := by
  unfold Obligations.RegisterGroupResults
  refine ⟨fun s d p q => ?alu, fun s d p q => ?muldiv, fun s d p => ?bits⟩
  case alu =>
    exact ⟨⟨decodeA_add d p q, State.givesX_of_binX (exec_add d p q) (BitVec.add_def _ _)⟩,
      ⟨decodeA_sub d p q, State.givesX_of_binX (exec_sub d p q) (sub_eq_ofInt _ _)⟩,
      ⟨decodeA_and d p q, State.givesX_of_binX (exec_and d p q) rfl⟩, ⟨decodeA_or d p q, State.givesX_of_binX (exec_or d p q) rfl⟩,
      ⟨decodeA_xor d p q, State.givesX_of_binX (exec_xor d p q) rfl⟩, ⟨decodeA_sll d p q, State.givesX_of_binX (exec_sll d p q) (shiftLeft_eq_ofNat _ _)⟩,
      ⟨decodeA_srl d p q, State.givesX_of_binX (exec_srl d p q) (ushiftRight_eq_ofNat _ _)⟩,
      ⟨decodeA_sra d p q, State.givesX_of_binX (exec_sra d p q) (sshiftRight_eq_ofInt _ _)⟩,
      ⟨decodeA_slt d p q, State.givesX_of_binX (exec_slt d p q) (bit01_eq_ite BitVec.slt_iff_toInt_lt)⟩,
      ⟨decodeA_sltu d p q, State.givesX_of_binX (exec_sltu d p q) (bit01_eq_ite BitVec.ult_iff_lt)⟩,
      ⟨decodeA_min d p q, State.givesX_of_binX (exec_min d p q) (min_eq_ofInt _ _)⟩,
      ⟨decodeA_max d p q, State.givesX_of_binX (exec_max d p q) (max_eq_ofInt _ _)⟩,
      ⟨decodeA_minu d p q, State.givesX_of_binX (exec_minu d p q) (minu_eq_ofNat _ _)⟩,
      ⟨decodeA_maxu d p q, State.givesX_of_binX (exec_maxu d p q) (maxu_eq_ofNat _ _)⟩⟩
  case muldiv =>
    exact ⟨⟨decodeA_mul d p q, State.givesX_of_binX (exec_mul d p q) (mul_eq_ofNat _ _)⟩,
      ⟨decodeA_mulh d p q, State.givesX_of_binX (exec_mulh d p q) (ofInt_div_eq_upper _)⟩,
      ⟨decodeA_mulhu d p q, State.givesX_of_binX (exec_mulhu d p q) (ofNat_div_eq_upper _)⟩,
      ⟨decodeA_div d p q, State.givesX_of_binX (exec_div d p q) rfl, fun ha hb => State.givesX_of_binX (exec_div d p q) (div_of_min_of_neg_one ha hb)⟩,
      ⟨decodeA_divu d p q, State.givesX_of_binX (exec_divu d p q) (if_congr Iff.rfl rfl BitVec.udiv_def)⟩,
      ⟨decodeA_rem d p q, State.givesX_of_binX (exec_rem d p q) rfl, fun _ hb => State.givesX_of_binX (exec_rem d p q) (rem_of_neg_one _ hb)⟩,
      ⟨decodeA_remu d p q, State.givesX_of_binX (exec_remu d p q) (if_congr Iff.rfl rfl BitVec.umod_def)⟩⟩
  case bits =>
    have hfits := (s.me.getX p).isLt
    obtain ⟨hctz, hbelow, hat⟩ := ctzN_spec 64 (s.me.getX p).toNat
    exact ⟨⟨decodeA_clz d p, clzN 64 (s.me.getX p).toNat, State.givesX_of (exec_clz d p), clzN_le _ _, fun _ => testBit_of_clzN hfits,
        testBit_clzN hfits⟩,
      ⟨decodeA_ctz d p, ctzN 64 (s.me.getX p).toNat, State.givesX_of (exec_ctz d p), hctz, hbelow, hat⟩,
      ⟨decodeA_popc d p, State.givesX_of_writeX (exec_popc d p) (congrArg (BitVec.ofNat 64) (popN_eq_length 64 _))⟩,
      ⟨decodeA_bswap d p, _, State.givesX_of (exec_bswap d p), fun _ hk => bswap_byte _ hk⟩,
      fun q hq fn hfn => decodeA_bits_reserved (by omega) d p hq⟩

end
end

section
/-!
PROOF. Immediates, immediate shifts and LUI: their words, their results in exact arithmetic, and any value built in six instructions
(R52, R112 to R114).
-/
namespace Sys2Proof

/-! ### Words (R112 to R114) -/

/-- The word of an immediate shift: a selector in bits [15:14] and a count of six bits under major opcode 10 (R113). -/
def shiftWord (sel d p h : Nat) : Nat := 10 * 2 ^ 26 + sel * 2 ^ 14 + d * 2 ^ 21 + p * 2 ^ 16 + h

section ShiftWord
variable {sel : Nat} (hsel : sel < 4) (d p : Fin 32) (h : BitVec 6)
include hsel

theorem pickA_shiftWord : pickA (shiftWord sel d.val p.val h.toNat) = pickShi (shiftWord sel d.val p.val h.toNat) := by
  have hmajor : fld (shiftWord sel d.val p.val h.toNat) 26 6 = 10 := by rw [fld, shiftWord]; omega
  simp only [pickA, hmajor]

theorem fld_shiftWord : fld (shiftWord sel d.val p.val h.toNat) 14 2 = sel := by
  rw [fld, shiftWord]
  omega

/-- A selector of the immediate shifts decodes to its instruction from its word. -/
theorem decodeA_shiftWord {mk : Fin 32 → Fin 32 → BitVec 6 → Instr}
    (hpick : ∀ w, fld w 14 2 = sel → pickShi w = some (mk (fin32 w 21) (fin32 w 16) (bits w 0 6)))
    (henc : encodeA (mk d p h) = some (shiftWord sel d.val p.val h.toNat)) (hwf : (mk d p h).wellFormed = true) :
    decodeA (shiftWord sel d.val p.val h.toNat) = .ok (mk d p h) := by
  have hd : fin32 (shiftWord sel d.val p.val h.toNat) 21 = d := fin32_eq (by rw [shiftWord]; omega)
  have hp : fin32 (shiftWord sel d.val p.val h.toNat) 16 = p := fin32_eq (by rw [shiftWord]; omega)
  have hh : bits (shiftWord sel d.val p.val h.toNat) 0 6 = h := bits_low (by rw [shiftWord]; omega)
  refine decodeA_of_pickA ?_ henc hwf
  rw [pickA_shiftWord hsel, hpick _ (fld_shiftWord hsel d p h), hd, hp, hh]

end ShiftWord

section Words
variable (d p : Fin 32) (i : BitVec 16) (h : BitVec 6)

theorem decodeA_addi : decodeA (regsImmWord 4 d.val p.val i.toNat) = .ok (.addi d p i) :=
  decodeA_regsImmWord (by decide) (fun w h => by simp only [pickA, h]) rfl rfl
theorem decodeA_andi : decodeA (regsImmWord 5 d.val p.val i.toNat) = .ok (.andi d p i) :=
  decodeA_regsImmWord (by decide) (fun w h => by simp only [pickA, h]) rfl rfl
theorem decodeA_ori : decodeA (regsImmWord 6 d.val p.val i.toNat) = .ok (.ori d p i) :=
  decodeA_regsImmWord (by decide) (fun w h => by simp only [pickA, h]) rfl rfl
theorem decodeA_xori : decodeA (regsImmWord 7 d.val p.val i.toNat) = .ok (.xori d p i) :=
  decodeA_regsImmWord (by decide) (fun w h => by simp only [pickA, h]) rfl rfl
theorem decodeA_slti : decodeA (regsImmWord 8 d.val p.val i.toNat) = .ok (.slti d p i) :=
  decodeA_regsImmWord (by decide) (fun w h => by simp only [pickA, h]) rfl rfl
theorem decodeA_sltiu : decodeA (regsImmWord 9 d.val p.val i.toNat) = .ok (.sltiu d p i) :=
  decodeA_regsImmWord (by decide) (fun w h => by simp only [pickA, h]) rfl rfl

theorem decodeA_slli : decodeA (shiftWord 0 d.val p.val h.toNat) = .ok (.slli d p h) :=
  decodeA_shiftWord (by decide) d p h (fun w hs => by simp only [pickShi, hs]) rfl rfl
theorem decodeA_srli : decodeA (shiftWord 1 d.val p.val h.toNat) = .ok (.srli d p h) :=
  decodeA_shiftWord (by decide) d p h (fun w hs => by simp only [pickShi, hs]) rfl rfl
theorem decodeA_srai : decodeA (shiftWord 2 d.val p.val h.toNat) = .ok (.srai d p h) :=
  decodeA_shiftWord (by decide) d p h (fun w hs => by simp only [pickShi, hs]) rfl rfl


theorem pickShi_reserved {w : Nat} (hs : fld w 14 2 = 3) : pickShi w = none := by
  simp only [pickShi, hs]

theorem decodeA_of_pickA_none {w : Nat} (h : pickA w = none) : decodeA w = .error .reservedOpcode := by
  simp only [decodeA, accept, h]

/-- Selector 11 of the immediate shifts is a reserved encoding (R55, R113). -/
theorem decodeA_shift_reserved : ∃ e, decodeA (shiftWord 3 d.val p.val h.toNat) = .error e :=
  ⟨_, decodeA_of_pickA_none ((pickA_shiftWord (by decide) d p h).trans (pickShi_reserved (fld_shiftWord (by decide) d p h)))⟩

theorem decodeA_lui : decodeA (0x2C000000 + d.val * 2 ^ 21 + i.toNat) = .ok (.lui d i) := by
  have hmajor : fld (0x2C000000 + d.val * 2 ^ 21 + i.toNat) 26 6 = 11 := by rw [fld]; omega
  have hd : fin32 (0x2C000000 + d.val * 2 ^ 21 + i.toNat) 21 = d := fin32_eq (by omega)
  have hi : bits (0x2C000000 + d.val * 2 ^ 21 + i.toNat) 0 16 = i := bits_low (by omega)
  exact decodeA_of_pickA (by simp only [pickA, hmajor, hd, hi]) rfl rfl

end Words

end Sys2Proof

namespace Sys2Proof.Machine

/-! ### The meanings of the instructions (R112 to R114) -/

section Meanings
variable {s : State} (d p : Fin 32) (i : BitVec 16) (h : BitVec 6)

theorem exec_addi : exec (.addi d p i) s = writeX d (fun th => th.getX p + simm64 i) s := rfl
theorem exec_andi : exec (.andi d p i) s = writeX d (fun th => th.getX p &&& zimm64 i) s := rfl
theorem exec_ori : exec (.ori d p i) s = writeX d (fun th => th.getX p ||| zimm64 i) s := rfl
theorem exec_xori : exec (.xori d p i) s = writeX d (fun th => th.getX p ^^^ zimm64 i) s := rfl
theorem exec_slti : exec (.slti d p i) s = writeX d (fun th => bit01 ((th.getX p).slt (simm64 i))) s := rfl
theorem exec_sltiu : exec (.sltiu d p i) s = writeX d (fun th => bit01 ((th.getX p).ult (simm64 i))) s := rfl
theorem exec_slli : exec (.slli d p h) s = writeX d (fun th => th.getX p <<< h.toNat) s := rfl
theorem exec_srli : exec (.srli d p h) s = writeX d (fun th => th.getX p >>> h.toNat) s := rfl
theorem exec_srai : exec (.srai d p h) s = writeX d (fun th => (th.getX p).sshiftRight h.toNat) s := rfl
theorem exec_lui : exec (.lui d i) s = writeX d (fun _ => simm64 i <<< 16) s := rfl

end Meanings

/-! ### Results in exact arithmetic -/

section Results
variable {n : Nat} (a : Word) (i : BitVec n)

theorem add_simm64 : a + simm64 i = BitVec.ofInt 64 (a.toNat + i.toInt) := by
  rw [BitVec.ofInt_add, BitVec.ofInt_natCast, BitVec.ofNat_toNat, BitVec.setWidth_eq]
  rfl

theorem slt_simm64 (hn : n ≤ 64) : a.slt (simm64 i) = true ↔ a.toInt < i.toInt := by
  rw [BitVec.slt_iff_toInt_lt, simm64, BitVec.toInt_signExtend_of_le hn]

theorem ult_simm64 : a.ult (simm64 i) = true ↔ a.toNat < (BitVec.ofInt 64 i.toInt).toNat :=
  BitVec.ult_iff_lt

theorem simm64_shiftLeft (k : Nat) : simm64 i <<< k = BitVec.ofInt 64 (i.toInt * 2 ^ k) := by
  have hpow : BitVec.twoPow 64 k = BitVec.ofInt 64 (2 ^ k) := by
    apply BitVec.eq_of_toNat_eq
    rw [BitVec.toNat_twoPow, BitVec.toNat_ofInt]
    norm_cast
  rw [BitVec.shiftLeft_eq_mul_twoPow, BitVec.ofInt_mul, hpow]
  rfl

theorem zimm64_eq_ofNat : zimm64 i = BitVec.ofNat 64 i.toNat :=
  (BitVec.ofNat_toNat 64 i).symm

end Results

/-! ### Six instructions build any value (R114) -/

/-- The low bits of a word are the bits of a value from bit k on. -/
def HoldsFrom (v : Word) (k : Nat) (w : Word) : Prop := ∀ j, j + k < 64 → w.getLsbD j = v.getLsbD (j + k)

/-- LUI's immediate holds the upper quarter of the value. -/
theorem holdsFrom_simm64 (v : Word) : HoldsFrom v 48 (simm64 (v.extractLsb' 48 16)) := by
  intro j hj
  have h64 : j < 64 := by omega
  have h16 : j < 16 := by omega
  rw [simm64, BitVec.getLsbD_signExtend, if_pos h16, BitVec.getLsbD_extractLsb']
  simp [h64, h16, Nat.add_comm]

/-- A shift by 16 and an OR of the next quarter hold 16 bits more. -/
theorem HoldsFrom.shiftIn {v w : Word} {k : Nat} (h : HoldsFrom v (k + 16) w) :
    HoldsFrom v k (w <<< 16 ||| zimm64 (v.extractLsb' k 16)) := by
  intro j hj
  have h64 : j < 64 := by omega
  rw [BitVec.getLsbD_or, BitVec.getLsbD_shiftLeft, zimm64, BitVec.zeroExtend, BitVec.getLsbD_setWidth, BitVec.getLsbD_extractLsb']
  by_cases h16 : j < 16
  · simp [h16, h64, Nat.add_comm]
  · have hw := h (j - 16) (by omega)
    rw [show j - 16 + (k + 16) = j + k by omega] at hw
    simp [h16, h64, hw]

/-- What holds a value from bit 0 on is the value. -/
theorem HoldsFrom.eq {v w : Word} (h : HoldsFrom v 0 w) : w = v :=
  BitVec.eq_of_getLsbD_eq fun j hj => h j hj

/-- The state after instructions that leave v in an x register, advance the program counter by n, and change nothing else. -/
def State.builtX (s : State) (d : Fin 32) (v : Word) (n : Addr) : State := s.onMe (fun th => (th.setX d v).goTo (th.pc + n))

section Built
variable {s : State} {d : Fin 32} {v w : Word} {n : Addr}

theorem State.me_builtX : (s.builtX d v n).me = (s.me.setX d v).goTo (s.me.pc + n) :=
  s.me_onMe _

theorem State.getX_builtX (r : Fin 32) : (s.builtX d v n).me.getX r = if r = d ∧ r ≠ 0 then v else s.me.getX r := by
  rw [State.me_builtX]
  exact Thread.getX_setX s.me d r v

theorem Thread.sameButX_setX_goTo (th : Thread) (d : Fin 32) (v : Word) (pc : Addr) : th.sameButX ((th.setX d v).goTo pc) := by
  unfold Thread.setX
  split <;> rfl

theorem State.sameButX_builtX : s.me.sameButX (s.builtX d v n).me := by
  rw [State.me_builtX]
  exact s.me.sameButX_setX_goTo d v _

/-- The second of two writes of one x register stands, wherever the program counter went in between. -/
theorem Thread.setX_goTo_setX (th : Thread) (d : Fin 32) (v w : Word) (pc : Addr) : ((th.setX d v).goTo pc).setX d w = (th.setX d w).goTo pc := by
  unfold Thread.setX
  split
  · rfl
  · simp [Thread.goTo]

theorem State.exec_of_writeX {i : Instr} {f : Thread → Word} (h : exec i s = writeX d f s) : exec i s = .next (s.builtX d (f s.me) 4) := by
  rw [h]
  simp only [writeX, State.builtX, State.onMe, State.onThread, Thread.advance, Thread.setX_pc]
  rfl

/-- Building twice is building once, further on. -/
theorem State.builtX_builtX (m : Addr) : (s.builtX d v n).builtX d w m = s.builtX d w (n + m) := by
  rw [State.builtX, State.builtX, State.onMe_onMe, State.builtX]
  simp only [Thread.setX_goTo_setX, ← BitVec.add_assoc]
  rfl

variable (hd : d ≠ 0)
include hd

theorem exec_ori_builtX (i : BitVec 16) : exec (.ori d d i) (s.builtX d v n) = .next (s.builtX d (v ||| zimm64 i) (n + 4)) := by
  rw [State.exec_of_writeX (exec_ori d d i), State.builtX_builtX, State.getX_builtX, if_pos ⟨rfl, hd⟩]

theorem exec_slli_builtX (h : BitVec 6) : exec (.slli d d h) (s.builtX d v n) = .next (s.builtX d (v <<< h.toNat) (n + 4)) := by
  rw [State.exec_of_writeX (exec_slli d d h), State.builtX_builtX, State.getX_builtX, if_pos ⟨rfl, hd⟩]

end Built

end Sys2Proof.Machine

section
open Sys2Proof Sys2Proof.Machine

/-- Settles O2: each word decodes by its major opcode or selector, each meaning writes one x register, and every OR and shift of the six instructions
brings in one more quarter of the value. -/
theorem immediateGroupResults : Obligations.ImmediateGroupResults := by
  unfold Obligations.ImmediateGroupResults
  refine ⟨fun s d p i h => ?groups, fun s d i => ⟨decodeA_lui d i, State.givesX_of_writeX (exec_lui d i) (simm64_shiftLeft i 16)⟩,
    fun s d v hd => ?build⟩
  case groups =>
    exact ⟨⟨decodeA_addi d p i, State.givesX_of_writeX (exec_addi d p i) (add_simm64 _ i)⟩,
      ⟨decodeA_andi d p i, State.givesX_of_writeX (exec_andi d p i) (congrArg (_ &&& ·) (zimm64_eq_ofNat i))⟩,
      ⟨decodeA_ori d p i, State.givesX_of_writeX (exec_ori d p i) (congrArg (_ ||| ·) (zimm64_eq_ofNat i))⟩,
      ⟨decodeA_xori d p i, State.givesX_of_writeX (exec_xori d p i) (congrArg (_ ^^^ ·) (zimm64_eq_ofNat i))⟩,
      ⟨decodeA_slti d p i, State.givesX_of_writeX (exec_slti d p i) (bit01_eq_ite (slt_simm64 _ i (by decide)))⟩,
      ⟨decodeA_sltiu d p i, State.givesX_of_writeX (exec_sltiu d p i) (bit01_eq_ite (ult_simm64 _ i))⟩,
      ⟨decodeA_slli d p h, State.givesX_of_writeX (exec_slli d p h) (shiftLeft_eq_ofNat _ _)⟩,
      ⟨decodeA_srli d p h, State.givesX_of_writeX (exec_srli d p h) (ushiftRight_eq_ofNat _ _)⟩,
      ⟨decodeA_srai d p h, State.givesX_of_writeX (exec_srai d p h) (sshiftRight_eq_ofInt _ _)⟩, decodeA_shift_reserved d p h⟩
  case build =>
    refine ⟨_, _, _, _, _, _, State.exec_of_writeX (exec_lui d _), exec_ori_builtX hd _, exec_slli_builtX hd 16, exec_ori_builtX hd _,
      exec_slli_builtX hd 16, exec_ori_builtX hd _, ?value, ?pc, State.sameButX_builtX, s.sameButMe_onMe _, s.sameMemory_onMe _, ?others⟩
    case value =>
      rw [State.getX_builtX, if_pos ⟨rfl, hd⟩]
      exact (holdsFrom_simm64 v).shiftIn.shiftIn.shiftIn.eq
    case pc => rw [State.me_builtX]; rfl
    case others =>
      intro r hr
      rw [State.getX_builtX, if_neg fun h => hr h.1]

end
end

section
/-!
PROOF. The ADDR group, AADDI, ADDPC and the VEC group but VLD: their words, address arithmetic modulo 2^80 and lane arithmetic modulo 2^64
(R115 to R117, R125).
-/
namespace Sys2Proof

/-! ### Words (R115 to R117, R125) -/

/-- The same as for three register fields, where the rs2 field is zero. -/
theorem decodeA_of_twoRegsFields {major sel d p : Nat} {i : Instr} (hmajor : major < 64) (hsel : sel < 2 ^ 11) (hd : d < 32) (hp : p < 32)
    (hpick : ∀ w, RegsFields w major sel d p 0 → pickA w = some i) (henc : encodeA i = some (twoRegsWord major sel d p)) (hwf : i.wellFormed = true) :
    decodeA (regsWord major sel d p 0) = .ok i :=
  decodeA_of_regsFields hmajor hsel hd hp (by decide) hpick (henc.trans (congrArg some (regsWord_zero major sel d p).symm)) hwf

section Words
variable (d p q : Fin 16) (x y : Fin 32) (m : Fin 8) (i : BitVec 16) (o : BitVec 22)

theorem decodeA_aadd : decodeA (regsWord 12 0 d.val p.val x.val) = .ok (.aadd d p x) :=
  decodeA_of_regsFields (by decide) (by decide) (by omega) (by omega) (by omega)
    (fun w h => by simp only [pickA, h.major, pickAddr, h.sel, fin16_of_field h.rd, fin16_of_field h.rs1, fin32_eq h.rs2]) rfl rfl
theorem decodeA_asub : decodeA (regsWord 12 1 x.val p.val q.val) = .ok (.asub x p q) :=
  decodeA_of_regsFields (by decide) (by decide) (by omega) (by omega) (by omega)
    (fun w h => by simp only [pickA, h.major, pickAddr, h.sel, fin32_eq h.rd, fin16_of_field h.rs1, fin16_of_field h.rs2]) rfl rfl
theorem decodeA_afromx : decodeA (regsWord 12 2 d.val x.val 0) = .ok (.afromx d x) :=
  decodeA_of_twoRegsFields (by decide) (by decide) (by omega) (by omega)
    (fun w h => by simp only [pickA, h.major, pickAddr, h.sel, fin16_of_field h.rd, fin32_eq h.rs1]) rfl rfl
theorem decodeA_atox : decodeA (regsWord 12 3 x.val p.val 0) = .ok (.atox x p) :=
  decodeA_of_twoRegsFields (by decide) (by decide) (by omega) (by omega)
    (fun w h => by simp only [pickA, h.major, pickAddr, h.sel, fin32_eq h.rd, fin16_of_field h.rs1]) rfl rfl
theorem decodeA_ahi : decodeA (regsWord 12 4 x.val p.val 0) = .ok (.ahi x p) :=
  decodeA_of_twoRegsFields (by decide) (by decide) (by omega) (by omega)
    (fun w h => by simp only [pickA, h.major, pickAddr, h.sel, fin32_eq h.rd, fin16_of_field h.rs1]) rfl rfl
theorem decodeA_asethi : decodeA (regsWord 12 5 d.val p.val x.val) = .ok (.asethi d p x) :=
  decodeA_of_regsFields (by decide) (by decide) (by omega) (by omega) (by omega)
    (fun w h => by simp only [pickA, h.major, pickAddr, h.sel, fin16_of_field h.rd, fin16_of_field h.rs1, fin32_eq h.rs2]) rfl rfl

theorem decodeA_aaddi : decodeA (regsImmWord 13 d.val p.val i.toNat) = .ok (.aaddi d p i) := by
  have hmajor : fld (regsImmWord 13 d.val p.val i.toNat) 26 6 = 13 :=
    fld_regsImmWord (by decide) (d.castLE (by decide)) (p.castLE (by decide)) i
  have hpick : pickA (regsImmWord 13 d.val p.val i.toNat) = some (.aaddi d p i) := by
    simp only [pickA, hmajor, fin16_regsImmWord_high, fin16_regsImmWord_low, bits_regsImmWord]
  exact decodeA_of_pickA hpick rfl rfl

theorem decodeA_addpc : decodeA (0x38000000 + d.val * 2 ^ 22 + o.toNat) = .ok (.addpc d o) := by
  have hmajor : fld (0x38000000 + d.val * 2 ^ 22 + o.toNat) 26 6 = 14 := by rw [fld]; omega
  have hd : fin16 (0x38000000 + d.val * 2 ^ 22 + o.toNat) 22 = d := fin16_eq (by omega)
  have ho : bits (0x38000000 + d.val * 2 ^ 22 + o.toNat) 0 22 = o := bits_low (by omega)
  exact decodeA_of_pickA (by simp only [pickA, hmajor, hd, ho]) rfl rfl

theorem decodeA_vidx : decodeA (regsWord 34 0 d.val x.val y.val) = .ok (.vidx d x y) :=
  decodeA_of_regsFields (by decide) (by decide) (by omega) (by omega) (by omega)
    (fun w h => by simp only [pickA, h.major, pickVec, h.sel, fin16_of_field h.rd, fin32_eq h.rs1, fin32_eq h.rs2]) rfl rfl
theorem decodeA_vadd : decodeA (regsWord 34 2 d.val p.val q.val) = .ok (.vadd d p q) :=
  decodeA_of_regsFields (by decide) (by decide) (by omega) (by omega) (by omega)
    (fun w h => by simp only [pickA, h.major, pickVec, h.sel, fin16_of_field h.rd, fin16_of_field h.rs1, fin16_of_field h.rs2]) rfl rfl
theorem decodeA_vbcast : decodeA (regsWord 34 3 d.val x.val 0) = .ok (.vbcast d x) :=
  decodeA_of_twoRegsFields (by decide) (by decide) (by omega) (by omega)
    (fun w h => by simp only [pickA, h.major, pickVec, h.sel, fin16_of_field h.rd, fin32_eq h.rs1]) rfl rfl
theorem decodeA_vcmp : decodeA (regsWord 34 4 m.val p.val q.val) = .ok (.vcmp m p q) :=
  decodeA_of_regsFields (by decide) (by decide) (by omega) (by omega) (by omega)
    (fun w h => by simp only [pickA, h.major, pickVec, h.sel, fin8_of_field h.rd, fin16_of_field h.rs1, fin16_of_field h.rs2]) rfl rfl
theorem decodeA_vext : decodeA (regsWord 34 5 x.val p.val y.val) = .ok (.vext x p y) :=
  decodeA_of_regsFields (by decide) (by decide) (by omega) (by omega) (by omega)
    (fun w h => by simp only [pickA, h.major, pickVec, h.sel, fin32_eq h.rd, fin16_of_field h.rs1, fin32_eq h.rs2]) rfl rfl

end Words

end Sys2Proof

namespace Sys2Proof.Machine

/-! ### What an instruction that writes one a, v or m register leaves behind -/

section Gives
variable {s : State} {i : Instr}

theorem State.givesA_of_writeA {d : Fin 16} {f : Thread → Addr} {v : Addr} (h : exec i s = writeA d f s) (hv : f s.me = v) : s.givesA i d v :=
  hv ▸ State.givesA_of h

/-- A v register written gives its lanes and nothing else. -/
theorem State.givesV_of {d : Fin 16} {f : Thread → Vector Word 8} {v : Fin 8 → Word}
    (h : exec i s = .next (s.onMe (fun th => (th.setV d (f th)).advance))) (hv : ∀ l, (f s.me).get l = v l) : s.givesV i d v := by
  refine ⟨_, h, s.sameButMe_onMe _, s.sameMemory_onMe _, ?_⟩
  rw [s.me_onMe]
  refine ⟨rfl, rfl, rfl, fun r l => ?_⟩
  rw [Thread.advance_getV, Thread.getV_setV, ← hv, apply_ite (fun w => Vector.get w l)]

/-- An m register written gives its bits and nothing else. -/
theorem State.givesM_of {d : Fin 8} {f : Thread → BitVec 8} {v : Fin 8 → Bool}
    (h : exec i s = .next (s.onMe (fun th => (th.setM d (f th)).advance))) (hv : ∀ l : Fin 8, (f s.me).getLsbD l.val = v l) : s.givesM i d v := by
  refine ⟨_, h, s.sameButMe_onMe _, s.sameMemory_onMe _, ?_⟩
  rw [s.me_onMe]
  refine ⟨rfl, rfl, rfl, fun r l => ?_⟩
  rw [Thread.advance_getM, Thread.getM_setM, ← hv, apply_ite (fun w => BitVec.getLsbD w l.val)]

end Gives

/-! ### Lane masks -/

/-- The number whose bits are those of a lane mask. -/
def maskNat {n : Nat} (b : Fin n → Bool) : Nat := (List.finRange n).foldl (fun acc l => acc + (b l).toNat * 2 ^ l.val) 0

theorem maskNat_succ {n : Nat} (b : Fin (n + 1) → Bool) :
    maskNat b = 2 ^ n * (b (Fin.last n)).toNat + maskNat (fun l => b l.castSucc) := by
  rw [maskNat, List.finRange_succ_last, List.foldl_append, List.foldl_map]
  exact (Nat.add_comm _ _).trans (congrArg (· + _) (Nat.mul_comm _ _))

theorem maskNat_lt {n : Nat} (b : Fin n → Bool) : maskNat b < 2 ^ n := by
  induction n with
  | zero => exact Nat.one_pos
  | succ n ih =>
    have hrest := ih (fun l => b l.castSucc)
    rw [maskNat_succ]
    cases b (Fin.last n) <;> simp <;> omega

/-- Bit l of a lane mask is that of lane l. -/
theorem testBit_maskNat {n : Nat} (b : Fin n → Bool) (l : Fin n) : (maskNat b).testBit l.val = b l := by
  induction n with
  | zero => exact l.elim0
  | succ n ih =>
    rw [maskNat_succ, Nat.testBit_two_pow_mul_add _ (maskNat_lt _)]
    cases l using Fin.lastCases with
    | last => cases b (Fin.last n) <;> simp
    | cast l =>
      rw [Fin.val_castSucc, if_pos l.isLt]
      exact ih _ l

theorem getLsbD_maskNat {n : Nat} (b : Fin n → Bool) (l : Fin n) : (BitVec.ofNat n (maskNat b)).getLsbD l.val = b l := by
  rw [BitVec.getLsbD_ofNat, testBit_maskNat]
  simp

/-! ### The meanings of the instructions (R115 to R117, R125) -/

section Meanings
variable {s : State} (d p q : Fin 16) (x y : Fin 32) (m : Fin 8) (i : BitVec 16) (o : BitVec 22)

theorem exec_aadd : exec (.aadd d p x) s = writeA d (fun th => th.getA p + simm80 (th.getX x)) s := rfl
theorem exec_asub : exec (.asub x p q) s = writeX x (fun th => (th.getA p - th.getA q).truncate 64) s := rfl
theorem exec_afromx : exec (.afromx d x) s = writeA d (fun th => (th.getX x).zeroExtend 80) s := rfl
theorem exec_atox : exec (.atox x p) s = writeX x (fun th => (th.getA p).truncate 64) s := rfl
theorem exec_ahi : exec (.ahi x p) s = writeX x (fun th => BitVec.ofNat 64 ((th.getA p).toNat / 2 ^ 64)) s := rfl
theorem exec_asethi : exec (.asethi d p x) s =
    writeA d (fun th => BitVec.ofNat 80 ((th.getX x).toNat % 2 ^ 16 * 2 ^ 64 + (th.getA p).toNat % 2 ^ 64)) s := rfl
theorem exec_aaddi : exec (.aaddi d p i) s = writeA d (fun th => th.getA p + simm80 i) s := rfl
theorem exec_addpc : exec (.addpc d o) s = writeA d (fun th => relTarget th.pc o) s := rfl

theorem exec_vidx : exec (.vidx d x y) s = .next (s.onMe (fun th =>
    (th.setV d (Vector.ofFn (fun l => th.getX x + BitVec.ofNat 64 l.val * th.getX y))).advance)) := rfl
theorem exec_vadd : exec (.vadd d p q) s = .next (s.onMe (fun th =>
    (th.setV d (Vector.ofFn (fun l => (th.getV p).get l + (th.getV q).get l))).advance)) := rfl
theorem exec_vbcast : exec (.vbcast d x) s = .next (s.onMe (fun th => (th.setV d (Vector.replicate 8 (th.getX x))).advance)) := rfl
theorem exec_vcmp : exec (.vcmp m p q) s = .next (s.onMe (fun th =>
    (th.setM m (BitVec.ofNat 8 (maskNat fun l => ((th.getV p).get l).ult ((th.getV q).get l)))).advance)) := rfl
theorem exec_vext : exec (.vext x p y) s =
    writeX x (fun th => (th.getV p).get ⟨(th.getX y).toNat % 8, Nat.mod_lt _ (by decide)⟩) s := rfl

end Meanings

/-! ### Results in exact arithmetic -/

theorem truncate_sub_eq_ofInt (a b : Addr) : (a - b).truncate 64 = BitVec.ofInt 64 ((a.toNat : Int) - b.toNat) := by
  rw [sub_eq_ofInt]
  apply BitVec.eq_of_toNat_eq
  rw [BitVec.truncate, BitVec.toNat_setWidth, BitVec.toNat_ofInt, BitVec.toNat_ofInt]
  omega

theorem add_ofNat_mul {n : Nat} (a b : BitVec n) (k : Nat) : a + BitVec.ofNat n k * b = BitVec.ofNat n (a.toNat + k * b.toNat) := by
  rw [BitVec.ofNat_add, BitVec.ofNat_mul, BitVec.ofNat_toNat, BitVec.ofNat_toNat, BitVec.setWidth_eq, BitVec.setWidth_eq]

end Sys2Proof.Machine

section
open Sys2Proof Sys2Proof.Machine

/-- Settles O3: each word decodes by its fields, each meaning writes one register, and the results are exact sums modulo the register's width. -/
theorem addressAndVectorGroupResults : Obligations.AddressAndVectorGroupResults := by
  unfold Obligations.AddressAndVectorGroupResults
  refine ⟨fun s d p q x i o => ?address, fun s d p q x y m => ?vector⟩
  case address =>
    exact ⟨⟨decodeA_aadd d p x, State.givesA_of_writeA (exec_aadd d p x) (add_simm80 _ _)⟩,
      ⟨decodeA_asub p q x, State.givesX_of_writeX (exec_asub p q x) (truncate_sub_eq_ofInt _ _)⟩,
      ⟨decodeA_afromx d x, State.givesA_of_writeA (exec_afromx d x) (BitVec.ofNat_toNat 80 _).symm⟩,
      ⟨decodeA_atox p x, State.givesX_of_writeX (exec_atox p x) (BitVec.ofNat_toNat 64 _).symm⟩,
      ⟨decodeA_ahi p x, State.givesX_of (exec_ahi p x)⟩, ⟨decodeA_asethi d p x, State.givesA_of (exec_asethi d p x)⟩,
      ⟨decodeA_aaddi d p i, State.givesA_of_writeA (exec_aaddi d p i) (add_simm80 _ i)⟩,
      ⟨decodeA_addpc d o, State.givesA_of_writeA (exec_addpc d o) (relTarget_eq _ o)⟩⟩
  case vector =>
    exact ⟨⟨decodeA_vidx d x y, State.givesV_of (exec_vidx d x y) fun l => (Vector.get_ofFn _ l).trans (add_ofNat_mul _ _ l.val)⟩,
      ⟨decodeA_vadd d p q, State.givesV_of (exec_vadd d p q) fun l => (Vector.get_ofFn _ l).trans (BitVec.add_def _ _)⟩,
      ⟨decodeA_vbcast d x, State.givesV_of (exec_vbcast d x) fun l => Vector.get_replicate 8 _ l⟩,
      ⟨decodeA_vcmp p q m, State.givesM_of (exec_vcmp p q m) fun l => getLsbD_maskNat _ l⟩,
      ⟨decodeA_vext p x y, State.givesX_of_writeX (exec_vext p x y) ((BitVec.ofNat_toNat 64 _).trans (BitVec.setWidth_eq _)).symm⟩⟩

end
end

section
/-!
PROOF. The order of decoded values, and the FP comparisons, minima, maxima and classes that rest on it (R25, R120 to R122).
-/
namespace Sys2Proof.Machine

/-! ### The order of decoded values agrees with that of their rationals -/

/-- A finite value in units of 2^lo, when lo is no greater than its exponent. -/
def signedUnits (neg : Bool) (m : Nat) (e lo : Int) : Int := (if neg then -1 else 1) * (m * 2 ^ (e - lo).toNat : Nat)

theorem rat_eq_signedUnits (neg : Bool) (m : Nat) {e lo : Int} (h : lo ≤ e) :
    (FVal.fin neg m e).rat = (signedUnits neg m e lo : Rat) * (2 : Rat) ^ lo := by
  have hpow : (2 : Rat) ^ e = 2 ^ (e - lo).toNat * (2 : Rat) ^ lo := by
    rw [← zpow_natCast, ← zpow_add₀ (by norm_num), Int.toNat_of_nonneg (by omega), Int.sub_add_cancel]
  rw [FVal.rat, signedUnits, hpow]
  push_cast
  split <;> ring

theorem lt_fin_iff (n k : Bool) (p q : Nat) (e g : Int) :
    (FVal.fin n p e).lt (FVal.fin k q g) = true ↔ (FVal.fin n p e).rat < (FVal.fin k q g).rat := by
  have hunit : (0 : Rat) < (2 : Rat) ^ min e g := by positivity
  rw [rat_eq_signedUnits n p (min_le_left e g), rat_eq_signedUnits k q (min_le_right e g), mul_lt_mul_iff_left₀ hunit, Int.cast_lt]
  exact decide_eq_true_iff

/-- The comparison of R120 and R121 is the order of numbers. -/
theorem FVal.lt_iff (a b : FVal) : a.lt b = true ↔ a.less b := by
  cases a with
  | nan _ => exact iff_of_false Bool.false_ne_true id
  | inf n =>
    cases b with
    | nan _ => exact iff_of_false Bool.false_ne_true id
    | inf k => simp [FVal.lt, FVal.less]
    | fin k q g => rfl
  | fin n p e =>
    cases b with
    | nan _ => exact iff_of_false Bool.false_ne_true id
    | inf k => simp [FVal.lt, FVal.less]
    | fin k q g => exact lt_fin_iff n k p q e g

theorem FVal.eqv_iff (a b : FVal) : a.eqv b = true ↔ a.same b := by
  simp [FVal.eqv, FVal.same, ← FVal.lt_iff, and_assoc]

/-- The order with −0 below +0 (R120). -/
theorem FVal.ltz_iff (a b : FVal) : a.ltz b = true ↔ a.less b ∨ (a.same b ∧ a.isNeg = true ∧ b.isNeg = false) := by
  simp [FVal.ltz, ← FVal.lt_iff, ← FVal.eqv_iff, and_assoc]

theorem FVal.less_asymm : ∀ {a b : FVal}, a.less b → ¬ b.less a
  | .nan _, _, h, _ => h
  | .inf _, .nan _, h, _ => h
  | .fin .., .nan _, h, _ => h
  | .inf _, .inf _, ⟨_, hk⟩, ⟨hk', _⟩ => Bool.false_ne_true (hk.symm.trans hk')
  | .inf _, .fin .., hn, hn' => Bool.false_ne_true (hn'.symm.trans hn)
  | .fin .., .inf _, hk, hk' => Bool.false_ne_true (hk.symm.trans hk')
  | .fin .., .fin .., h, h' => lt_asymm h h'

theorem FVal.ltz_asymm {a b : FVal} (h : a.ltz b = true) : b.ltz a = false := by
  rw [FVal.ltz_iff] at h
  rw [Bool.eq_false_iff, ne_eq, FVal.ltz_iff]
  rintro (hba | ⟨⟨-, -, hba, hab⟩, hneg, hpos⟩)
  · rcases h with hab | ⟨⟨-, -, -, hba'⟩, -⟩
    · exact FVal.less_asymm hab hba
    · exact hba' hba
  · rcases h with hab' | ⟨-, hneg', -⟩
    · exact hab hab'
    · exact Bool.false_ne_true (hpos.symm.trans hneg')

theorem FVal.ltz_irrefl (a : FVal) : a.ltz a = false :=
  Bool.eq_false_iff.mpr fun h => Bool.false_ne_true ((FVal.ltz_asymm h).symm.trans h)

/-! ### Results with no exception enabled (R38) -/

theorem State.givesFp_of_en_zero {s : State} {i : Instr} {d : Fin 32} {r : Res} (hen : s.me.en = 0) (hexec : exec i s = .next (s.fpRetire d r)) :
    s.givesFp i d r :=
  State.givesFp_of_fpRetire hexec (Thread.fpHeld_eq_none fun h => absurd hen h) (by simp [hen])

/-! ### Comparisons (R121) -/

theorem bit_of_iff {c : Bool} {P : Prop} (h : c = true ↔ P) : (c.toNat = 1 ∧ P) ∨ (c.toNat = 0 ∧ ¬ P) := by
  cases c with
  | false => exact .inr ⟨rfl, fun hp => Bool.false_ne_true (h.mpr hp)⟩
  | true => exact .inl ⟨rfl, h.mp rfl⟩

theorem nv_of_iff {c : Bool} {P : Prop} (h : c = true ↔ P) : ((if c then NV else 0) = NV ∧ P) ∨ ((if c then NV else 0) = (0 : FlagSet) ∧ ¬ P) := by
  cases c with
  | false => exact .inr ⟨rfl, fun hp => Bool.false_ne_true (h.mpr hp)⟩
  | true => exact .inl ⟨rfl, h.mp rfl⟩

/-! ### Minimum and maximum (R120) -/

section MinMax
variable (f : Fmt) (x y : Nat)

/-- The flags of a minimum or maximum: NV where an operand is a signalling NaN. -/
theorem minmax_flags (max : Bool) : (f.minmax max x y).flags = if (f.decode x).isSig || (f.decode y).isSig then NV else 0 := by
  simp only [Fmt.minmax, apply_ite Res.flags, ite_self]

theorem minmax_of_nans (max : Bool) (hx : (f.decode x).isNan = true) (hy : (f.decode y).isNan = true) : (f.minmax max x y).bits = f.canonNan := by
  simp [Fmt.minmax, hx, hy]

theorem minmax_of_left (max : Bool) (hx : (f.decode x).isNan = false) (hy : (f.decode y).isNan = true) : (f.minmax max x y).bits = x := by
  simp [Fmt.minmax, hx, hy]

theorem minmax_of_right (max : Bool) (hx : (f.decode x).isNan = true) (hy : (f.decode y).isNan = false) : (f.minmax max x y).bits = y := by
  simp [Fmt.minmax, hx, hy]

variable {f x y} (hx : (f.decode x).isNan = false) (hy : (f.decode y).isNan = false)
include hx hy

/-- The minimum of two numbers is one of them, and neither lies below it. -/
theorem min_of_numbers : ((f.minmax false x y).bits = x ∨ (f.minmax false x y).bits = y) ∧
    ∀ v ∈ [f.decode x, f.decode y], v.ltz (f.decode (f.minmax false x y).bits) = false := by
  have hbits : (f.minmax false x y).bits = if (f.decode y).ltz (f.decode x) then y else x := by simp [Fmt.minmax, hx, hy]
  rw [hbits]
  split
  · next h => simp [FVal.ltz_asymm h, FVal.ltz_irrefl]
  · next h => simp [h, FVal.ltz_irrefl]

/-- The maximum of two numbers is one of them, and it lies below neither. -/
theorem max_of_numbers : ((f.minmax true x y).bits = x ∨ (f.minmax true x y).bits = y) ∧
    ∀ v ∈ [f.decode x, f.decode y], (f.decode (f.minmax true x y).bits).ltz v = false := by
  have hbits : (f.minmax true x y).bits = if (f.decode x).ltz (f.decode y) then y else x := by simp [Fmt.minmax, hx, hy]
  rw [hbits]
  split
  · next h => simp [FVal.ltz_asymm h, FVal.ltz_irrefl]
  · next h => simp [h, FVal.ltz_irrefl]

end MinMax

/-! ### Classes (R122) -/

/-- The kind of a value in the class word, and the exponent that the word holds. -/
def classFields (f : Fmt) : FVal → Nat × Int
  | .nan sig => (if sig then 5 else 4, 0)
  | .inf _ => (3, 0)
  | .fin _ m e => if m = 0 then (0, 0) else (if m < 2 ^ f.fb then 1 else 2, e + Nat.log2 m)

theorem classWord_eq (f : Fmt) (n : Nat) :
    classWord f n = wrapInt 16 (classFields f (f.decode n)).2 * 2 ^ 16 + n / 2 ^ (f.eb + f.fb) % 2 * 8 + (classFields f (f.decode n)).1 :=
  rfl

theorem classFields_kind_lt (f : Fmt) (v : FVal) : (classFields f v).1 < 8 := by
  cases v with
  | nan sig => cases sig <;> simp [classFields]
  | inf _ => simp [classFields]
  | fin _ m e =>
    simp only [classFields]
    split_ifs <;> simp

theorem wrapInt_eq_ofInt (w : Nat) (z : Int) : wrapInt w z = (BitVec.ofInt w z).toNat := by
  rw [wrapInt, BitVec.toNat_ofInt]
  norm_cast

theorem classWord_kind (f : Fmt) (n : Nat) : classWord f n % 8 = (classFields f (f.decode n)).1 := by
  have hkind := classFields_kind_lt f (f.decode n)
  rw [classWord_eq]
  omega

theorem classWord_exponent (f : Fmt) (n : Nat) : classWord f n / 2 ^ 16 = (BitVec.ofInt 16 (classFields f (f.decode n)).2).toNat := by
  have hkind := classFields_kind_lt f (f.decode n)
  rw [classWord_eq, wrapInt_eq_ofInt]
  omega

theorem classWord_sign (f : Fmt) (n : Nat) : classWord f n / 8 % 2 = n / 2 ^ (f.width - 1) % 2 := by
  have hkind := classFields_kind_lt f (f.decode n)
  have hwidth : f.width - 1 = f.eb + f.fb := by rw [Fmt.width]; omega
  rw [classWord_eq, hwidth]
  omega

theorem classWord_zero_bits (f : Fmt) (n : Nat) : classWord f n < 2 ^ 32 ∧ classWord f n / 2 ^ 4 % 2 ^ 12 = 0 := by
  have hkind := classFields_kind_lt f (f.decode n)
  have hex := (BitVec.ofInt 16 (classFields f (f.decode n)).2).isLt
  rw [classWord_eq, wrapInt_eq_ofInt]
  omega

/-- A finite pattern is subnormal, with the least exponent, or has its leading bit set (R25, R26). -/
theorem decode_fin_bounds {f : Fmt} {n m : Nat} {neg : Bool} {e : Int} (h : f.decode n = .fin neg m e) :
    (m < 2 ^ f.fb ∧ e = f.emin - f.fb) ∨ (2 ^ f.fb ≤ m ∧ f.emin - f.fb ≤ e) := by
  have hfinite (sign : Bool) (h : (if n / 2 ^ f.fb % 2 ^ f.eb = 0 then FVal.fin sign (n % 2 ^ f.fb) (1 - f.bias - f.fb)
      else .fin sign (n % 2 ^ f.fb + 2 ^ f.fb) (((n / 2 ^ f.fb % 2 ^ f.eb : Nat) : Int) - f.bias - f.fb)) = .fin neg m e) :
      (m < 2 ^ f.fb ∧ e = f.emin - f.fb) ∨ (2 ^ f.fb ≤ m ∧ f.emin - f.fb ≤ e) := by
    have hfr : n % 2 ^ f.fb < 2 ^ f.fb := Nat.mod_lt _ (by positivity)
    rw [Fmt.emin]
    split at h <;> cases h <;> omega
  unfold Fmt.decode at h
  dsimp only at h
  split at h
  · split at h
    · split at h <;> cases h
    · split at h
      · cases h
      · exact hfinite _ h
    · exact hfinite _ h
  · exact hfinite _ h

/-- A nonzero finite pattern is subnormal where its leading bit stands below the least exponent. -/
theorem subnormal_iff {f : Fmt} {n m : Nat} {neg : Bool} {e : Int} (h : f.decode n = .fin neg m e) (hm : m ≠ 0) :
    m < 2 ^ f.fb ↔ e + m.log2 < f.emin := by
  have hlog := Nat.log2_lt (k := f.fb) hm
  rcases decode_fin_bounds h with ⟨hlt, he⟩ | ⟨hle, he⟩
  · have hsmall : m.log2 < f.fb := hlog.mpr hlt
    exact iff_of_true hlt (by omega)
  · have hlarge : ¬ m.log2 < f.fb := mt hlog.mp hle.not_gt
    exact iff_of_false hle.not_gt (by omega)

/-- The leading bit of a magnitude gives its exponent. -/
theorem abs_rat_bounds (neg : Bool) {m : Nat} (hm : m ≠ 0) (e : Int) :
    (2 : Rat) ^ (e + m.log2) ≤ |(FVal.fin neg m e).rat| ∧ |(FVal.fin neg m e).rat| < (2 : Rat) ^ (e + m.log2 + 1) := by
  have hunit : (0 : Rat) < (2 : Rat) ^ e := by positivity
  have habs : |(FVal.fin neg m e).rat| = m * (2 : Rat) ^ e := by
    rw [FVal.rat, abs_mul, abs_mul, abs_of_pos hunit, Nat.abs_cast]
    cases neg <;> simp
  have hlow : (2 : Rat) ^ m.log2 ≤ m := by exact_mod_cast Nat.log2_self_le hm
  have hhigh : (m : Rat) < 2 ^ (m.log2 + 1) := by exact_mod_cast Nat.lt_log2_self
  rw [habs, add_assoc, zpow_add₀ two_ne_zero, zpow_add₀ two_ne_zero, mul_comm]
  refine ⟨?_, ?_⟩
  · rw [zpow_natCast]
    exact mul_le_mul_of_nonneg_right hlow hunit.le
  · rw [mul_comm]
    exact_mod_cast mul_lt_mul_of_pos_left hhigh hunit

end Sys2Proof.Machine

section
open Sys2Proof Sys2Proof.Machine

/-- Settles O5: with no exception enabled every result retires, the comparisons are the order of the values, and the class word's fields are those of
`classFields`. -/
theorem fpComparisonsAndClasses : Obligations.FpComparisonsAndClasses := by
  unfold Obligations.FpComparisonsAndClasses
  refine ⟨fun s d p q f hen => ?compare, fun s d p q f hen => ?minmax, fun s d p f hen => ?classes⟩
  case compare =>
    intro a b nan sig
    have heq : a.eqv b = true ↔ a.same b := FVal.eqv_iff a b
    have hlt : a.lt b = true ↔ a.less b := FVal.lt_iff a b
    have hle : (a.lt b || a.eqv b) = true ↔ a.less b ∨ a.same b := by rw [Bool.or_eq_true, hlt, heq]
    have hnan : (a.isNan || b.isNan) = true ↔ nan := Bool.or_eq_true_iff
    have hsig : (a.isSig || b.isSig) = true ↔ sig := Bool.or_eq_true_iff
    have hgives (c : FpCond) := State.givesFp_of_en_zero hen (exec_fcmp d p q c f)
    exact ⟨_, _, _, _, hgives .eq, hgives .lt, hgives .le, hgives .un, bit_of_iff heq, bit_of_iff hlt, bit_of_iff hle, bit_of_iff hnan,
      (nv_of_iff hsig).imp (fun h => ⟨h.1, h⟩) (fun h => ⟨h.1, h⟩), (nv_of_iff hnan).imp (fun h => ⟨h.1, h⟩) (fun h => ⟨h.1, h⟩)⟩
  case minmax =>
    intro x y a b under
    have hunder (u v : FVal) : ¬ under u v ↔ u.ltz v = false := by rw [Bool.eq_false_iff, ne_eq, FVal.ltz_iff]
    have hsig : (a.isSig || b.isSig) = true ↔ a.isSig = true ∨ b.isSig = true := Bool.or_eq_true_iff
    refine ⟨_, _, State.givesFp_of_en_zero hen (exec_fmin d p q f), State.givesFp_of_en_zero hen (exec_fmax d p q f), fun ha hb => ?numbers,
      fun ha hb => ⟨minmax_of_left f.fmt x y false ha hb, minmax_of_left f.fmt x y true ha hb⟩,
      fun ha hb => ⟨minmax_of_right f.fmt x y false ha hb, minmax_of_right f.fmt x y true ha hb⟩,
      fun ha hb => ⟨minmax_of_nans f.fmt x y false ha hb, minmax_of_nans f.fmt x y true ha hb⟩,
      (minmax_flags f.fmt x y false).trans (minmax_flags f.fmt x y true).symm, ?flags⟩
    case numbers =>
      obtain ⟨hlo, hmin⟩ := min_of_numbers ha hb
      obtain ⟨hhi, hmax⟩ := max_of_numbers ha hb
      exact ⟨hlo, hhi, fun v hv => ⟨(hunder _ _).mpr (hmin v hv), (hunder _ _).mpr (hmax v hv)⟩⟩
    case flags =>
      rw [minmax_flags]
      simpa using nv_of_iff hsig
  case classes =>
    intro n
    obtain ⟨hfits, hzero⟩ := classWord_zero_bits f.fmt n
    refine ⟨_, State.givesFp_of_en_zero hen (exec_fclass d p f), rfl, hfits, hzero, classWord_sign f.fmt n, ?_⟩
    have hkind := classWord_kind f.fmt n
    have hexponent := classWord_exponent f.fmt n
    split
    · next sig hn =>
      rw [hn] at hkind hexponent
      exact ⟨hkind, hexponent⟩
    · next hn =>
      rw [hn] at hkind hexponent
      exact ⟨hkind, hexponent⟩
    · next neg m e hn =>
      rw [hn] at hkind hexponent
      intro v
      split
      · next hm =>
        rw [classFields, if_pos hm] at hkind hexponent
        exact ⟨hkind, hexponent⟩
      · next hm =>
        rw [classFields, if_neg hm] at hkind hexponent
        obtain ⟨hlow, hhigh⟩ := abs_rat_bounds neg hm e
        exact ⟨e + m.log2, hexponent, hlow, hhigh, hkind.trans (if_congr (subnormal_iff hn hm) rfl rfl)⟩

end
end
